-- ==== Sys2Proof/Word.lean ====
section
/-!
DEFINITION. Words of the Lyskor L9 and their plainest arithmetic: bit 0 is the least significant bit (spec 00, R7),
and words are little-endian in memory.
-/
namespace Sys2Proof

/-- One byte. -/
abbrev Byte := BitVec 8
/-- A 32-bit word: an instruction word or one lane's element of a row (R36, R114). -/
abbrev W32 := BitVec 32
/-- A 64-bit word: a uniform register, an x register, a mask, an address (R41, R44). -/
abbrev W64 := BitVec 64

/-- Bits `[lo + len - 1 : lo]` of a word. -/
abbrev bits {n : Nat} (x : BitVec n) (lo len : Nat) : BitVec len := x.extractLsb' lo len

end Sys2Proof
end

