-- ==== Sys2Proof/Machine/FMap.lean ====
section
/-! DEFINITION. Sparse maps keyed by a number, held as lists with strictly rising keys, and byte memory in one canonical
form: addresses strictly rising, no entry equal to what an unlisted address reads as (zero). -/
namespace Sys2Proof.Machine

/-- A sparse map: key and value pairs, keys strictly rising. -/
abbrev FMap (α : Type) := List (Nat × α)

/-- The value at a key, if the key is listed. -/
def FMap.find {α : Type} : FMap α → Nat → Option α
  | [], _ => none
  | (k, v) :: rest, n => if n = k then some v else FMap.find rest n

/-- The value at a key, or `d` where the key is not listed. -/
def FMap.at {α : Type} (d : α) (m : FMap α) (n : Nat) : α := (FMap.find m n).getD d

/-- `m` with `v` at key `n`; keys stay rising. -/
def FMap.put {α : Type} : FMap α → Nat → α → FMap α
  | [], n, v => [(n, v)]
  | (k, w) :: rest, n, v =>
    if n < k then (n, v) :: (k, w) :: rest
    else if n = k then (n, v) :: rest
    else (k, w) :: FMap.put rest n v

/-- `m` without key `n`. -/
def FMap.del {α : Type} : FMap α → Nat → FMap α
  | [], _ => []
  | (k, w) :: rest, n => if n = k then rest else (k, w) :: FMap.del rest n

/-- `m` with the value at `n` changed by `f`, where `n` is listed. -/
def FMap.update {α : Type} (m : FMap α) (n : Nat) (f : α → α) : FMap α :=
  match FMap.find m n with
  | some v => FMap.put m n (f v)
  | none => m

/-- The listed values, in key order. -/
def FMap.vals {α : Type} (m : FMap α) : List α := m.map Prod.snd

/-- Keys strictly rise from above `lo`. -/
def FMap.risesFrom {α : Type} (lo : Nat) : FMap α → Bool
  | [] => true
  | (k, _) :: rest => decide (lo ≤ k) && FMap.risesFrom (k + 1) rest

/-- The canonical order of a sparse map: keys strictly rising. -/
def FMap.wf {α : Type} (m : FMap α) : Bool := FMap.risesFrom 0 m

/-- Byte memory: the listed bytes; every other address reads as zero. -/
abbrev Mem := List Host.Cell

/-- What an unlisted byte reads as. DESIGN CHOICE (log 4): the spec gives HBM no contents after power-on; core-local
memory reads zero when it is allocated (R69), and the frame ownership table is written all invalid (R320). -/
def Mem.blank : Byte := 0

/-- One byte. -/
def Mem.read (m : Mem) (a : Nat) : Byte := FMap.at Mem.blank m a

/-- Writes one byte, keeping the canonical form. -/
def Mem.write (m : Mem) (a : Nat) (b : Byte) : Mem :=
  if b = Mem.blank then FMap.del m a else FMap.put m a b

/-- The canonical form: addresses strictly rising, and no listed byte equal to what an unlisted one reads as. -/
def Mem.wf (m : Mem) : Bool := FMap.wf m && m.all (fun c => c.2 != Mem.blank)

/-- `n` bytes from `a` upward as a number, least significant byte first (R7). -/
def Mem.readNat (m : Mem) (a : Nat) : Nat → Nat
  | 0 => 0
  | n + 1 => (Mem.read m a).toNat + 256 * Mem.readNat m (a + 1) n

/-- Writes the low `n` bytes of `v` from `a` upward, least significant first (R7). -/
def Mem.writeNat (m : Mem) (a : Nat) : Nat → Nat → Mem
  | 0, _ => m
  | n + 1, v => Mem.writeNat (Mem.write m a (BitVec.ofNat 8 v)) (a + 1) n (v / 256)

/-- A 64-bit word at `a`. -/
def Mem.read64 (m : Mem) (a : Nat) : W64 := BitVec.ofNat 64 (Mem.readNat m a 8)

/-- Stores a 64-bit word at `a`. -/
def Mem.write64 (m : Mem) (a : Nat) (v : W64) : Mem := Mem.writeNat m a 8 v.toNat

/-- The bytes from `a` upward. -/
def Mem.readBytes (m : Mem) (a : Nat) : Nat → List Byte
  | 0 => []
  | n + 1 => Mem.read m a :: Mem.readBytes m (a + 1) n

/-- Stores a list of bytes from `a` upward. -/
def Mem.writeBytes (m : Mem) (a : Nat) : List Byte → Mem
  | [] => m
  | b :: bs => Mem.writeBytes (Mem.write m a b) (a + 1) bs

/-- Clears `n` bytes from `a` upward. -/
def Mem.clear (m : Mem) (a n : Nat) : Mem := m.filter (fun c => decide (c.1 < a) || decide (a + n ≤ c.1))

/-- A sorted list of numbers without repeats, used as a set: adds `n`. -/
def NSet.add : List Nat → Nat → List Nat
  | [], n => [n]
  | k :: rest, n => if n < k then n :: k :: rest else if n = k then k :: rest else k :: NSet.add rest n

/-- A set of numbers without `n`. -/
def NSet.del (l : List Nat) (n : Nat) : List Nat := l.filter (· != n)

end Sys2Proof.Machine
end

