-- ==== Sys2Proof/Machine/Types.lean ====
section
/-! DEFINITION. The plain data the machine is made of, below State itself: types of elements, registers, traps, slots, groups,
sequencer threads, operations in flight, teams, launches, contexts, queues and the hub's records. Names are the spec's. -/
namespace Sys2Proof.Machine

/-- The element types of R56, in the order of their TY codes. -/
inductive ElemTy where
  | b32 | b64 | i32 | n32 | i64 | n64 | f32 | f64 | f16 | bf16 | i16 | n16 | i8 | n8 | rna | rnb | i4 | i2 | b1
  deriving DecidableEq, Repr

/-- The four rounding modes of R58, in the order of their codes. -/
inductive RM where
  | rne | rtz | rdn | rup
  deriving DecidableEq, Repr

/-- The slots of a group: two PC slots (R24) and the handler slot (R326). -/
inductive SlotId where
  | pc0 | pc1 | handler
  deriving DecidableEq, Repr

/-- An issuing agent (R83): a slot of the group in a register place, or a sequencer thread. A group is keyed by its place,
64 x core + 16 x QTR + SLOT, and a thread by 4 x core + thread number. -/
inductive Agent where
  | group (g : Nat) (slot : SlotId)
  | thread (t : Nat)
  deriving DecidableEq, Repr

/-- Where in each lane of a row a vector name lies (R38). -/
inductive Part where
  | word | pair | half (hi : Bool) | byte (n : Nat)
  deriving DecidableEq, Repr

/-- A resolved register operand. -/
inductive Reg where
  | vec (row : Nat) (part : Part)
  | q (n : Nat)
  | x (n : Nat)
  | mask (n : Nat)
  | acc (bank col rowoff : Nat)
  deriving DecidableEq, Repr

/-- Address spaces of engine operations (R14, R213). -/
inductive Space where
  | g | l | w
  deriving DecidableEq, Repr

/-- The kinds of access that a memory cause names, in the order of their codes (R341). -/
inductive AccKind where
  | load | store | atomic | fetch | engRead | engWrite | regionFill | regionBack
  deriving DecidableEq, Repr

/-- The causes of R330, R333, R340, R350, R353, R354 and R251. -/
inductive Cause where
  | illegal | sched | fempty | relrd | divstk | vbound | page | prot | owner | align | race | dataerr | rfault | mform
  | copyerr | window | swtrap | brk
  deriving DecidableEq, Repr

/-- A trap before it is entered: its cause, address, faulting lanes (`none`: not decided lane by lane), DETAIL and IPOFF. -/
structure Trap where
  cause : Cause
  addr : W64 := 0
  lanes : Option W64 := none
  detail : W64 := 0
  ipoff : W32 := 0
  deriving DecidableEq, Repr

/-- A fault record, words 0 to 7 (R328). -/
structure FaultRecord where
  w0 : W64 := 0
  addr : W64 := 0
  w2 : W64 := 0
  flanes : W64 := 0
  pmask : W64 := 0
  detail : W64 := 0
  w6 : W64 := 0
  time : W64 := 0
  deriving DecidableEq, Repr

/-- Why a slot that has a PC is not a candidate for issue. -/
inductive Park where
  | none
  | nap (untilCycle : Nat)        -- R141
  | yield (untilCycle : Nat)      -- R141
  | waitb (obj : W64) (parity : Bool) (words : Nat)   -- R208, the object's CLM address, the length of the `waitb`
  | woken (obj : W64) (words : Nat)   -- R208, the phase has flipped
  | cpyY (op seq : Nat) (target : W64)   -- R215, the copy and its place in its class
  | hold (op words : Nat)   -- R221, R289, a `reclaim` or `spawn` whose status is outstanding, and its length
  deriving DecidableEq, Repr

/-- The status of a slot (R24, R326). -/
inductive SlotStatus where
  | free | live | waiting | trapped
  deriving DecidableEq, Repr

/-- The drain classes of R101; `free` for operations that carry no charge. -/
inductive DrainClass where
  | memory | matrix | fabric | free
  deriving DecidableEq, Repr

/-- The parts of an instruction's Δ (R105): a class charge, granules backed, CLM lines made dirty, reservations on
target cores. -/
structure Delta where
  cls : DrainClass := .free
  charge : Nat := 0
  backing : Nat := 0
  lines : Nat := 0
  resv : List (Nat × Nat) := []
  deriving DecidableEq, Repr

/-- A candidate that has failed the issue check in every cycle from `since` to `last` (R107, R333), and its Δ. -/
structure Stall where
  since : Nat
  last : Nat
  delta : Delta
  deriving DecidableEq, Repr

/-- An engine error held for the group's next consumer: COPYERR (R350) or RFAULT (R239). `counter` is the counter of the
failed operation: 0 copy, 1 gather, 2 fabric. `seq` is its place among the operations of that counter. -/
structure HeldError where
  cause : Cause
  counter : Nat
  seq : Nat
  addr : W64
  lanes : Option W64
  detail : W64
  ipoff : W32
  dst : Option Reg
  deriving DecidableEq, Repr

/-- A PC slot or the handler slot. `before` is the status a trapped slot returns to (R343), `tok` the number by which its traps'
records find it, `owed` how many of them are unanswered, `tlen` the length in words of the trapped instruction, which
`tret.skip` passes over (R144); 0 where its word 0 was not fetched; `owes` the error of the `cpy.y` that reactivated the slot,
which its next instruction takes (R350); `leaf` the leaf of R312 under which its port's slots count while it does not issue. -/
structure Slot where
  status : SlotStatus := .free
  pc : W64 := 0
  mask : W64 := 0
  fmt : W32 := 0
  park : Park := .none
  notBefore : Nat := 0
  lastIssue : Nat := 0
  before : SlotStatus := .live
  escalated : Bool := false
  stall : Option Stall := none
  tlen : Nat := 1
  tok : Nat := 0
  owed : Nat := 0
  owes : Option HeldError := none
  leaf : Nat := 0x13
  deriving DecidableEq, Repr

/-- The kinds of entry of the reconvergence stack (R25). -/
inductive EntryKind where
  | join | path | arrived
  deriving DecidableEq, Repr

/-- An entry of the reconvergence stack (R25): POFF counts words from ENTRY, FMT is fmt[29:0]. A path that is set aside while
it is trapped or parked stays so (R27, R215, R326): `held` is its slot. `stored` is set once an entry below the top two has been written to
the stack area (R26); one whose write or read failed is lost (R330). -/
structure StackEntry where
  kind : EntryKind
  mask : W64
  poff : W32 := 0
  fmt : BitVec 30 := 0
  held : Option Slot := none
  stored : Bool := false
  lost : Bool := false
  deriving DecidableEq, Repr

/-- A row of the register space (R45): its data, lane by lane, its state and its ready cycle (R54). -/
structure Row where
  backed : Bool := false
  full : Bool := true
  spilled : Bool := false
  inBuffer : Bool := false
  lost : Bool := false
  refilling : Bool := false
  ready : Nat := 0
  written : Nat := 0
  data : List W32 := []
  deriving DecidableEq, Repr

/-- A uniform, mask or x register with its full/empty bit and ready cycle (R41, R44, R51, R54). -/
structure Cell64 where
  val : W64 := 0
  full : Bool := true
  ready : Nat := 0
  deriving DecidableEq, Repr

/-- A cause detected after issue, held for the agent's next consumer (R342). -/
structure Late where
  cause : Cause
  addr : W64
  lanes : W64
  detail : W64
  dsts : List Reg
  deriving DecidableEq, Repr

/-- A trap that waits for the handler slot (R327): the slot, its number, its record, the handler's mask, the parked engine operation it
reports (R343), and the cycle of the trap. -/
structure Pending where
  slot : SlotId
  tok : Nat
  record : FaultRecord
  mask : W64
  eng : Option Nat
  cycle : Nat := 0
  deriving DecidableEq, Repr

/-- The handler slot of a group (R326): the slot it serves, that slot's record, the engine operation it reports, and the cycle of its
trap. -/
structure Handler where
  slot : Slot := {}
  serves : SlotId := .pc0
  tok : Nat := 0
  record : FaultRecord := {}
  eng : Option Nat := none
  cycle : Nat := 0
  stopped : Bool := false
  deriving DecidableEq, Repr

/-- Who an agent is for the scopes of R85: its number, core, team, and whether it is a sequencer thread. -/
structure Site where
  uid : Nat
  core : Nat
  team : Nat
  thread : Bool
  deriving DecidableEq, Repr

/-- A release with its scope and epoch (R85, R89). -/
structure SyncMark where
  site : Site
  scope : Nat
  epoch : W64
  deriving DecidableEq, Repr

/-- The fixed state every agent has: the number by which race stamps name it, counts, shadows, ordinal, race regions (R146, R147, R316, R347), the acknowledgement
counter (R33), the causes that come with acknowledgements still to return, and those detected (R342). `rels` are the epochs of the
latest release fences by scope, `seen` the latest REPOCH that a relaxed atomic read, `seenMarks` the releases at CLM locations that
atomics and `waitb` have read (R89). -/
structure AgentState where
  uid : Nat := 0
  start : Nat := 0
  held : Nat := 0
  icnt : W64 := 0
  vShadow : W32 := 0
  iShadow : W32 := 0
  cShadow : W32 := 0
  ord : BitVec 16 := 0xFFFF
  region : BitVec 16 := 0
  closed : List W64 := []
  horizon : W64 := 0
  rels : FMap W64 := []
  seen : W64 := 0
  seenMarks : List SyncMark := []
  ack : Nat := 0
  ackLate : List Late := []
  late : List Late := []
  deriving DecidableEq, Repr

/-- A group (R15, R41, R43). `lostPins` are names that stay pinned in the directory until the group ends, `lost` says that its fixed state was
lost by a save (R337). -/
structure Group where
  ctx : Nat
  team : Nat
  launch : Nat
  index : Nat := 0
  width : Nat := 16
  half : Bool := false
  floor : Nat := 0
  strict : Bool := false
  vpol : Bool := false
  relrd : Bool := false
  vw1 : W64 := 0
  vw2 : W64 := 0
  vw3 : W64 := 0
  entry : W64 := 0
  spt : W64 := 0
  rows : FMap Row := []
  qs : FMap Cell64 := []
  ms : FMap Cell64 := []
  pns : FMap W64 := []
  s0 : Slot := {}
  s1 : Slot := {}
  handler : Handler := {}
  pending : List Pending := []
  stack : List StackEntry := []
  copies : Nat := 0
  gathers : Nat := 0
  fabric : Nat := 0
  copySeq : Nat := 0
  gatherSeq : Nat := 0
  fabricSeq : Nat := 0
  logged : Nat := 0
  loggedAt : FMap Nat := []
  agent : AgentState := {}
  errors : List HeldError := []
  fatal : Bool := false
  lost : Bool := false
  lostPins : List W64 := []
  deriving DecidableEq, Repr

/-- A sequencer thread (R44, R253). -/
structure Thread where
  ctx : Nat
  team : Nat
  launch : Nat
  entry : W64 := 0
  spt : W64 := 0
  xs : FMap Cell64 := []
  sfmt : W32 := 0
  rps : FMap W64 := []
  cps : FMap (BitVec 128) := []
  oms : FMap W64 := []
  rowScales : FMap W32 := []
  slot : Slot := {}
  matCount : Nat := 0
  agent : AgentState := {}
  ended : Bool := false
  fatal : Bool := false
  record : FaultRecord := {}
  deriving DecidableEq, Repr

/-- The bytes an engine transfer moves and how far it has come (R214, R218); `snapshot` are source bytes, by offset, that it has read and not
yet written: where the ranges overlap, those that stood there at issue. -/
structure Xfer where
  ssp : Space
  src : W64
  dsp : Space
  dst : W64
  size : Nat
  landed : Nat := 0
  snapshot : FMap Byte := []
  deriving DecidableEq, Repr

/-- A matrix operation (R222): what it captured at issue (sfmt, maps, predicates, shape), the ranges that the operand guard holds for
it (R231; the second is the column scales of `mscale`), its place among the operations that have started and the cycle in which it did
(R254), the cycles in which an `mma` entered the broadcast and the combining stage (R256), the A rows in the row buffers (key 1024 x row + k),
the panels that it multiplies them by, by macro of the group, and the row scales that it uses. -/
structure MatOp where
  opcode : Nat
  bank : Nat := 0
  nbanks : Nat := 0
  macro0 : Nat := 0
  rows : Nat := 0
  sfmt : W32 := 0
  om : W64 := 0
  om2 : W64 := 0
  rp : W64 := 0
  cp : BitVec 128 := 0
  nopred : Bool := false
  ty : ElemTy := .f32
  dst : W64 := 0
  guardLo : Nat := 0
  guardHi : Nat := 0
  guard2Lo : Nat := 0
  guard2Hi : Nat := 0
  guarded : Bool := false
  started : Bool := false
  order : Nat := 0
  startAt : Nat := 0
  castAt : Option Nat := none
  combAt : Option Nat := none
  readDone : Bool := false
  aData : FMap W32 := []
  panels : FMap (FMap W32) := []
  rowScales : FMap W32 := []
  deriving DecidableEq, Repr

/-- The remote operations (R235). -/
inductive RemoteKind where
  | rld | rst | ratom
  deriving DecidableEq, Repr

/-- One lane of a remote request: its address, operand and comparand. -/
structure RemoteLane where
  lane : Nat
  va : W64
  data : W64 := 0
  cmp : W64 := 0
  deriving DecidableEq, Repr

/-- One part of a remote instruction as a request to a peer (R235): the sending device, group (its number and its place), the
operation of `ratom`, the ordering (R236), the planes on which its packets were sent (R293, R360). -/
structure RemoteReq where
  id : Nat
  kind : RemoteKind
  op : Nat := 0
  ty : ElemTy
  ordering : Nat := 0
  fromDev : Nat
  fromGroup : Nat
  fromPlace : Nat := 0
  toDev : Nat
  fgrp : BitVec 16
  lanes : List RemoteLane
  planes : List Nat := []
  rel : Bool := false
  deriving DecidableEq, Repr

/-- The reply to one part (R237 to R239): values by lane and the success lanes of `cas`; the lines logged; a fault code. -/
inductive RemoteReply where
  | done (vals : FMap W64) (ok : W64)
  | logged (lines : Nat)
  | fault (code : Nat)
  deriving DecidableEq, Repr

/-- One step of a collective's sequence (R296): ranges of elements, from one and below another, sent to a rank and taken from a rank;
none: the switches (R299). -/
structure CollStep where
  sendTo : Option Nat := none
  sends : List (Nat × Nat) := []
  recvFrom : Option Nat := none
  recvs : List (Nat × Nat) := []
  combine : Bool := false
  deriving DecidableEq, Repr

/-- The header of a collective's step (R358). -/
structure CollHeader where
  tag : Nat
  ordinal : Nat
  kind : Nat
  op : Nat
  typ : Nat
  bytes : Nat
  ranks : List Nat
  deriving DecidableEq, Repr

/-- What the network tells of a step that is due (R358): its header, that the peer holds no context of the fabric group, that the peer's
bucket has ended with a mismatch. -/
inductive StepAnswer where
  | header (h : CollHeader)
  | lost
  | mismatch
  deriving DecidableEq, Repr

/-- What a replay notice tells of its sender and of the group that it is for (R357). -/
structure LogNotice where
  peer : Nat
  group : Nat
  deriving DecidableEq, Repr

/-- A receive-reduce command in a stack's queue (R294): its bucket, the place of its bytes among those of the step, and the bytes. -/
structure ReduceCmd where
  op : Nat
  off : Nat
  data : List Byte
  deriving DecidableEq, Repr

/-- One bucket of a collective in flight (R242, R243): the steps left, whether the first of them has sent and since when (ticks), the
ranges of its bytes that have been taken in (lengths by place), the switches' decision (R299), its status, the bytes that its completed steps
have taken in, what stood where the first step's bytes have landed (R358), and the message that the hub keeps for it while it is parked (R336). -/
structure Bucket where
  lane : Nat
  header : CollHeader
  rank : Nat
  peerRank : Nat
  innet : Bool
  va : W64
  steps : List CollStep
  started : Bool := false
  sentAny : Bool := false
  got : FMap Nat := []
  slots : Option Bool := none
  status : Nat := 0
  since : Nat := 0
  landed : Nat := 0
  undo : List (W64 × List Byte) := []
  kept : Option (StepAnswer × List Byte) := none
  deriving DecidableEq, Repr

/-- What an operation in flight does. -/
inductive OpKind where
  /-- A copy (R214); `obj` its barrier object; `yields` the slot and label of `cpy.y` (R215). -/
  | copy (x : Xfer) (obj : Option W64) (yields : Option (SlotId × W64))
  /-- A kick (R218): list offset, count, entries started. -/
  | kick (list count started : Nat)
  /-- A request entry in flight (R218): its kick, its offset, its transfer, object and ARR. -/
  | entry (kick offset : Nat) (x : Xfer) (obj : Option Nat) (arr : Bool) (status : Nat)
  /-- A gather (R216): its destination, the lanes that get its one element with U = 1 (R118), element addresses by lane. -/
  | gather (sp : Space) (ty : ElemTy) (dst : Reg) (spread : List Nat) (addrs : FMap W64) (got : FMap W64)
  /-- A scatter (R216): element addresses and data by lane, elements done. -/
  | scatter (sp : Space) (ty : ElemTy) (addrs data : FMap W64) (count : Nat)
  /-- A write-back of `cflush` or `cunmap` (R206): the core, and block offset, address, dirty-byte mask and bytes of each
  line left. -/
  | writeBack (team core : Nat) (lines : List (Nat × W64 × W64)) (total : Nat)
  /-- `mapf` (R248): page address, permissions, destination. -/
  | mapf (va : W64) (perm : BitVec 3) (dst : Reg)
  /-- A load or value-returning atomic whose data is on its way (R194, R201), with the success mask of `cas`. -/
  | load (ty : ElemTy) (dst : Reg) (lanes : W64) (vals : FMap W64) (succ : Option (Nat × W64)) (late : Option Late)
  /-- A refill of a spilled row (R50). -/
  | refill (row : Nat)
  /-- The pin search of `reclaim` (R210): name, destination and its value before; where it waits for room in the freed ring, whether the
  name was in the deferred list (R287). -/
  | search (name : W64) (dst : Reg) (old : W64) (waiting : Option Bool)
  /-- `spawn` waiting for room in the parent's queue (R221): launch, record, destination and its value before. -/
  | spawn (launch : Nat) (record : W64) (dst : Reg) (old : W64)
  /-- One part of a remote instruction (R235): the place of its first part in the counter and how many parts it has, its destination,
  active lanes and success mask, the reply the hub keeps (R336), and the values and success lanes of the parts that have replied. -/
  | remote (first parts : Nat) (req : RemoteReq) (dst : Option Reg) (lanes : W64) (mask : Option Nat) (reply : Option RemoteReply)
      (got : FMap W64) (ok : W64)
  /-- One bucket of `coll` (R242), with the place of its instruction's first bucket in the counter. -/
  | coll (first : Nat) (dst : Reg) (b : Bucket)
  /-- A matrix operation in its thread's queue (R254). -/
  | matrix (m : MatOp)
  deriving DecidableEq, Repr

/-- The outstanding-operation counters of R213; `none` for operations that no counter counts. -/
inductive Counter where
  | copy | gather | fabric | matrix | none
  deriving DecidableEq, Repr

/-- The fault that parked an operation (R343); `quiet` where no record reports it and the engine retries after a restore (R113,
R336). -/
structure ParkInfo where
  cause : Cause
  addr : W64
  detail : W64
  quiet : Bool := false
  deriving DecidableEq, Repr

/-- An operation in flight: the agent and core it is charged to, its drain class and current charge (R102), its counter,
reservations on target cores, and those that it has still to take on cores that were saved (R105, R113), its place among the operations of
its counter, the fault that parked it, its error status; whether it ends with that status once its object can be updated, whether its work is
finished. -/
structure Op where
  agent : Agent
  core : Nat
  ctx : Nat
  cls : DrainClass := .free
  charge : Nat := 0
  counter : Counter := .none
  resv : FMap Nat := []
  owed : FMap Nat := []
  seq : Nat := 0
  poff : W32 := 0
  parked : Option ParkInfo := none
  error : Option Nat := none
  errAddr : W64 := 0
  errEng : Nat := 0
  ending : Bool := false
  finished : Bool := false
  resuming : Bool := false
  issuedAt : Nat := 0
  kind : OpKind
  deriving DecidableEq, Repr

/-- A mapped CLM region (R70, R71): its core, its offset in the team's block there, line states by line number (absent:
untouched; dirty-byte mask, 0: clean), and the untouched lines whose fill has been asked for. -/
structure Region where
  core : Nat := 0
  off : Nat
  lines : Nat
  va : W64
  we : Bool
  state : FMap W64 := []
  asked : List Nat := []
  deriving DecidableEq, Repr

/-- A team (R15, R30). -/
structure Team where
  ctx : Nat
  launch : Nat
  index : Nat
  pair : Nat
  core : Nat
  span : Bool := false
  cfix : Bool := false
  ngroups : Nat := 1
  started : List Nat := []
  ended : Nat := 0
  clmSize : Nat := 0
  clmBase0 : Nat := 0
  clmBase1 : Nat := 0
  bank0 : Nat := 0
  nbanks : Nat := 0
  thread : Option Nat := none
  threadEnded : Bool := true
  regions : FMap Region := []
  deriving DecidableEq, Repr

/-- A CLM block being moved by the compactor (R31). -/
structure Compaction where
  team : Nat
  core : Nat
  target : Nat
  deriving DecidableEq, Repr

/-- A kernel descriptor as the dispatcher reads it (R17). -/
structure Descriptor where
  entry : W64 := 0
  sentry : W64 := 0
  shape : W64 := 0
  res : W64 := 0
  vw0 : W64 := 0
  vw1 : W64 := 0
  vw2 : W64 := 0
  vw3 : W64 := 0
  spt : W64 := 0
  fmt : W64 := 0
  rest : Nat := 0
  deriving DecidableEq, Repr

/-- A launch record (R16). -/
structure LaunchRecord where
  desc : W64
  args : W64
  teams : W64
  phase : W64
  deriving DecidableEq, Repr

/-- A launch from dispatch to its end (R32, R35). -/
structure Launch where
  ctx : Nat
  queue : Nat
  owner : Nat
  record : LaunchRecord
  desc : Option Descriptor := none
  nextTeam : Nat := 0
  ended : Nat := 0
  units : Nat := 0
  child : Bool := false
  rootQueue : Nat := 0
  deriving DecidableEq, Repr

/-- A cached translation of a core (R275, R340): context, first virtual address, size, first physical address, R W X, and
the ownership entries that the walker read with it, by frame. -/
structure TlbEntry where
  core : Nat
  ctx : Nat
  va : Nat
  size : Nat
  pa : Nat
  r : Bool
  w : Bool
  x : Bool
  frames : FMap Nat := []
  deriving DecidableEq, Repr

/-- The four paths of R76. -/
inductive Path where
  | ls | cn | sm | tl
  deriving DecidableEq, Repr

/-- A line held by a path cache (R76), with the context that filled it (R277) and what its hint marked it with (R78): 1 the next to be
replaced, 2 kept, 0 neither. -/
structure CacheLine where
  core : Nat
  path : Path
  line : Nat
  ctx : Nat
  data : List Byte
  mark : Nat := 0
  deriving DecidableEq, Repr

/-- A line held by a slice of the L2 (R79, R80): whether it has been written since it was filled, and the context that filled or last wrote
it, whose owner's HBM bytes count it (R307). -/
structure L2Line where
  dirty : Bool
  ctx : Nat := 0
  deriving DecidableEq, Repr

/-- A `red` that a partial gathers (R342): its agent's number, the cycle of its issue, the address of its lowest lane that the partial has,
those lanes, and its POFF. -/
structure RedSource where
  uid : Nat
  cycle : Nat
  va : W64
  lanes : W64
  poff : W32
  deriving DecidableEq, Repr

/-- A partial of an update-only line (R97): the core, location, operation, type and value, the context, and the `red`s that it gathers, oldest
first (R342). -/
structure Partial where
  core : Nat
  addr : Nat
  op : Nat
  ty : ElemTy
  val : W64
  ctx : Nat := 0
  sources : List RedSource := []
  deriving DecidableEq, Repr

/-- A stamp of a line of global memory (R347), with its agent's number. -/
structure Stamp where
  agent : Option Nat := none
  region : BitVec 16 := 0
  mask : W64 := 0
  repoch : W64 := 0
  deriving DecidableEq, Repr

/-- A compute-in-memory macro (R227): the TY code of its panel's format, the panel's elements keyed 64 x column + k (of which
eB and b' of R66 are functions), the column scales (R230), and the CLM lines that its panel and its scales were read from (R232): the
team, and lines of its block, from 8192 of its block on the partner core. -/
structure Macro where
  fmt : Nat := 8
  vals : FMap W32 := []
  scales : FMap W32 := []
  team : Nat := 0
  lines : List Nat := []
  scaleLines : List Nat := []
  deriving DecidableEq, Repr

/-- The phase of a core in a vacate (R111). -/
inductive CorePhase where
  | running | draining | saving | saved | restoring
  deriving DecidableEq, Repr

/-- One counter of a counter bank (R250, R313): its event select, its count, and the cycle from which it counts; none while it stands still.
The cycle event is brought up to date from that cycle when it is read; the leaves are counted as time passes. -/
structure BankCounter where
  select : Option (BitVec 11) := none
  count : Nat := 0
  since : Option Nat := none
  deriving DecidableEq, Repr

/-- A counter bank of a core (R250, R367). -/
structure CounterBank where
  holder : Option Nat := none
  hyper : Bool := false
  ctrs : FMap BankCounter := []
  deriving DecidableEq, Repr

/-- An entry of a pin CAM (R282). -/
structure PinEntry where
  name : W64
  ctx : Nat
  count : Nat
  deriving DecidableEq, Repr

/-- What belongs to one core beside its groups and threads; the halt's E, class sums and time in ticks (R112). `portA0`, `portA1` and
`portB` are the cycles from which a port of a quarter is free, port A half by half; `firstA` the cycle in which port A of a quarter last
selected a first candidate, with the half to which a 16-lane one is bound, 2 where none may pair with it (R23); `slots` the leaves of a
port's latest issued cycles with their ends, by 2 x quarter, + 1 for port A (R312); `castFree` and `combFree` the cycles from which the
broadcast and the combining stage of the matrix unit are free (R254). -/
structure Core where
  phase : CorePhase := .running
  haltE : Nat := 0
  haltMem : Nat := 0
  haltMat : Nat := 0
  haltFab : Nat := 0
  haltAt : Nat := 0
  lastIssue : Nat := 0
  pins : List PinEntry := []
  counters : FMap CounterBank := []
  portA0 : FMap Nat := []
  portA1 : FMap Nat := []
  portB : FMap Nat := []
  firstA : FMap (Nat × Nat) := []
  slots : FMap (List (Nat × Nat)) := []
  seqFree : Nat := 0
  lastMat : Nat := 3
  castFree : Nat := 0
  combFree : Nat := 0
  lastCharged : Nat := 0
  deriving DecidableEq, Repr

/-- The states of a context (R301). -/
inductive CtxState where
  | configured | resident | saved | zeroing
  deriving DecidableEq, Repr

/-- Items that a save could not write (R337). -/
inductive LostItem where
  | row (g row : Nat) | line (off : Nat) | bank (b : Nat) | groupState (g : Nat) | threadState (t : Nat) | pins (g : Nat)
  deriving DecidableEq, Repr

/-- What one core's save wrote (R111): the core, its groups, threads, teams, the CLM lines that the save area holds (R69), banks, macros,
operations, lost items. -/
structure CoreImage where
  core : Nat
  groups : FMap Group := []
  threads : FMap Thread := []
  teams : FMap Team := []
  lines : List (Nat × List Byte) := []
  banks : FMap W32 := []
  macros : FMap Macro := []
  shadow : FMap (List Byte) := []
  marks : FMap (List SyncMark) := []
  ops : FMap Op := []
  lost : List LostItem := []
  estimate : Nat := 0
  deriving DecidableEq, Repr

/-- Who a posted record belongs to (R331, R332, R387, R337). -/
inductive RecordOwner where
  | slot (g : Nat) (tok : Nat)
  | nested (g : Nat)
  | engine (g : Nat) (tok : Nat) (op : Nat)
  | thread (t : Nat)
  | refused
  | homeReturn (units : Nat) (phase : W64) (queue : Nat)
  | lostAgent (group : Option Nat) (thread : Option Nat)
  deriving DecidableEq, Repr

/-- How a posted record has been answered (R281). -/
inductive Answer where
  | posted | replayed | cancelled
  deriving DecidableEq, Repr

/-- A record in a context's fault queue (R331). -/
structure Posted where
  record : FaultRecord
  who : RecordOwner
  answer : Answer := .posted
  deriving DecidableEq, Repr

/-- A context of the management unit's context table (R301). `skewed` says that the latest write of TROOT, or of DIRBASE, had reserved bits
set, which read as zero (R8, R271, R284, R364). -/
structure Context where
  state : CtxState := .configured
  owner : Nat
  bound : Nat := 0
  fgrp : BitVec 16 := 0
  troot : W64 := 0
  handler : W64 := 0
  dirbase : W64 := 0
  skewed : Bool × Bool := (false, false)
  dirlog2 : W64 := 0
  sharemask : BitVec 16 := 0
  slices : List Nat := []
  share : W64 := 0x800080
  freed : W64 := 0
  defer : W64 := 0
  pool : List Nat := []
  pairs : List Nat := []
  savedPairs : List Nat := []
  image : List CoreImage := []
  filter : FMap Nat := []
  deferred : Nat := 0
  dirfull : Bool := false
  deffullAt : Option Nat := none
  ringfullAt : Option Nat := none
  slot : Option Nat := none
  breaks : Bool := false
  faults : List Posted := []
  ordinals : List (Nat × List Nat × Nat) := []
  deriving DecidableEq, Repr

/-- A hardware launch queue (R261) and the children waiting in it (R221). -/
structure Queue where
  qcfg : W64 := 0
  qbase : W64 := 0
  qtail : BitVec 16 := 0
  qhead : BitVec 16 := 0
  qphase : W64 := 0
  qpcnt : W32 := 0
  children : List (Nat × LaunchRecord × Nat × Nat) := []
  deriving DecidableEq, Repr

/-- An owner (R261, R263, R307): whether it is configured, its owner word, signed deficit in ticks of core-pair time, usage counters by index,
and the core-pair time by which the deficit has fallen. -/
structure Owner where
  configured : Bool := false
  word : W64 := 0
  deficit : Int := 0
  usage : FMap W64 := []
  debited : Nat := 0
  deriving DecidableEq, Repr

/-- A vacate under way (R111, R113): `since` in ticks, the commands that it answers, and those of them that are a RECALL of a lent pair,
with the pair. -/
structure Vacate where
  ctx : Nat
  pairs : List Nat
  since : Nat
  cores : List Nat
  commands : List Nat := []
  recalled : List (Nat × Nat) := []
  brk : Bool := false
  release : Bool := false
  deriving DecidableEq, Repr

/-- A restore under way (R303); `held` is false while an ASSIGN waits for pairs that another context holds (R302). -/
structure Restore where
  ctx : Nat
  pairs : List Nat
  command : Option Nat := none
  held : Bool := true
  brk : Bool := false
  deriving DecidableEq, Repr

/-- A hypervisor command's result (R338, R364): none while it is under way. Bit 15 is the overrun bit (R339). -/
structure Command where
  name : Nat
  ctx : Nat := 0
  status : Option (BitVec 16) := none
  info : Nat := 0
  deriving DecidableEq, Repr

/-- A trace unit (R314, R315). -/
structure TraceUnit where
  ctx : Nat := 0
  base : Nat := 0
  k : Nat := 6
  mask : Nat := 0
  source0 : Nat := 0
  action0 : Nat := 0
  value0 : W64 := 0
  source1 : Nat := 0
  action1 : Nat := 0
  value1 : W64 := 0
  enabled : Bool := false
  frozen : Bool := false
  hyper : Bool := false
  head : Nat := 0
  overrun : Nat := 0
  deriving DecidableEq, Repr

/-- A midnight event (R370). -/
structure MidnightEvent where
  w0 : W64
  time : W64
  p0 : W64
  p1 : W64
  deriving DecidableEq, Repr

/-- A tenant table entry (R324) with its reject word (R366). -/
structure Tenant where
  w0 : W64 := 0
  lastSeq : W64 := 0
  pfx0 : BitVec 128 := 0
  pfx1 : BitVec 128 := 0
  plens : BitVec 16 := 0
  key : List Byte := []
  reject : W64 := 0
  window : Nat := 0
  count : Nat := 0
  rejectAt : Option Nat := none
  deriving DecidableEq, Repr

/-- A log buffer entry (R356): the line's address, context, bytes and their mask, the sender, the entry's place in the buffer, and whether its
store is a release (R240, R357). -/
structure LogEntry where
  seq : Nat
  va : W64
  ctx : Nat
  bmask : W64
  data : List Byte
  sender : Nat
  senderGroup : Nat
  place : Nat
  slot : Nat := 0
  rel : Bool := false
  deriving DecidableEq, Repr

/-- A message to a peer (R293): request, reply, the flits of a collective step on one plane (each with its place), mismatch, replay notice,
the switches' decision. -/
inductive NetMsg where
  | request (r : RemoteReq)
  | reply (dev id : Nat) (planes : List Nat) (r : RemoteReply)
  | coll (dev : Option Nat) (plane : Nat) (h : CollHeader) (flits : FMap (List Byte))
  | mismatch (dev : Nat) (h : CollHeader)
  | notice (dev group : Nat) (failed : Bool)
  | innet (h : CollHeader) (granted : Bool)
  deriving DecidableEq, Repr

/-- A native image (R309): key, context words, save area, the launches of the context, the frames with their ownership entries and contents,
a number above every running number in it, the cycle of its export, and its closing hash (R364). -/
structure NativeImage where
  key : List Byte
  ctx : Nat
  context : Context
  launches : FMap Launch
  nextId : Nat
  cycle : Nat := 0
  frames : List (Nat × Nat × List Byte)
  hash : List Byte
  deriving DecidableEq, Repr

/-- The L2 modes of R80. -/
inductive L2Mode where
  | shared | partitioned | dawn
  deriving DecidableEq, Repr

/-- The management unit and the rest of the hub. -/
structure Hub where
  slices : FMap W64 := []
  suspect : List Nat := []
  midnight : FMap MidnightEvent := []
  mnhead : Nat := 0
  traces : FMap TraceUnit := []
  suspended : FMap TraceUnit := []
  tenants : FMap Tenant := []
  lfport : Nat := 19513
  ctimeout : Nat := 33554432
  logbase : W64 := 0
  devid : BitVec 9 := 0
  log : List LogEntry := []
  logSeq : Nat := 0
  portsUp : List Nat := []
  reducers : FMap (List ReduceCmd) := []
  quantum : W64 := 100
  visit : Nat := 0
  visitZero : Nat := 0
  rehunts : List (Nat × W64) := []
  pushes : List (Nat × W64) := []
  l2mode : L2Mode := .dawn
  l2want : Option L2Mode := none
  eccCount : FMap Nat := []
  eccAt : FMap Nat := []
  dawn : Nat := 0
  recovery : Bool := false
  flash : List Byte := []
  flashWriting : Option (List Byte) := none
  flashBad : Bool := false
  coldResets : Nat := 0
  stopped : List Nat := []
  tripped : List Nat := []
  coolSince : FMap Nat := []
  outbox : List NetMsg := []
  commands : List Command := []
  vacates : List Vacate := []
  restores : List Restore := []
  reports : List (List Byte) := []
  images : List NativeImage := []
  broken : List (Nat × Nat × Agent) := []
  sensors : FMap Nat := []
  firmware : W64 := 0
  deriving DecidableEq, Repr

/-- The management and context registers that have no behaviour of their own (R9): context-table words, queue base, owner
word, QUANTUM, LFPORT, CTIMEOUT, LOGBASE, tenant table words, the reject word (W1C), a frame given to a context's pool,
a frame's ownership entry. -/
inductive MgmtReg where
  | fgrp (ctx : Nat) | troot (ctx : Nat) | handler (ctx : Nat) | dirbase (ctx : Nat) | dirlog2 (ctx : Nat)
  | sharemask (ctx : Nat) | sliceList (ctx : Nat) (slices : List Nat) | freed (ctx : Nat) | defer (ctx : Nat) | share (ctx : Nat)
  | poolFrame (ctx : Nat) | frameOwner (frame : Nat) | qbase (queue : Nat) | ownerWord (owner : Nat) | quantum
  | lfport | ctimeout | logbase | tenantWord (entry index : Nat) | tenantReject (entry : Nat)
  deriving DecidableEq, Repr

/-- What the hypervisor can take from a guest (R367). -/
inductive HvResource where
  | bank (core bank : Nat) | unit (n : Nat)
  deriving DecidableEq, Repr

/-- One sensor's reading in degrees Celsius x 16 (R319, R368, R370). Sensors 0 and 1 are dies N and S, 2 to 9 the stacks 0 to 7,
10 the hub. -/
structure Reading where
  sensor : Nat
  temp : Int
  deriving DecidableEq, Repr

/-- An ECC event (R349). -/
inductive EccEvent where
  | corrected (pa : Nat)          -- corrected by the line's ECC
  | cleanLine (core : Nat) (path : Path) (pa : Nat)   -- uncorrectable in a clean line of a path cache
  | cleanL2 (pa : Nat)            -- uncorrectable in a clean line of the L2
  | uncorrectable (pa : Nat)      -- uncorrectable in HBM data or a dirty cached line
  deriving DecidableEq, Repr

end Sys2Proof.Machine
end

