-- ==== Sys2Proof/Syntax.lean ====
section
/-! DEFINITION. The instructions and steps of the L9: one constructor for each row of the opcode table. A program row
carries its encoded fields (R119, R121) as the bit fields they are; a device step carries its operands. -/
namespace Sys2Proof

open Sys2Proof.Machine

/-- The fields of a short form (R119). `lit` is the literal of LEN 0b10 (R115, R127). -/
structure Short where
  u : Bool := false
  s : Bool := false
  d : BitVec 6 := 0
  a : BitVec 6 := 0
  la : Bool := false
  b : BitVec 6 := 0
  lb : Bool := false
  p : Bool := false
  lit : Option W64 := none
  deriving DecidableEq, Repr

/-- The fields of an extended form (R121). `lit` is the literal of LEN 0b11 (R115, R127). -/
structure Ext where
  u : Bool := false
  s : Bool := false
  d : BitVec 8 := 0
  a : BitVec 8 := 0
  la : Bool := false
  sub : BitVec 4 := 0
  b : BitVec 8 := 0
  lb : Bool := false
  c : BitVec 8 := 0
  lc : Bool := false
  fa : Bool := false
  fb : Bool := false
  fc : Bool := false
  pm : BitVec 3 := 0
  pn : Bool := false
  ty : BitVec 5 := 0
  rm : BitVec 2 := 0
  imm : BitVec 20 := 0
  sc : BitVec 3 := 0
  ht : BitVec 3 := 0
  vs : BitVec 2 := 0
  xs : BitVec 4 := 0
  lit : Option W64 := none
  deriving DecidableEq, Repr

/-- What the environment tells of an operation in flight (R298, R330): whether a refill's read of the spill area succeeded; whether both sides of
a send and receive have issued. -/
structure OpReport where
  op : Nat
  ok : Bool
  deriving DecidableEq, Repr

/-- The rows of the opcode table. -/
inductive Instr where
  /-- R135. Short-form nop takes one issue slot and changes nothing else. -/
  | nopShort (f : Short)
  /-- R135. Extended-form nop takes one issue slot and changes nothing else. -/
  | nopExt (f : Ext)
  /-- R136. Moves the PC of the whole issuing slot by the uni, any, all or none condition, without divergence. -/
  | bra (f : Ext)
  /-- R137. Divergent branch that splits the slot's lanes by a mask and updates the slots and the reconvergence stack. -/
  | brd (f : Ext)
  /-- R138. Per-lane indirect branch that acts as brd toward the lowest lane's target. -/
  | brx (f : Ext)
  /-- R139. Writes the link to a register and jumps to a direct or indirect target. -/
  | call (f : Ext)
  /-- R139. Jumps to the address held in a register, or takes ALIGN if it is misaligned. -/
  | ret (f : Ext)
  /-- R137. Pushes a join entry, and the other slot as W or A, onto the reconvergence stack. -/
  | mjoin (f : Ext)
  /-- R137. Short-form join: the path arrives at the topmost J entry, and the rejoin completes when all lanes have arrived. -/
  | joinShort (f : Short)
  /-- R137. Extended-form join, with the same effect as the short form. -/
  | joinExt (f : Ext)
  /-- R140. Short-form exit: removes the slot's lanes, or ends a sequencer thread once its counters allow. -/
  | exitShort (f : Short)
  /-- R140. Extended-form exit, with the same effect as the short form. -/
  | exitExt (f : Ext)
  /-- R141. Short-form yield: the slot is not a candidate for issue for 32 cycles. -/
  | yieldShort (f : Short)
  /-- R141. Extended-form yield, with the same effect as the short form. -/
  | yieldExt (f : Ext)
  /-- R141. The 32-cycle yield of a slot ends, and the slot becomes a candidate for issue again. -/
  | yieldExpiry (a : Agent)
  /-- R142. Writes the issuing slot's copy of fmt, or takes ILLEGAL at execution for a reserved value. -/
  | setfmt (f : Ext)
  /-- R142. Reads the issuing slot's copy of fmt into a register. -/
  | getfmt (f : Ext)
  /-- R143. Takes a precise SWTRAP that carries a 16-bit code. -/
  | trap (f : Ext)
  /-- R144. Ends the running trap handler, and replays, skips or escalates the trapped path. -/
  | tret (f : Ext)
  /-- R145. Reads a special register, or writes GSTAT's W1C bit. -/
  | sreg (f : Ext)
  /-- R141. Keeps the issuing slot or thread out of issue for a given number of cycles. -/
  | nap (f : Ext)
  /-- R141. A nap's count of cycles runs out, and the slot becomes a candidate again. -/
  | napExpiry (a : Agent)
  /-- R158. Short-form move of bits from the source to the destination. -/
  | movShort (f : Short)
  /-- R158. Extended-form move. -/
  | movExt (f : Ext)
  /-- R158. Selects A or B lane by lane under a mask. -/
  | sel (f : Ext)
  /-- R159. Short-form wrapping integer add. -/
  | addShort (f : Short)
  /-- R159. Extended-form integer add, wrapping or saturating. -/
  | addExt (f : Ext)
  /-- R159. Short-form wrapping integer subtract. -/
  | subShort (f : Short)
  /-- R159. Extended-form integer subtract, wrapping or saturating. -/
  | subExt (f : Ext)
  /-- R160. Short-form multiply that keeps the low half. -/
  | mulShort (f : Short)
  /-- R160. Extended-form multiply that keeps the low half. -/
  | mulExt (f : Ext)
  /-- R160. Multiply that keeps the high half. -/
  | mulh (f : Ext)
  /-- R160. Multiply-add: wrap, saturate or high half. -/
  | mad (f : Ext)
  /-- R161. Integer division truncated toward zero, with fixed results for the edge cases. -/
  | div (f : Ext)
  /-- R161. Integer remainder, with fixed results for the edge cases. -/
  | rem (f : Ext)
  /-- R162. Short-form integer minimum. -/
  | minShort (f : Short)
  /-- R162. Extended-form integer minimum. -/
  | minExt (f : Ext)
  /-- R162. Short-form integer maximum. -/
  | maxShort (f : Short)
  /-- R162. Extended-form integer maximum. -/
  | maxExt (f : Ext)
  /-- R162. Absolute value, wrapping or saturating. -/
  | abs (f : Ext)
  /-- R162. Negation, wrapping or saturating. -/
  | neg (f : Ext)
  /-- R163. Short-form bitwise AND. -/
  | andShort (f : Short)
  /-- R163. Extended-form bitwise AND. -/
  | andExt (f : Ext)
  /-- R163. Short-form bitwise OR. -/
  | orShort (f : Short)
  /-- R163. Extended-form bitwise OR. -/
  | orExt (f : Ext)
  /-- R163. Short-form bitwise XOR. -/
  | xorShort (f : Short)
  /-- R163. Extended-form bitwise XOR. -/
  | xorExt (f : Ext)
  /-- R163. Bitwise A AND NOT B. -/
  | andn (f : Ext)
  /-- R163. Bitwise NOT. -/
  | not (f : Ext)
  /-- R164. Short-form shift left. -/
  | shlShort (f : Short)
  /-- R164. Extended-form shift left. -/
  | shlExt (f : Ext)
  /-- R164. Short-form logical shift right. -/
  | shrShort (f : Short)
  /-- R164. Extended-form logical shift right. -/
  | shrExt (f : Ext)
  /-- R164. Short-form arithmetic shift right. -/
  | sarShort (f : Short)
  /-- R164. Extended-form arithmetic shift right. -/
  | sarExt (f : Ext)
  /-- R164. Rotate left or right. -/
  | rot (f : Ext)
  /-- R165. Extracts a bit field, unsigned or signed. -/
  | bfe (f : Ext)
  /-- R165. Inserts a bit field. -/
  | bfi (f : Ext)
  /-- R166. Population count, leading or trailing zero count, or bit reversal. -/
  | bit (f : Ext)
  /-- R167. Integer compare that writes mask bits of active lanes, or an x register. -/
  | cmp (f : Ext)
  /-- R168. Computes a 64-bit address without any access. -/
  | lea (f : Ext)
  /-- R169. Converts between integer and floating-point types. -/
  | cvt (f : Ext)
  /-- R149. Moves values between lanes, or extracts one lane's value to a q register. -/
  | shfl (f : Ext)
  /-- R150. Group-wide ballot, any, all or count. -/
  | vote (f : Ext)
  /-- R151. Group reduction over the active lanes. -/
  | redg (f : Ext)
  /-- R152. Inclusive or exclusive prefix reduction across lanes. -/
  | scan (f : Ext)
  /-- R153. Mask operation lane by lane, or a transfer between a mask and a q register. -/
  | mop (f : Ext)
  /-- R174. Short-form floating-point add, rounded by fmt.RM. -/
  | faddShort (f : Short)
  /-- R174. Extended-form floating-point add, rounded by RM. -/
  | faddExt (f : Ext)
  /-- R174. Short-form floating-point subtract. -/
  | fsubShort (f : Short)
  /-- R174. Extended-form floating-point subtract. -/
  | fsubExt (f : Ext)
  /-- R174. Short-form floating-point multiply. -/
  | fmulShort (f : Short)
  /-- R174. Extended-form floating-point multiply. -/
  | fmulExt (f : Ext)
  /-- R174. Fused multiply-add with a single rounding. -/
  | fma (f : Ext)
  /-- R176. Short-form floating-point minimum. -/
  | fminShort (f : Short)
  /-- R176. Extended-form floating-point minimum. -/
  | fminExt (f : Ext)
  /-- R176. Short-form floating-point maximum. -/
  | fmaxShort (f : Short)
  /-- R176. Extended-form floating-point maximum. -/
  | fmaxExt (f : Ext)
  /-- R177. Floating-point compare that writes mask bits. -/
  | fcmp (f : Ext)
  /-- R174. Correctly rounded floating-point division. -/
  | fdiv (f : Ext)
  /-- R174. Correctly rounded square root. -/
  | fsqrt (f : Ext)
  /-- R178. Approximate reciprocal. -/
  | rcpa (f : Ext)
  /-- R178. Approximate reciprocal square root. -/
  | rsqa (f : Ext)
  /-- R178. Approximate base-2 exponential. -/
  | exp2a (f : Ext)
  /-- R178. Approximate base-2 logarithm. -/
  | log2a (f : Ext)
  /-- R178. Approximate sine of an argument in turns. -/
  | sina (f : Ext)
  /-- R178. Approximate cosine of an argument in turns. -/
  | cosa (f : Ext)
  /-- R179. Rounds to an integral value in the same format. -/
  | frnd (f : Ext)
  /-- R180. Writes the class mask of a floating-point value. -/
  | fcls (f : Ext)
  /-- R181. Two-term 16-bit dot product plus an f32, with one rounding. -/
  | dot2 (f : Ext)
  /-- R174. Scales by a power of two. -/
  | fscl (f : Ext)
  /-- R183. Converts an i32 to a residue format. -/
  | rnc (f : Ext)
  /-- R183. Converts a residue to an i32. -/
  | rnx (f : Ext)
  /-- R184. Channel-wise residue multiply-add. -/
  | rnmad (f : Ext)
  /-- R186. Gathers one plane of the group's elements into a window of a q register. -/
  | pln (f : Ext)
  /-- R187. Spreads a bit-plane block held in q registers back to lane form. -/
  | upl (f : Ext)
  /-- R188. Dot product of bit-plane half-blocks plus an accumulator. -/
  | pldot (f : Ext)
  /-- R194. Short-form global load on the ls path; the destination is marked empty until the data arrives. -/
  | ldShort (f : Short)
  /-- R194. Extended-form global load on the ls path. -/
  | ldExt (f : Ext)
  /-- R194. Short-form global store on the ls path, acknowledged to the counter. -/
  | stShort (f : Short)
  /-- R194. Extended-form global store. -/
  | stExt (f : Ext)
  /-- R194. Short-form CLM load. -/
  | ldlShort (f : Short)
  /-- R194. Extended-form CLM load. -/
  | ldlExt (f : Ext)
  /-- R194. Short-form CLM store, which dirties lines under the bound check. -/
  | stlShort (f : Short)
  /-- R194. Extended-form CLM store. -/
  | stlExt (f : Ext)
  /-- R195. Load through the read-only cn path. -/
  | ldc (f : Ext)
  /-- R196. Filtered two-dimensional sample through the sm path. -/
  | smp (f : Ext)
  /-- R197. Load in tile layout through the tl path. -/
  | ldt (f : Ext)
  /-- R197. Store in tile layout through the tl path. -/
  | stt (f : Ext)
  /-- R198. Prefetches lines under a hint, with no trap. -/
  | pref (f : Ext)
  /-- R201. Value-returning scoped atomic, including cas with a success mask. -/
  | atom (f : Ext)
  /-- R202. Update-only reduction, gathered in L1 and combined at the home. -/
  | red (f : Ext)
  /-- R203. Acquire, release or full fence at a scope. -/
  | fence (f : Ext)
  /-- R204. Waits for earlier writes, then invalidates the named path caches. -/
  | pfence (f : Ext)
  /-- R205. Maps a lazily filled CLM region onto a global range. -/
  | cmap (f : Ext)
  /-- R206. Writes a region back and removes it. -/
  | cunmap (f : Ext)
  /-- R206. Writes a region back and makes its lines untouched. -/
  | cflush (f : Ext)
  /-- R208. Initialises a barrier object, keeping its phase. -/
  | binit (f : Ext)
  /-- R208. Adds an arrival, and optionally expected bytes, and flips the phase when complete. -/
  | arrive (f : Ext)
  /-- R208. Parks the agent until the barrier's phase differs from the given parity. -/
  | waitb (f : Ext)
  /-- R13. A parked waiter resumes once the barrier phase it waits on has flipped. -/
  | waitbWake (a : Agent)
  /-- R33. Stalls until the acknowledgement counter is zero, then arrives. -/
  | drain (f : Ext)
  /-- R209. Sets a pin register, inserts the name into the CAM and removes the old name, as a full fence. -/
  | pin (f : Ext)
  /-- R209. Clears a pin register and removes its name once earlier accesses are performed. -/
  | unpin (f : Ext)
  /-- R210. Searches CAMs and the directory, then frees, defers or refuses the name. -/
  | reclaim (f : Ext)
  /-- R214. Starts a copy-engine transfer between global memory, CLM and the window space. -/
  | cpy (f : Ext)
  /-- R215. Copy that yields its slot until the copy retires. -/
  | cpyY (f : Ext)
  /-- R215. On retirement of the copy, the yielded slot resumes at its label. -/
  | cpyYReactivate (a : Agent)
  /-- R216. Gather of one element per active lane on the gather engine. -/
  | gth (f : Ext)
  /-- R216. Scatter of one element per active lane on the gather engine. -/
  | sct (f : Ext)
  /-- R218. Hands a request list to the request engine. -/
  | kick (f : Ext)
  /-- R218. The request engine reads an entry and starts it once its charge passes the check. -/
  | requestEntryStart (kick : Nat)
  /-- R218. An entry's bytes have landed, or it is refused; STATUS is written and the object is updated. -/
  | requestEntryComplete (op : Nat)
  /-- R219. Stalls until an outstanding-operation counter is at most n. -/
  | waitc (f : Ext)
  /-- R220. Marks rows empty, or full, without changing their backing. -/
  | empty (f : Ext)
  /-- R221. Creates a child launch and moves half the phase weight to it. -/
  | spawn (f : Ext)
  /-- R221. Once the parent's queue has room, the child record is read and queued, and the status is written. -/
  | spawnEnqueue (op : Nat)
  /-- R223. Writes an operand map. -/
  | setom (f : Ext)
  /-- R227. Queues a load of a B panel into a macro group. -/
  | mldb (f : Ext)
  /-- R228. Queues a block-exact multiply of M A rows into the banks. -/
  | mma (f : Ext)
  /-- R230. Queues the zeroing of banks. -/
  | mzero (f : Ext)
  /-- R230. Queues the writing of bank rows to CLM in a chosen type. -/
  | mdrain (f : Ext)
  /-- R230. Queues the loading of row and column scales. -/
  | mscale (f : Ext)
  /-- R226. Writes a row predicate. -/
  | setrp (f : Ext)
  /-- R226. Writes the low or high half of a column predicate. -/
  | setcp (f : Ext)
  /-- R225. Writes the sequencer's matrix format register. -/
  | sfmt (f : Ext)
  /-- R254. The matrix unit starts the operation at the head of a thread's queue, in round-robin order. -/
  | matrixOpStart (core : Nat)
  /-- R256. An operation's operand reads are done and its guard range is released, freeing stalled stores. -/
  | guardRelease (op : Nat)
  /-- R222. A matrix operation completes: banks become full, the counter retires and the charge is credited. -/
  | matrixOpComplete (op : Nat)
  /-- R110. Reads E or one of its terms from the Dusk unit. -/
  | vest (f : Ext)
  /-- R110. Reads B_core or B_ctx. -/
  | vbound (f : Ext)
  /-- R110. Computes the charge of a cost class for a size. -/
  | vcost (f : Ext)
  /-- R110. Returns the largest size of a class that fits the current room. -/
  | vprobe (f : Ext)
  /-- R110. Sets the group's vacate policy to stall or trap. -/
  | vpol (f : Ext)
  /-- R237. Remote load from peer devices, split into parts by peer. -/
  | rld (f : Ext)
  /-- R237. Remote store to peer devices, split into parts by peer. -/
  | rst (f : Ext)
  /-- R238. Remote atomic performed at the target's home slice. -/
  | ratom (f : Ext)
  /-- R242. Starts collective buckets of all-reduce, reduce-scatter, all-gather, send or receive. -/
  | coll (f : Ext)
  /-- R246. Reads a system register. -/
  | sysr (f : Ext)
  /-- R247. Writes the context-wide SHARE word. -/
  | sysw (f : Ext)
  /-- R248. Installs a first-touch 64 KiB mapping from a handler. -/
  | mapf (f : Ext)
  /-- R249. Reads a word of the handler's fault record. -/
  | fltr (f : Ext)
  /-- R250. Reads, claims, configures or frees counter banks. -/
  | cnt (f : Ext)
  /-- R251. Writes a trace marker, or takes a BREAK at an armed stop site. -/
  | dbg (f : Ext)
  /-- R194. All lanes' data of a load, gather, smp or value-returning atomic arrive, and the destination becomes full. -/
  | loadDataArrival (op : Nat)
  /-- R33. An acknowledgement of a store, atomic or remote store returns and lowers the counter. -/
  | storeAck (a : Agent)
  /-- R50. A refill reads a spilled row back and makes it backed and full. -/
  | refillComplete (op : OpReport)
  /-- R50. The spill write buffer writes a spilled row to the spill area. -/
  | spillWrite (g row : Nat) (ok : Bool)
  /-- R71. An untouched mapped-region line is filled from global memory, and the waiting access proceeds. -/
  | regionFillComplete (team region line : Nat)
  /-- R102. A 64-byte piece of a copy or entry lands, and one tick of its charge is credited. -/
  | copyBytesLanded (op : Nat)
  /-- R214. A copy's last byte has landed: its object is counted down and it retires in order. -/
  | copyRetire (op : Nat)
  /-- R216. A gather or scatter completes and retires in order in the gather class. -/
  | gatherRetire (op : Nat)
  /-- R52. The last byte of a window write lands in a row, and the row becomes full. -/
  | windowWriteLand (op : Nat)
  /-- R343. An engine access takes PAGE, PROT or OWNER: the operation parks at 32 ticks and the group is trapped. -/
  | engineFaultPark (op : Nat)
  /-- R350. An engine operation stopped by WINDOW or DATAERR retires with an error and COPYERR is pending. -/
  | engineErrorRetire (op : Nat)
  /-- R32. A group with no lanes left ends once its counters are zero, ending teams and launches in turn. -/
  | groupEnd (g : Nat)
  /-- R264. The dispatcher visits an owner by deficit round-robin and hands records to admission slots. -/
  | dispatcherVisit
  /-- R266. The admitter places a team once every condition holds. -/
  | teamAdmit (ctx : Nat)
  /-- R31. The compactor starts copying a live CLM block with double writes. -/
  | compactStart (team : Nat)
  /-- R31. At a quiet instruction boundary the team pauses and its CLM base is swapped. -/
  | compactSwap (team : Nat)
  /-- R107. A core with no charged work and no issue for 256 cycles turns stalled checks into VBOUND and refuses waiting entries. -/
  | quiescence (core : Nat)
  /-- R333. A candidate that failed the check for 2^20 cycles takes VBOUND. -/
  | stallLimit (a : Agent)
  /-- R111. Command that vacates all or listed pairs of a context, starting with the halt broadcast. -/
  | vacate (ctx : Nat) (pairs : List Nat)
  /-- R306. Command that vacates a lent pair from its borrower. -/
  | recallPair (pair : Nat)
  /-- R111. In-flight operations on a core have completed or parked, and the save begins. -/
  | drainComplete (core : Nat)
  /-- R111. The save engine has written the core's state and moved its pins to the directory. -/
  | saveComplete (core : Nat) (lost : List LostItem)
  /-- R111. The hub, with completion from the last core, flushes L2 lines, appends the vacate record and signals done. -/
  | vacateCommit (ctx : Nat)
  /-- R301. Command that creates a configured context for an owner. -/
  | create (ctx owner : Nat)
  /-- R302. Command that assigns pairs or restores saved pairs, after checking the bound and the pair list. -/
  | assign (ctx : Nat) (pairs : List Nat) (nowait : Bool)
  /-- R303. Restore has returned rows, lines, banks, threads, pins and panels, and groups resume. -/
  | restoreComplete (ctx : Nat)
  /-- R311. Command that drops the context's L2 lines and starts zeroing its frames. -/
  | release (ctx : Nat)
  /-- R311. Zeroing ends, failed frames are quarantined, and the context becomes free and reports ready. -/
  | zeroingComplete (ctx : Nat) (failed : List Nat)
  /-- R309. Command that writes the native image of a saved context. -/
  | exportImage (ctx : Nat)
  /-- R309. The destination receives an image, checks its key and hash, and accepts or discards it. -/
  | imageImport (image : NativeImage)
  /-- R281. Driver command that replays an escalated record, or retries a held return to HOME. -/
  | driverReplay (ctx : Nat) (record : Option Nat)
  /-- R281. Driver command that cancels a record, which is fatal for an instruction record and ends a parked operation. -/
  | driverCancel (ctx : Nat) (record : Option Nat)
  /-- R275. Command that invalidates a context's cached translations. -/
  | translationInvalidate (ctx : Nat)
  /-- R365. Command that rewrites and checks a quarantined frame and frees it if the check passes. -/
  | frameTest (frame : Nat) (pass : Bool)
  /-- R369. Command that tests a pair and clears its SUSPECT bit on a pass. -/
  | selfTest (pair : Nat) (pass : Bool)
  /-- R308. Command that returns a signed 768-byte usage report for a nonce. -/
  | usageReport (owner : Nat) (nonce : List Byte)
  /-- R99. Write of a context's bound word, refused with busy while the context is resident. -/
  | boundWrite (ctx : Nat) (value : W64)
  /-- R369. Write of a pair slice word, refused with status 9 when it sets LENT on a SUSPECT pair. -/
  | sliceWrite (pair : Nat) (value : W64)
  /-- R261. Write of a queue configuration word; QCFG and QBASE change only while EN is 0. -/
  | qcfgWrite (queue : Nat) (value : W64)
  /-- R262. Write of QTAIL, which makes the covered launch records visible to the dispatcher. -/
  | qtailWrite (queue : Nat) (value : W64)
  /-- R81. Write of the L2 mode register: vacate, write back, change the mode and resume. -/
  | l2ModeWrite (mode : L2Mode)
  /-- R9. Write to any management or context register that has no behaviour of its own. -/
  | registerWrite (r : MgmtReg) (value : W64)
  /-- R367. The hypervisor takes a guest's counter bank or trace unit, suspending the grant. -/
  | hvResourceTake (r : HvResource)
  /-- R367. The hypervisor frees a bank or unit and the guest's grant resumes. -/
  | hvResourceFree (r : HvResource)
  /-- R314. The hypervisor assigns a trace unit's context, ring, type mask and triggers. -/
  | traceUnitArm (unit : Nat) (conf : TraceUnit)
  /-- R315. A system-core event fires a trigger that starts, stops or freezes a trace unit. -/
  | triggerFire (source : Nat) (value : W64)
  /-- R251. A debugger arms breaks for a context. -/
  | breakArm (ctx : Nat) (on : Bool)
  /-- R317. The debugger's resume command restores the broken pair. -/
  | debugResume (ctx : Nat)
  /-- R288. A queued re-search of a removed name frees it from the deferred list if no pin remains. -/
  | research
  /-- R289. A push waiting on a full freed ring writes the name and advances PUT once room appears. -/
  | freedRingPush (ctx : Nat)
  /-- R235. A target device receives a remote packet and performs, logs or refuses it. -/
  | remoteRequestReceive (r : RemoteReq)
  /-- R237. A reply or acknowledgement of a remote part arrives and the part retires. -/
  | remoteReply (op : Nat) (r : RemoteReply)
  /-- R357. A replay notice for a logged store arrives and lowers the logged count. -/
  | replayNotice (n : LogNotice) (failed : Bool)
  /-- R355. A remote part's reply misses CTIMEOUT and it retires with RFAULT code 7. -/
  | remoteTimeout (op : Nat)
  /-- R297. A collective step begins its sends once the previous step is complete; `both`: the other side of a send or receive has issued
  too (R298). -/
  | collStepStart (op : OpReport)
  /-- R297. A step's received bytes are combined and its flits acknowledged; the bucket may retire. -/
  | collStepComplete (op : Nat) (a : StepAnswer) (data : List Byte)
  /-- R294. A stack reducer executes a receive-reduce command on a 256-byte granule: a port writes the command for `data` into the queue of
  its stack, and with no data the reducer of stack `off` executes its oldest one. -/
  | receiveReduce (op : Nat) (h : CollHeader) (off : Nat) (data : List Byte)
  /-- R299. Rank 0 requests reduction slots from all planes, and the decision is multicast. -/
  | innetRequest (op : Nat) (granted : Bool)
  /-- R358. A collective step misses CTIMEOUT and the bucket ends with status 5. -/
  | collTimeout (op : Nat)
  /-- R360. A Rygan port goes down: parts in flight fault with code 8 and traffic moves to live planes. -/
  | portDown (port : Nat)
  /-- R360. A flit with a bad CRC is retransmitted at the link level. -/
  | flitCrcError (port : Nat)
  /-- R325. A UDP launch frame is checked and appended to its queue, or dropped and counted. -/
  | launchFrame (src : BitVec 128) (port : Nat) (payload : List Byte)
  /-- R320. Cold reset runs the dawn sequence; `readOk` tells whether flash answers the read of step 1. -/
  | coldReset (readOk : Bool) (devid : BitVec 9) (firmware : W64)
  /-- R320. Warm reset runs the dawn sequence, keeping the midnight record and the usage counters. -/
  | warmReset (readOk : Bool) (devid : BitVec 9) (firmware : W64)
  /-- R321. The recovery loader receives an image over UDP, verifies it, writes flash and resets. -/
  | recoveryImage (image : List Byte)
  /-- R368. The millisecond comparison of sensors warns, trips or hard-stops a die. -/
  | thermalSample (readings : List Reading)
  /-- R368. After a second below the restart threshold, a stopped die's clock restarts. -/
  | dieRestart (die : Nat)
  /-- R349. An HBM or cache ECC error is corrected, refetched or poisoned, and logged. -/
  | eccError (e : EccEvent)
  /-- R248. A mapf's walk, frame zeroing and compare-and-swap end: its status is written, qD becomes full and its 1,056-tick charge is credited. -/
  | mapfCompletion (op : Nat)
  /-- R210. The search of a reclaim ends: the name is pushed, deferred or refused, and the status fills qD. -/
  | pinSearchComplete (op : Nat)
  /-- R263. DEF_o of an owner falls by one for each core-pair microsecond its launches accrue. -/
  | ownerDeficitDebit (owner : Nat)
  /-- R321. Input power is lost, possibly during a flash write of a recovery image, leaving flash partially written. -/
  | powerLoss (keep : Nat)
  /-- R360. The management unit retrains a downed Rygan port, and its plane's bandwidth returns. -/
  | portRetrain (port : Nat)
  /-- R357. The target's driver replays a logged remote store, or discards it, and a replay notice goes to the sender. -/
  | logBufferReplay (seq : Nat) (discard : Bool)
  /-- R311. A share group is released and its shared frames are zeroed and cleared to VALID 0. -/
  | shareGroupRelease (grp : Nat)
  /-- R81. The write-back and invalidation of all L2 slices for a mode change ends; the mode changes and contexts resume. -/
  | l2WritebackComplete
  /-- R336. A remote part or collective step that is still unacknowledged once its charge has elapsed since the halt is parked at 32 ticks. -/
  | drainChargeElapsed (op : Nat)
  deriving DecidableEq, Repr

end Sys2Proof
end

