-- ==== Sys2Proof/Machine/Encoding.lean ====
section
/-! DEFINITION. What each opcode accepts in each of its fields, and the checks of R131 in their order: the first failing
check gives its code (R131, R330). Tables: R128, R135, R148, R157, R173, R182, R192, R213, R222, R236, R245, R109. -/
namespace Sys2Proof.Machine

open Sys2Proof

/-- What decoding depends on besides the words: the side (R131), the group width (R182), vw1 to vw3 (R37), the number of accumulator banks
that the group may name (R40): 0 where its own core does not hold the team's banks, and the slot's fmt (R182, R190). -/
structure DecEnv where
  seq : Bool := false
  width : Nat := 16
  vw1 : W64 := 0
  vw2 : W64 := 0
  vw3 : W64 := 0
  nbanks : Nat := 0
  fmt : W32 := 0
  deriving DecidableEq, Repr

/-- NSRC and NDST of fmt (R42). -/
def nsrcOf (fmt : W32) : Nat := (bits fmt 5 5).toNat
def ndstOf (fmt : W32) : Nat := (bits fmt 10 5).toNat

/-- The residue or plane format of an instruction of 0x44 to 0x49 (R182): TY, or the slot's fmt where TY is 0. -/
def planeTy (op ty : Nat) (fmt : W32) : Nat :=
  if ty ≠ 0 then ty else if op = 0x44 || op = 0x48 then ndstOf fmt else nsrcOf fmt

/-- The width in bits of an element of a TY code (R56, R57): lane words for residue and sub-byte types. -/
def tyBits (ty : Nat) : Nat :=
  if ty = 1 || ty = 4 || ty = 5 || ty = 7 then 64
  else if 8 ≤ ty && ty ≤ 11 then 16
  else if ty = 12 || ty = 13 then 8 else 32

/-- The size at which an operand is read or written: by TY, 32 bits, 64 bits, 32 bits through vw0 (R155), or by the source
type of cvt (R169). -/
inductive Sz where
  | t | w | l | i | c
  deriving DecidableEq, Repr

/-- What may stand in a register field. -/
inductive FK where
  | z             -- must be zero
  | r (s : Sz)    -- vector name or q register; x register in sequencer code
  | v (s : Sz)    -- vector name only
  | q             -- q register only; x register in sequencer code
  | l (s : Sz)    -- as r, or a literal
  | ql            -- as q, or a literal
  | m             -- mask number 0 to 7; x code in sequencer code (R130)
  | md            -- mask number 1 to 7 (R41); x code in sequencer code
  | k (hi : Nat)  -- a number of another kind, at most hi (R123)
  | qz            -- q register, or 0 for none (R214)
  | e             -- vector or tile name (R220)
  deriving DecidableEq, Repr

/-- The side column of R128. -/
inductive Side where
  | both | grp | sq
  deriving DecidableEq, Repr

/-- Which views VS may select: none, vector views of EW 16 or 8 (R155), any that the operands accept, EW 32 (R182). -/
inductive VsRule where
  | no | narrow | any | row
  deriving DecidableEq, Repr

/-- What one opcode accepts. `tys`, `xs` are bit sets of codes, `imm` the bits of IMM it takes. -/
structure Desc where
  side : Side := .both
  short : Bool := false
  nsub : Nat := 1
  tys : Nat := 1
  rm : Bool := false
  pred : Bool := true
  sc : Bool := false
  ht : Bool := false
  xs : Nat := 1
  imm : Nat := 0
  vs : VsRule := .no
  d : FK := .z
  a : FK := .z
  b : FK := .z
  c : FK := .z
  deriving DecidableEq, Repr

/-- Two-source integer operations (R157). -/
def descBin (tys nsub : Nat) (short : Bool) (bs : Sz) : Desc :=
  { short, nsub, tys, vs := .narrow, d := .r .t, a := .r .t, b := .l bs }

/-- One-source integer operations (R157). -/
def descUn (tys nsub : Nat) (short : Bool) : Desc :=
  { short, nsub, tys, vs := .narrow, d := .r .t, b := .l .t }

/-- Floating-point operations of two sources, or of one in B (R173). -/
def descF (tys : Nat) (short rm : Bool) (a : FK) : Desc :=
  { side := .grp, short, tys, rm, vs := .any, d := .r .t, a, b := .l .t }

/-- Memory operands of R191. -/
def descMem (side : Side) (short ht : Bool) (base d c : FK) : Desc :=
  { side, short, tys := 0x3FFF, ht, xs := 0xFFFF, imm := 0xFFFFF, vs := .any, d, a := base, b := .r .w, c }

/-- Opcodes 0x00 to 0x0F (R135). -/
def descs0 : List Desc :=
  [ { short := true, pred := false },
    { nsub := 4, imm := 0xFFFFF, pred := false, a := .m },
    { side := .grp, imm := 0xFFFFF, pred := false, a := .m },
    { side := .grp, pred := false, vs := .any, b := .r .w },
    { nsub := 2, imm := 0xFFFFF, pred := false, d := .q },
    { pred := false, b := .q },
    { side := .grp, imm := 0xFFFFF, pred := false },
    { side := .grp, short := true, pred := false },
    { short := true, pred := false },
    { side := .grp, short := true, pred := false },
    { side := .grp, pred := false, b := .ql },
    { side := .grp, pred := false, vs := .any, d := .r .w },
    { imm := 0xFFFF, pred := false },
    { side := .grp, nsub := 3, pred := false },
    { nsub := 2, imm := 0xFF, pred := false, vs := .any, d := .r .w },
    { pred := false, b := .ql } ]

/-- Opcodes 0x10 to 0x1F (R157). -/
def descs1 : List Desc :=
  [ descUn 0x3FFF 1 true,
    { tys := 0xFF, vs := .narrow, d := .r .t, a := .r .t, b := .r .t, c := .m },
    descBin 0x3C3C 2 true .t, descBin 0x3C3C 2 true .t, descBin 0x3C3C 1 true .t, descBin 0x3C 1 false .t,
    { nsub := 3, tys := 0x3C3C, vs := .narrow, d := .r .t, a := .r .t, b := .l .t, c := .r .t },
    descBin 0x3C 1 false .t, descBin 0x3C 1 false .t, descBin 0x3C3C 1 true .t, descBin 0x3C3C 1 true .t,
    descUn 0x3C3C 2 false, descUn 0x3C3C 2 false,
    descBin 0x3F 1 true .t, descBin 0x3F 1 true .t, descBin 0x3F 1 true .t ]

/-- Opcodes 0x20 to 0x2B (R157). -/
def descs2 : List Desc :=
  [ descBin 0x3F 1 false .t, descUn 0x3F 1 false,
    descBin 0x3F 1 true .i, descBin 0x3F 1 true .i, descBin 0x3F 1 true .i, descBin 0x3F 2 false .i, descBin 0x3F 2 false .i,
    { tys := 0x3F, vs := .narrow, d := .r .t, a := .r .t, b := .l .i, c := .r .t },
    descUn 0x3F 4 false,
    { nsub := 6, tys := 0x3C3F, vs := .narrow, d := .md, a := .r .t, b := .l .t },
    { tys := 0x30, xs := 0xFF, imm := 0xFFFFF, vs := .narrow, d := .r .l, a := .r .l, b := .l .i },
    { tys := 0x3FFC, rm := true, xs := 3, vs := .narrow, d := .r .t, b := .l .c, c := .k 13 } ]

/-- Opcodes 0x2C to 0x30 (R148). -/
def descs2b : List Desc :=
  [ { side := .grp, nsub := 6, tys := 3, vs := .any, d := .v .t, a := .v .t, b := .ql },
    { side := .grp, nsub := 4, tys := 3, vs := .any, d := .r .t, b := .v .t },
    { side := .grp, nsub := 7, tys := 0x7F, rm := true, vs := .any, d := .r .t, b := .v .t },
    { side := .grp, nsub := 7, tys := 0x7F, rm := true, xs := 3, vs := .any, d := .v .t, b := .v .t },
    { side := .grp, nsub := 10, d := .md, a := .m, b := .m } ]

/-- Opcodes 0x31 to 0x43 (R173). -/
def descs3 : List Desc :=
  [ descF 0x3C0 true true (.r .t), descF 0x3C0 true true (.r .t), descF 0x3C0 true true (.r .t),
    { descF 0x3C0 false true (.r .t) with c := .r .t },
    descF 0x3C0 true false (.r .t), descF 0x3C0 true false (.r .t),
    { descF 0x3C0 false false (.r .t) with d := .md, nsub := 8 },
    descF 0xC0 false true (.r .t), descF 0xC0 false true .z,
    descF 0x40 false true .z, descF 0x40 false true .z, descF 0x40 false true .z, descF 0x40 false true .z,
    descF 0x40 false true .z, descF 0x40 false true .z,
    { descF 0x3C0 false false .z with nsub := 4 },
    { descF 0x3C0 false false .z with d := .r .w },
    { descF 0x40 false true (.r .w) with b := .l .w, c := .r .w, xs := 0x301 },
    { descF 0x3C0 false true (.r .t) with b := .l .w } ]

/-- Opcodes 0x44 to 0x49 (R182). -/
def descs4 : List Desc :=
  [ { side := .grp, tys := 0xC001, vs := .row, d := .r .w, b := .l .w },
    { side := .grp, tys := 0xC001, vs := .row, d := .r .w, b := .r .w },
    { side := .grp, tys := 0xC001, vs := .row, d := .r .w, a := .r .w, b := .l .w, c := .r .w },
    { side := .grp, tys := 0x7C001, imm := 0x3F, vs := .row, d := .q, a := .v .w, b := .ql },
    { side := .grp, tys := 0x7C001, imm := 0x3F, vs := .row, d := .r .w, a := .q, b := .ql },
    { side := .grp, tys := 0x7C001, xs := 3, imm := 0x3FF, vs := .row, d := .r .w, a := .q, b := .v .w, c := .r .w } ]

/-- Opcodes 0x4A to 0x54 (R192). -/
def descs5 : List Desc :=
  [ descMem .both true true (.r .l) (.r .t) .z, descMem .both true true (.r .l) .z (.r .t),
    descMem .both true false (.r .w) (.r .t) .z, descMem .both true false (.r .w) .z (.r .t),
    descMem .grp false false (.r .l) (.r .t) .z,
    { side := .grp, tys := 0x340, vs := .any, d := .v .w, a := .q, b := .v .w },
    { side := .grp, tys := 0x3FFF, ht := true, imm := 0xFFFFF, vs := .any, d := .r .t, a := .q, b := .v .w },
    { side := .grp, tys := 0x3FFF, ht := true, imm := 0xFFFFF, vs := .any, a := .q, b := .v .w, c := .r .t },
    { descMem .grp false true (.r .l) .z .z with tys := 1 },
    { nsub := 11, tys := 0xFF, sc := true, xs := 0x1F, imm := 7, vs := .any, d := .r .t, a := .r .l, b := .l .t },
    { side := .grp, nsub := 7, tys := 0x7F, sc := true, vs := .any, a := .r .l, b := .l .t } ]

/-- Opcodes 0x55 to 0x60 (R192). -/
def descs5b : List Desc :=
  [ { nsub := 3, pred := false, sc := true },
    { side := .grp, pred := false, xs := 0xFFFE },
    { side := .grp, pred := false, a := .q, b := .ql },
    { side := .grp, pred := false, b := .ql }, { side := .grp, pred := false, b := .ql },
    { pred := false, imm := 0xFFFFF, a := .q, b := .ql },
    { pred := false, imm := 0xFFFFF, xs := 3, a := .q, b := .ql },
    { pred := false, imm := 0xFFFFF, a := .q, b := .ql },
    { side := .grp, pred := false, imm := 0xFFFFF, a := .q },
    { side := .grp, pred := false, d := .k 7, b := .ql },
    { side := .grp, pred := false, d := .k 7 },
    { side := .grp, pred := false, d := .q, b := .ql } ]

/-- Opcodes 0x61 to 0x67 (R213). -/
def descs6 : List Desc :=
  [ { side := .grp, pred := false, nsub := 2, xs := 0xFFFF, imm := 0xFFFFF, d := .qz, a := .q, b := .q, c := .q },
    { side := .grp, tys := 0x3FFF, xs := 7, imm := 0xFFFFF, d := .v .t, a := .r .l, b := .v .w },
    { side := .grp, tys := 0x3FFF, xs := 7, imm := 0xFFFFF, a := .r .l, b := .v .w, c := .r .t },
    { side := .grp, pred := false, a := .q, b := .ql },
    { pred := false, nsub := 4, imm := 0xFF },
    { side := .grp, pred := false, xs := 3, vs := .any, d := .e },
    { side := .grp, pred := false, d := .q, b := .q } ]

/-- Opcodes 0x68 to 0x70 (R222). -/
def descs6b : List Desc :=
  [ { side := .sq, tys := 0xC340, xs := 3, imm := 0xFFFFF, d := .k 7, a := .q, b := .ql },
    { side := .sq, d := .k 15, b := .k 7 },
    { side := .sq, imm := 0x3F7F, d := .k 15, a := .k 15, b := .k 7 },
    { side := .sq, imm := 0xF, d := .k 15 },
    { side := .sq, tys := 0x344, imm := 0xFFFFF, d := .k 15, a := .q, c := .k 127 },
    { side := .sq, d := .k 15, a := .k 7, b := .k 7 },
    { side := .sq, d := .k 3, b := .ql },
    { side := .sq, xs := 3, d := .k 3, b := .ql },
    { side := .sq, b := .ql } ]

/-- Opcodes 0x71 to 0x7F (R109, R236, R245). -/
def descs7 : List Desc :=
  [ { pred := false, nsub := 7, tys := 0x20, d := .r .l }, { pred := false, nsub := 2, tys := 0x20, d := .r .l },
    { pred := false, nsub := 10, tys := 0x20, d := .r .l, b := .l .l }, { pred := false, nsub := 10, tys := 0x20, d := .r .l },
    { side := .grp, pred := false, nsub := 2, tys := 0x20 },
    { side := .grp, tys := 0x3FFF, xs := 3, imm := 0xFFFFF, d := .r .t, a := .r .w, b := .r .l },
    { side := .grp, tys := 0x3FFF, xs := 5, imm := 0xFFFFF, a := .r .w, b := .r .l, c := .r .t },
    { side := .grp, tys := 0xFF, xs := 0x7FF, imm := 0x77, d := .r .t, a := .r .w, b := .r .l, c := .r .t },
    { side := .grp, xs := 0x1F, d := .v .w, a := .q, b := .v .l, c := .v .l },
    { imm := 0xFF, d := .r .w }, { side := .grp, imm := 0xFF, b := .ql },
    { side := .grp, d := .q, a := .r .w, b := .ql },
    { side := .grp, imm := 7, d := .q },
    { side := .grp, xs := 0x3F, imm := 0x1F },
    { xs := 3, b := .ql } ]

/-- The descriptions of the 128 opcodes, in opcode order. -/
def descs : List Desc :=
  descs0 ++ descs1 ++ descs2 ++ descs2b ++ descs3 ++ descs4 ++ descs5 ++ descs5b ++ descs6 ++ descs6b ++ descs7

/-- The description of an opcode. -/
def descOf (op : Nat) : Desc := descs.getD op {}

/-- The TY codes of the group reductions (R151) and of `red` (R200), by sub-op. -/
def redTys (sub : Nat) : Nat := if sub ≤ 2 then 0x3C else if sub ≤ 5 then 0x3F else 0x40

/-- The TY codes of the atomic operations, by sub-op (R200). -/
def atomTys (sub : Nat) : Nat :=
  if sub ≤ 2 then 0x3C else if sub ≤ 5 then 0x3F else if sub ≤ 7 then 0xFF else if sub ≤ 9 then 0x28 else 0x40

/-- The description of an instruction, where the opcode's own fields change what it accepts. -/
def descIn (env : DecEnv) (op : Nat) (f : Ext) : Desc :=
  let d := descOf op
  let sub := f.sub.toNat
  let xs := f.xs.toNat
  match op with
  | 0x01 => if sub = 0 then { d with a := .z } else d
  | 0x04 => if sub = 1 then { d with b := .q, imm := 0 } else d
  | 0x0E => if sub = 1 then { d with d := .z, b := .ql } else d
  | 0x16 => if sub = 2 then { d with tys := 0x3C } else d
  | 0x2B => if f.ty.toNat ≤ 5 || 10 ≤ f.ty.toNat then
      (if f.c.toNat ≤ 5 || 10 ≤ f.c.toNat then { d with rm := false } else { d with xs := 1 }) else { d with xs := 1 }
  | 0x2C => if sub = 0 then { d with b := .v .w } else if sub = 4 then { d with d := .q } else d
  | 0x2E | 0x2F => { d with tys := redTys sub, rm := sub == 6 }
  | 0x30 => match sub with
    | 4 => { d with a := .z } | 5 => { d with a := .z, b := .z } | 6 => { d with a := .z, b := .z }
    | 7 => { d with a := .z, b := .ql } | 8 => { d with d := .q, a := .z } | 9 => { d with a := .z } | _ => d
  | 0x4A | 0x4B | 0x4C | 0x4D | 0x4E | 0x52 => if 8 ≤ xs then { d with b := .z, xs := 0x1FF } else d
  | 0x53 => if sub = 7 then { d with c := .r .t, tys := atomTys sub, imm := if env.seq then 0 else 7 }
            else { d with tys := atomTys sub, imm := 0 }
  | 0x54 => { d with tys := redTys sub }
  | 0x5B => if xs = 1 then d else { d with b := .z }
  | 0x61 => if xs % 4 = 3 || 12 ≤ xs then { d with xs := 0 } else d
  | 0x62 | 0x63 => if xs = 1 then { d with a := .r .w } else d
  | 0x78 => if xs = 7 then { d with tys := 0xD, c := .r .l } else { d with tys := if xs < 11 then atomTys xs else 0xFF, imm := 0x70 }
  | 0x7E => if xs ≤ 3 then { d with d := .q } else if xs = 4 then { d with b := .ql } else d
  | _ => d

/-- A view word: vw0 is fixed at zero (R37). -/
def DecEnv.view (env : DecEnv) (vs : Nat) : W64 :=
  match vs with | 1 => env.vw1 | 2 => env.vw2 | 3 => env.vw3 | _ => 0

/-- KIND of a view word (R37). -/
abbrev viewKind (v : W64) : Nat := (bits v 22 2).toNat
/-- EW of a view word (R37). -/
abbrev viewEw (v : W64) : Nat := (bits v 20 2).toNat
/-- BASE of a view word (R37). -/
abbrev viewBase (v : W64) : Nat := (bits v 0 8).toNat
/-- STRIDE of a view word, 0 selecting the natural stride (R37). -/
abbrev viewStride (v : W64) (natural : Nat) : Nat :=
  if (bits v 8 8).toNat = 0 then natural else (bits v 8 8).toNat

/-- A vector operand of `size` bits named `code` through view word `v` (R38, R40): what it covers, or the failing check. -/
def nameThrough (env : DecEnv) (v : W64) (code size : Nat) (imm : BitVec 20) : Except Nat Reg :=
  let b := viewBase v
  if viewKind v = 0 then
    match viewEw v with
    | 0 =>
      let r := b + code * viewStride v 1
      if size = 64 then (if r % 2 = 1 || 159 ≤ r then .error 13 else .ok (.vec r .pair))
      else if 160 ≤ r then .error 13 else .ok (.vec r .word)
    | 1 =>
      let r := b + code * viewStride v 2
      if size ≠ 64 then .error 7 else if r % 2 = 1 || 159 ≤ r then .error 13 else .ok (.vec r .pair)
    | 2 =>
      let r := b + code / 2 * viewStride v 1
      if size ≠ 16 then .error 7 else if 160 ≤ r then .error 13 else .ok (.vec r (.half (code % 2 == 1)))
    | _ =>
      let r := b + code / 4 * viewStride v 1
      if size ≠ 8 then .error 7 else if 160 ≤ r then .error 13 else .ok (.vec r (.byte (code % 4)))
  else if viewKind v = 2 then
    let bank := b + code * viewStride v 1
    if size ≠ 32 then .error 7
    else if 16 ≤ code || env.nbanks ≤ bank then .error 13
    else .ok (.acc bank (bits imm 0 6).toNat (bits imm 6 6).toNat)
  else .error 7

/-- The size in bits at which an operand of size class `s` is read or written. -/
def Sz.bits (s : Sz) (ty c : Nat) : Nat :=
  match s with | .t => tyBits ty | .w => 32 | .l => 64 | .i => 32 | .c => tyBits c

/-- A register field as a register (R123, R130): an x register in sequencer code, a q register from code 160, or a vector
name. The error is the failing check; a tile name of code 32 or above is one out of range, 13 (DESIGN CHOICE, log 106). -/
def FK.reg (k : FK) (env : DecEnv) (f : Ext) (code : Nat) : Except Nat Reg :=
  match k with
  | .z | .k _ => .ok (.q 0)
  | .m | .md => if env.seq then (if 32 ≤ code then .error 9 else .ok (.x code))
                else if 8 ≤ code then .error 9 else if k = .md && code = 0 then .error 9 else .ok (.mask code)
  | .q | .ql | .qz => if env.seq then (if 32 ≤ code then .error 9 else .ok (.x code))
                else if code < 160 then .error 9 else .ok (.q (code - 160))
  | .r s | .l s | .v s =>
    if env.seq then (if 32 ≤ code then .error 9 else .ok (.x code))
    else if 160 ≤ code then (if k = .v s then .error 9 else .ok (.q (code - 160)))
    else nameThrough env (if s = .i then 0 else env.view f.vs.toNat) code (s.bits f.ty.toNat f.c.toNat) f.imm
  | .e =>
    if 160 ≤ code then .error 9
    else
      let v := env.view f.vs.toNat
      if viewKind v = 1 then
        let r := viewBase v + code * viewStride v 8
        if 32 ≤ code || 153 ≤ r then .error 13 else .ok (.vec r .word)
      else if viewKind v = 2 then .error 7
      else nameThrough env v code (match viewEw v with | 0 => 32 | 1 => 64 | 2 => 16 | _ => 8) f.imm

/-- Whether a field is in use: qz fields of 0 name nothing. -/
def FK.used (k : FK) (code : Nat) : Bool :=
  match k with | .z => false | .qz => code != 0 | _ => true

/-- Whether a resolved register has a full/empty bit (R51): all but m0. -/
def Reg.hasFE : Reg → Bool
  | .mask 0 => false
  | _ => true

/-- Whether a last-use bit may stand on a resolved register (R123): rows alone. -/
def Reg.mayRelease : Reg → Bool
  | .vec _ _ => true
  | _ => false

/-- Whether the kind holds a register with a full/empty bit or last use at all. -/
def FK.isReg : FK → Bool
  | .z | .k _ => false
  | _ => true

/-- The check that a register field fails first, of those that `FK.reg` reports with `code`. -/
def regFails (env : DecEnv) (f : Ext) (which : Nat) (k : FK) (code : Nat) : Bool :=
  if k.used code && k.isReg then
    match k.reg env f code with
    | .ok _ => false
    | .error c => c == which
  else false

/-- Whether a field that names no register it may name still tells that a last-use bit is reserved there: an x, q or mask
operand, a q code, and an accumulator name (R40, R123). -/
def FK.neverReleases (k : FK) (env : DecEnv) (f : Ext) (code : Nat) : Bool :=
  match k with
  | .m | .md | .q | .ql | .qz => true
  | .r _ | .l _ | .v _ | .e => env.seq || decide (160 ≤ code) || decide (viewKind (env.view f.vs.toNat) = 2)
  | .z | .k _ => true

/-- A last-use or trap bit where none may stand (check 8). -/
def markFails (env : DecEnv) (f : Ext) (k : FK) (code : Nat) (last trp : Bool) : Bool :=
  if k.used code && k.isReg then
    match k.reg env f code with
    | .ok r => (last && !r.mayRelease) || (trp && !r.hasFE)
    | .error _ => last && k.neverReleases env f code
  else last || trp

/-- Whether a field takes a literal in place of its register (R127). -/
def takesLit (k : FK) : Bool := match k with | .l _ | .ql => true | _ => false

/-- The selectors of `sreg` (R145): side allowed, vector destination allowed, q or x destination allowed. -/
def sregSel (sel : Nat) : Option (Side × Bool × Bool) :=
  match sel with
  | 0x00 => some (.grp, true, false) | 0x01 => some (.grp, true, true) | 0x02 => some (.both, true, true)
  | 0x03 => some (.both, true, true) | 0x04 => some (.grp, true, true) | 0x05 => some (.both, true, true)
  | 0x06 => some (.sq, false, true) | 0x08 => some (.both, false, true) | 0x09 => some (.both, true, true)
  | 0x0A => some (.both, true, true) | 0x0C => some (.both, false, true) | 0x0D => some (.both, true, true)
  | 0x0E => some (.both, true, true) | _ => none

/-- Whether a side may execute what a side column allows. -/
def Side.allows (s : Side) (seq : Bool) : Bool :=
  match s with | .both => true | .grp => !seq | .sq => seq

/-- The number of planes of a format (R185), 0 of any other. -/
def tyPlanes (ty : Nat) : Nat :=
  match ty with | 14 => 12 | 15 => 18 | 16 => 4 | 17 => 2 | 18 => 1 | _ => 0

/-- Check 6 beyond the description (R145, R182, R191, R212, R233, R246): values of IMM and XS that the opcode restricts. -/
def check6 (env : DecEnv) (op : Nat) (f : Ext) : Bool :=
  let sub := f.sub.toNat
  let imm := f.imm.toNat
  match op with
  | 0x0E => match sregSel (imm % 256) with
    | none => true
    | some (side, _, _) => !side.allows env.seq || (sub == 1 && imm % 256 != 1)
  | 0x47 | 0x48 => imm % env.width != 0 || decide (64 < imm % 64 + env.width)
  | 0x49 => let p := match planeTy op f.ty.toNat env.fmt with | 14 | 15 => 0 | 16 => 4 | 17 => 2 | 18 => 1 | _ => 31
            decide (p < imm % 32) || decide (p < imm / 32 % 32)
  | 0x50 | 0x51 => f.imm == 0 || f.imm.msb
  | 0x78 => decide (5 ≤ imm / 16 % 8)
  | 0x7A => decide (7 ≤ imm) || (imm == 6 && env.seq)
  | 0x7B => imm != 0
  | _ => false

/-- Check 9 beyond the description: q destinations need U = 1 (R118), runs of q registers end at q95 (R190, R196, R241),
destination kinds of `sreg` (R145), bank runs of `mzero` and C[7] of `mdrain` (R233), the U bit of R109, R186, R252. -/
def check9 (env : DecEnv) (op : Nat) (f : Ext) (d : Desc) : Bool :=
  let a := f.a.toNat
  let qd := (match d.d with | .q | .r _ => decide (160 ≤ f.d.toNat) | _ => false) && !env.seq
  let freeQ := op = 0x2D || op = 0x2E || op = 0x47 || (op = 0x2C && f.sub = 4)
  (qd && !f.u && !freeQ) ||
  match op with
  | 0x0E => match sregSel (f.imm.toNat % 256) with
    | some (_, vec, q) => f.sub == 0 && !env.seq && (if 160 ≤ f.d.toNat then !q else !vec)
    | none => false
  | 0x47 => f.u
  | 0x48 | 0x49 => decide (256 < a + tyPlanes (planeTy op f.ty.toNat env.fmt))
  | 0x4F | 0x79 => a == 255 || (op == 0x79 && f.u)
  | 0x6B => decide (16 < f.d.toNat + f.imm.toNat % 16 + 1)
  | 0x60 | 0x67 => !f.u
  | 0x71 | 0x72 | 0x73 | 0x74 | 0x75 => !f.u
  | _ => false

/-- Check 13 beyond the description: the rows after the first of an operand that names several (R38, R188, R196, R197). -/
def check13 (env : DecEnv) (op : Nat) (f : Ext) (_d : Desc) : Bool :=
  let bad (n : Nat) := match nameThrough env (env.view f.vs.toNat) (f.b.toNat + n) 32 f.imm with
    | .error 13 => true | _ => false
  match op with
  | 0x4F | 0x50 | 0x51 => f.b.toNat < 160 && bad 1
  | 0x49 => let p := tyPlanes (planeTy op f.ty.toNat env.fmt)
            f.b.toNat < 160 && p != 0 && bad (p - 1)
  | _ => false

/-- The source fields of an instruction by number: A, B where no literal stands there, C. -/
def Desc.sources (d : Desc) (f : Ext) : List (Nat × FK × Nat) :=
  [(0, d.a, f.a.toNat)] ++ (if f.lit.isNone then [(1, d.b, f.b.toNat)] else []) ++ [(2, d.c, f.c.toNat)]

/-- Whether the instruction leaves an accumulator name to a source (R40, R172): not where IMM has another use, and in `dot2` and `fscl` only to the
f32 source, C and A. -/
def Desc.takesAcc (d : Desc) (op which : Nat) : Bool :=
  d.imm == 0 && (if op = 0x42 then which == 2 else if op = 0x43 then which == 0 else true)

/-- Whether a source field is a vector name through the view that VS selects, an accumulator view; its place in range or not (R38, R40). -/
def accNamed (env : DecEnv) (f : Ext) (x : Nat × FK × Nat) : Bool :=
  viewKind (env.view f.vs.toNat) == 2 && !env.seq && decide (x.2.2 < 160) &&
  match x.2.1 with | .r s | .v s | .l s => s != .i | .e => true | _ => false

/-- Whether an accumulator name stands among the sources (R40). -/
def namesAcc (env : DecEnv) (f : Ext) (d : Desc) : Bool := (d.sources f).any (accNamed env f)

/-- Whether a view accepts a kind of field for an operand of that size (R38, R39, R121); an accumulator view, a source of 32 bits. -/
def FK.fits (k : FK) (v : W64) (acc : Bool) (ty c : Nat) : Bool :=
  match k with
  | .r s | .v s | .l s =>
    let n := s.bits ty c
    s != .i && (if viewKind v = 0 then (match viewEw v with | 0 => true | 1 => n == 64 | 2 => n == 16 | _ => n == 8)
      else viewKind v == 2 && acc && n == 32)
  | .e => decide (viewKind v ≤ 1)
  | _ => false

/-- Whether some operand field of the instruction accepts the view, whatever register stands there (R121, R172). -/
def viewFits (env : DecEnv) (op : Nat) (f : Ext) (d : Desc) : Bool :=
  let v := env.view f.vs.toNat
  let fits (k : FK) (acc : Bool) : Bool := k.fits v acc f.ty.toNat f.c.toNat
  fits d.d false || (d.sources f).any (fun x => fits x.2.1 (d.takesAcc op x.1))

/-- A view that the instruction does not accept (check 7): one of a kind or EW that no operand of it takes, whether a name goes through it or
not (R121); a vector operand through one of the wrong kind or EW for its size; an accumulator view on a destination, where IMM has another
use, or for a source that is not f32 in 0x31 to 0x43; and a view of EW 16 or 8 for types of another width in 0x10 to 0x2B (R38, R40, R155, R172). -/
def check7 (env : DecEnv) (op : Nat) (f : Ext) (d : Desc) : Bool :=
  let v := env.view f.vs.toNat
  let narrow (w : Nat) : Bool := (viewEw v == 2 && w == 16) || (viewEw v == 3 && w == 8)
  let bLit := f.lit.isSome
  let accD := match d.d with | .r _ | .v _ => decide (f.d.toNat < 160) && viewKind v == 2 | _ => false
  f.vs != 0 && (env.seq || viewKind v == 3 ||
    (match d.vs with
      | .no => true
      | .narrow => !(viewKind v == 0 && (narrow (tyBits f.ty.toNat) || (op == 0x2B && narrow (tyBits f.c.toNat))))
      | .row => !(viewKind v == 0 && viewEw v == 0)
      | .any => !viewFits env op f d) ||
    accD || (d.sources f).any (fun x => accNamed env f x && !d.takesAcc op x.1)) ||
  regFails env f 7 d.d f.d.toNat || regFails env f 7 d.a f.a.toNat || (!bLit && regFails env f 7 d.b f.b.toNat) ||
  regFails env f 7 d.c f.c.toNat

/-- The bits of IMM that an instruction takes (R122): those of its description; where a source is an accumulator name, its place (R40), which the
memory instructions, whose IMM is a dash in R192, leave at zero. -/
def immBits (env : DecEnv) (op : Nat) (f : Ext) (d : Desc) : Nat :=
  if namesAcc env f d && !(decide (0x4A ≤ op) && decide (op ≤ 0x54)) then 0xFFF else d.imm

/-- The checks of R131 in their order: the code of the first that fails. `short` and `lit` describe the form. A source type that `cvt` does not
take is reported as check 3 (DESIGN CHOICE, log 105). -/
def checkFields (env : DecEnv) (op : Nat) (short : Bool) (f : Ext) : Option Nat :=
  let d0 := descOf op
  let d := descIn env op f
  let lit := f.lit.isSome
  let xs := f.xs.toNat
  let immMask := immBits env op f d
  let (da, aa, ba, ca) := (f.d.toNat, f.a.toNat, f.b.toNat, f.c.toNat)
  let any (c : Nat) := regFails env f c d.d da || regFails env f c d.a aa || (!lit && regFails env f c d.b ba) ||
    regFails env f c d.c ca
  if !d0.side.allows env.seq || (op == 0x65 && f.sub.toNat ≤ 3 && (f.sub == 3) != env.seq) then some 11
  else if short && !d0.short then some 1
  else if env.seq && !f.u then some 11
  else if lit && (f.b != 0 || f.lb || f.fb || !takesLit d.b) then some 1
  else if d0.nsub ≤ f.sub.toNat then some 2
  else if !d.tys.testBit f.ty.toNat || (op == 0x2B && (ca < 2 || 13 < ca)) then some 3
  else if f.rm != 0 && !d.rm then some 4
  else if (f.pn && f.pm == 0) || ((f.pm != 0) && (env.seq || !d.pred)) then some 5
  else if f.sc == 7 || (f.sc != 0 && !d.sc) || 4 < f.ht.toNat || (f.ht != 0 && !d.ht) || !d.xs.testBit xs ||
    (immMask != 0 && f.imm.toNat &&& immMask != f.imm.toNat) || (immMask == 0 && d0.imm != 0 && f.imm != 0) ||
    check6 env op f then some 6
  else if check7 env op f d then some 7
  else if (op == 0x73 && f.lb) || markFails env f d.d da false false || markFails env f d.a aa f.la f.fa ||
    (!lit && markFails env f d.b ba f.lb f.fb) || markFails env f d.c ca f.lc f.fc then some 8
  else if any 9 || (match d.d with | .k h => h < da | _ => false) || (match d.a with | .k h => h < aa | _ => false) ||
    (match d.b with | .k h => h < ba | _ => false) || (match d.c with | .k h => h < ca | _ => false) ||
    check9 env op f d then some 9
  else if any 13 || check13 env op f d then some 13
  else if (d.d == .z && da != 0) || (d.a == .z && aa != 0) || (d.b == .z && ba != 0) || (d.c == .z && ca != 0) ||
    (immMask == 0 && f.imm != 0) then some 10
  else none

/-- The default type of a short form (R120). -/
def shortTy (op : Nat) (u : Bool) : Nat :=
  if 0x4A ≤ op ∧ op ≤ 0x4D then (if u then 1 else 0)
  else if 0x31 ≤ op ∧ op ≤ 0x36 then 6
  else if 0x10 ≤ op ∧ op ≤ 0x24 then (if u then 4 else 2)
  else 0

/-- A register code of a short form as the code of the extended form (R123). -/
def shortCode (seq : Bool) (c : BitVec 6) : BitVec 8 :=
  if seq then BitVec.ofNat 8 c.toNat else if 48 ≤ c.toNat then BitVec.ofNat 8 (c.toNat + 112) else BitVec.ofNat 8 c.toNat

/-- A short form as the extended fields it stands for (R119, R120, R123, R125, R191): store data stands in D. RM is 0 here;
the meaning of a short form takes its rounding from fmt. -/
def shortExt (seq : Bool) (op : Nat) (f : Short) : Ext :=
  let dc := shortCode seq f.d
  let ac := shortCode seq f.a
  let isSt := op = 0x4B || op = 0x4D
  let mem := 0x4A ≤ op ∧ op ≤ 0x4D
  { u := f.u, s := f.s, d := if isSt then 0 else dc, c := if isSt then dc else 0, a := ac, la := f.la,
    b := if f.lit.isSome then BitVec.ofNat 8 f.b.toNat else shortCode seq f.b, lb := f.lb, pm := if f.p then 1 else 0,
    ty := BitVec.ofNat 5 (shortTy op f.u), xs := if mem then (if f.u then 3 else 2) else 0, lit := f.lit }

end Sys2Proof.Machine
end

