-- ==== Sys2Proof/Machine/Float.lean ====
section
/-! DEFINITION. Exact floating-point arithmetic (R58, R59, R60, R61): values are unpacked to exact dyadics, operated on, and
rounded once. -/
namespace Sys2Proof.Machine

open Sys2Proof

/-- A binary format: exponent and fraction bits (R56). -/
structure Fmt where
  eb : Nat
  mb : Nat
  deriving DecidableEq, Repr

def Fmt.f32 : Fmt := ⟨8, 23⟩
def Fmt.f64 : Fmt := ⟨11, 52⟩
def Fmt.f16 : Fmt := ⟨5, 10⟩
def Fmt.bf16 : Fmt := ⟨8, 7⟩

/-- The format of a floating-point TY code (R56). -/
def fmtOf (ty : Nat) : Fmt :=
  match ty with | 7 => .f64 | 8 => .f16 | 9 => .bf16 | _ => .f32

/-- Width in bits. -/
def Fmt.width (f : Fmt) : Nat := f.eb + f.mb + 1
/-- Exponent bias. -/
def Fmt.bias (f : Fmt) : Int := (2 ^ (f.eb - 1) - 1 : Nat)
/-- The exponent of the least significant bit of a subnormal. -/
def Fmt.qmin (f : Fmt) : Int := 1 - f.bias - f.mb
/-- The pattern of +Inf. -/
def Fmt.inf (f : Fmt) : Nat := (2 ^ f.eb - 1) * 2 ^ f.mb
/-- The sign bit. -/
def Fmt.signBit (f : Fmt) : Nat := 2 ^ (f.eb + f.mb)
/-- The default NaN (R58). -/
def Fmt.nan (f : Fmt) : Nat := f.inf + 2 ^ (f.mb - 1)

/-- A value: NaN (signalling or quiet), an infinity, or (-1)^neg x m x 2^e. -/
inductive FVal where
  | nan (sig : Bool)
  | inf (neg : Bool)
  | fin (neg : Bool) (m : Nat) (e : Int)
  deriving DecidableEq, Repr

/-- The value of a bit pattern; higher bits are ignored. -/
def unpack (f : Fmt) (b : Nat) : FVal :=
  let neg := b / f.signBit % 2 == 1
  let ex := b / 2 ^ f.mb % 2 ^ f.eb
  let fr := b % 2 ^ f.mb
  if ex = 2 ^ f.eb - 1 then (if fr = 0 then .inf neg else .nan (fr < 2 ^ (f.mb - 1)))
  else if ex = 0 then .fin neg fr f.qmin
  else .fin neg (fr + 2 ^ f.mb) (f.qmin + ex - 1)

/-- A pattern with a sign. -/
def Fmt.signed (f : Fmt) (neg : Bool) (b : Nat) : Nat := if neg then b + f.signBit else b

/-- Rounds (-1)^neg x (m + sticky fraction) x 2^e to the format (R58); with a sticky fraction, m has more bits than the
format keeps. -/
def roundTo (f : Fmt) (rm : RM) (neg : Bool) (m : Nat) (e : Int) (sticky : Bool := false) : Nat :=
  if m = 0 && !sticky then f.signed neg 0
  else
    let len : Int := Nat.log2 m + 1
    let qe : Int := max (e + len - (f.mb + 1)) f.qmin
    let d : Nat := (qe - e).toNat
    let (q, r, half) := if qe ≤ e then (m * 2 ^ (e - qe).toNat, 0, 1) else (m / 2 ^ d, m % 2 ^ d, 2 ^ (d - 1))
    let inexact := r != 0 || sticky
    let up := match rm with
      | .rne => decide (half < r) || (r == half && qe > e && (sticky || q % 2 == 1))
      | .rtz => false
      | .rdn => neg && inexact
      | .rup => !neg && inexact
    let b := (qe - f.qmin).toNat * 2 ^ f.mb + (q + if up then 1 else 0)
    if f.inf ≤ b then
      let toInf := match rm with | .rne => true | .rtz => false | .rdn => neg | .rup => !neg
      f.signed neg (if toInf then f.inf else f.inf - 1)
    else f.signed neg b

/-- `Flush` (R59): with FTZ a subnormal becomes a zero of its sign. -/
def flushIf (f : Fmt) (ftz : Bool) (b : Nat) : Nat :=
  let mag := b % f.signBit
  if ftz && decide (mag < 2 ^ f.mb) then f.signed (b / f.signBit % 2 == 1) 0 else b

/-- A signed integer times 2^e as a sum of dyadics aligned to the least exponent. -/
def sumDyadics (xs : List (Bool × Nat × Int)) : Int × Int :=
  let e0 := xs.foldl (fun a x => min a x.2.2) (xs.head?.map (·.2.2) |>.getD 0)
  (xs.foldl (fun a x =>
    let v : Int := (x.2.1 * 2 ^ (x.2.2 - e0).toNat : Nat)
    if x.1 then a - v else a + v) 0, e0)

/-- The sum of finite dyadics rounded once, an exact zero signed by R175. -/
def roundSum (f : Fmt) (rm : RM) (xs : List (Bool × Nat × Int)) : Nat :=
  let (v, e) := sumDyadics xs
  if v = 0 then
    let allNeg := xs.all (fun x => x.1 && x.2.1 == 0)
    let allPos := xs.all (fun x => !x.1 && x.2.1 == 0)
    f.signed (allNeg || (!allPos && rm == .rdn)) 0
  else roundTo f rm (v < 0) v.natAbs e

/-- The exact product of two values; none for 0 x Inf or a NaN. -/
def mulVal (a b : FVal) : Option FVal :=
  match a, b with
  | .nan _, _ | _, .nan _ => none
  | .inf s, .inf t => some (.inf (s != t))
  | .inf s, .fin t m _ | .fin t m _, .inf s => if m = 0 then none else some (.inf (s != t))
  | .fin s m e, .fin t n k => some (.fin (s != t) (m * n) (e + k))

/-- The sum of values rounded once (R174, R175, R181): none stands for an invalid addend. -/
def addVals (f : Fmt) (rm : RM) (xs : List (Option FVal)) : Nat :=
  if xs.any (fun x => match x with | none => true | some (.nan _) => true | _ => false) then f.nan
  else
    let pinf := xs.any (fun x => x == some (.inf false))
    let ninf := xs.any (fun x => x == some (.inf true))
    if pinf && ninf then f.nan
    else if pinf then f.inf
    else if ninf then f.signed true f.inf
    else roundSum f rm (xs.filterMap (fun x => match x with | some (.fin n m e) => some (n, m, e) | _ => none))

/-- A value with its sign changed. -/
def negVal : FVal → FVal
  | .nan s => .nan s
  | .inf s => .inf (!s)
  | .fin s m e => .fin (!s) m e

/-- `fadd` before Flush (R174). -/
def fpAdd (f : Fmt) (rm : RM) (a b : Nat) : Nat := addVals f rm [some (unpack f a), some (unpack f b)]
/-- `fsub` before Flush (R174). -/
def fpSub (f : Fmt) (rm : RM) (a b : Nat) : Nat := addVals f rm [some (unpack f a), some (negVal (unpack f b))]
/-- `fma` before Flush (R174). -/
def fpFma (f : Fmt) (rm : RM) (a b c : Nat) : Nat := addVals f rm [mulVal (unpack f a) (unpack f b), some (unpack f c)]
/-- `dot2` before Flush (R181): the sources in format g, the sum in f32. -/
def fpDot2 (g : Fmt) (rm : RM) (a b c : Nat) : Nat :=
  addVals .f32 rm [mulVal (unpack g (a % 65536)) (unpack g (b % 65536)), mulVal (unpack g (a / 65536)) (unpack g (b / 65536)),
    some (unpack .f32 c)]

/-- A value rounded to a format: NaN gives the default NaN, infinities stay. -/
def packVal (f : Fmt) (rm : RM) (v : FVal) : Nat :=
  match v with
  | .nan _ => f.nan
  | .inf s => f.signed s f.inf
  | .fin s m e => roundTo f rm s m e

/-- `fmul` before Flush (R174, R175). -/
def fpMul (f : Fmt) (rm : RM) (a b : Nat) : Nat :=
  match mulVal (unpack f a) (unpack f b) with
  | some v => packVal f rm v
  | none => f.nan

/-- `fdiv` before Flush (R174). -/
def fpDiv (f : Fmt) (rm : RM) (a b : Nat) : Nat :=
  match unpack f a, unpack f b with
  | .nan _, _ | _, .nan _ => f.nan
  | .inf _, .inf _ => f.nan
  | .inf s, .fin t _ _ => f.signed (s != t) f.inf
  | .fin s _ _, .inf t => f.signed (s != t) 0
  | .fin s m e, .fin t n k =>
    if n = 0 then (if m = 0 then f.nan else f.signed (s != t) f.inf)
    else if m = 0 then f.signed (s != t) 0
    else
      let sh := 2 * f.mb + 8
      let num := m * 2 ^ sh
      roundTo f rm (s != t) (num / n) (e - k - sh) (num % n != 0)

/-- The integer square root by bisection from above on `fuel` bits. -/
def isqrt (n : Nat) : Nat → Nat → Nat
  | 0, r => r
  | i + 1, r => isqrt n i (if (r + 2 ^ i) * (r + 2 ^ i) ≤ n then r + 2 ^ i else r)

/-- `fsqrt` before Flush (R174, R175). -/
def fpSqrt (f : Fmt) (rm : RM) (b : Nat) : Nat :=
  match unpack f b with
  | .nan _ => f.nan
  | .inf s => if s then f.nan else f.inf
  | .fin s m e =>
    if m = 0 then f.signed s 0
    else if s then f.nan
    else
      let sh := 2 * f.mb + 8
      let (m, e) := if e % 2 = 0 then (m, e) else (2 * m, e - 1)
      let n := m * 2 ^ (2 * sh)
      let r := isqrt n ((Nat.log2 n) / 2 + 2) 0
      roundTo f rm false r (e / 2 - sh) (r * r != n)

/-- `fscl` before Flush (R174): exponents beyond 5,000 give what 5,000 gives, an overflow or a zero of every format. -/
def fpScl (f : Fmt) (rm : RM) (a : Nat) (k : Int) : Nat :=
  match unpack f a with
  | .nan _ => f.nan
  | .inf s => f.signed s f.inf
  | .fin s m e => if m = 0 then f.signed s 0 else roundTo f rm s m (e + max (-5000) (min 5000 k))

/-- The order of two non-NaN values as a key: -0 below +0. -/
def fpKey (f : Fmt) (a : Nat) : Int :=
  let mag : Int := (a % f.signBit : Nat)
  if a / f.signBit % 2 = 1 then -mag - 1 else mag

/-- Whether a pattern is a NaN. -/
def isNaN (f : Fmt) (a : Nat) : Bool := decide (f.inf < a % f.signBit)

/-- `fmin` and `fmax` before Flush (R176). -/
def fpMinMax (f : Fmt) (isMax : Bool) (a b : Nat) : Nat :=
  let a := a % 2 ^ f.width
  let b := b % 2 ^ f.width
  match isNaN f a, isNaN f b with
  | true, true => f.nan
  | true, false => b
  | false, true => a
  | false, false =>
    if isMax then (if fpKey f a < fpKey f b then b else a) else (if fpKey f b < fpKey f a then b else a)

/-- The outcome of a comparison (R167, R177), on keys: eq, ne, lt, le, gt, ge. -/
def condOf (sub : Nat) (a b : Int) : Bool :=
  match sub with
  | 0 => a == b | 1 => a != b | 2 => decide (a < b) | 3 => decide (a ≤ b) | 4 => decide (b < a) | _ => decide (b ≤ a)

/-- `fcmp` (R177): zeros compare equal, and NaN is unordered. -/
def fpCmp (f : Fmt) (sub a b : Nat) : Bool :=
  let a := a % 2 ^ f.width
  let b := b % 2 ^ f.width
  let un := isNaN f a || isNaN f b
  let key (x : Nat) := if x % f.signBit = 0 then 0 else fpKey f x + (if x / f.signBit % 2 = 1 then 1 else 0)
  match sub with
  | 6 => !un
  | 7 => un
  | 1 => un || condOf 1 (key a) (key b)
  | n => !un && condOf n (key a) (key b)

/-- An exact dyadic rounded to an integer under a mode (R59, R179). -/
def roundInt (rm : RM) (neg : Bool) (m : Nat) (e : Int) : Int :=
  if 0 ≤ e then
    let v : Int := (m * 2 ^ e.toNat : Nat)
    if neg then -v else v
  else
    let d := (-e).toNat
    let q := m / 2 ^ d
    let r := m % 2 ^ d
    let half := 2 ^ (d - 1)
    let up := match rm with
      | .rne => decide (half < r) || (r == half && q % 2 == 1)
      | .rtz => false
      | .rdn => neg && r != 0
      | .rup => !neg && r != 0
    let v : Int := (q + if up then 1 else 0 : Nat)
    if neg then -v else v

/-- `frnd` before Flush (R179). -/
def fpRnd (f : Fmt) (rm : RM) (b : Nat) : Nat :=
  match unpack f b with
  | .nan _ => f.nan
  | .inf s => f.signed s f.inf
  | .fin s m e =>
    if m = 0 || 0 ≤ e then b % 2 ^ f.width
    else roundTo f .rne s (roundInt rm s m e).natAbs 0

/-- The class mask of `fcls` (R180). -/
def fpClass (f : Fmt) (b : Nat) : Nat :=
  match unpack f b with
  | .nan sig => if sig then 0x100 else 0x200
  | .inf s => if s then 0x001 else 0x080
  | .fin s m _ =>
    if m = 0 then (if s then 0x008 else 0x010)
    else if m < 2 ^ f.mb then (if s then 0x004 else 0x020)
    else if s then 0x002 else 0x040

/-- `RNE32` of an exact dyadic, an exact zero giving +0 (R59). -/
def rne32 (v : Int) (e : Int) : Nat := if v = 0 then 0 else roundTo .f32 .rne (v < 0) v.natAbs e

/-- `RNE32` of a sum of two f32 values; an exact zero gives +0 (R59, R66). -/
def rneAdd (a b : Nat) : Nat :=
  match unpack .f32 a, unpack .f32 b with
  | .fin s m e, .fin t n k =>
    let (v, x) := sumDyadics [(s, m, e), (t, n, k)]
    rne32 v x
  | _, _ => fpAdd .f32 .rne a b

/-- `RNE32` of a product of two f32 values; an exact zero gives +0 (R59, R67). -/
def rneMul (a b : Nat) : Nat :=
  match mulVal (unpack .f32 a) (unpack .f32 b) with
  | none => Fmt.f32.nan
  | some (.fin s m e) => rne32 (if s then -(m : Int) else m) e
  | some v => packVal .f32 .rne v

/-- A finite f32 as a signed dyadic. -/
def dy32 (b : Nat) : Int × Int :=
  match unpack .f32 b with
  | .fin s m e => (if s then -(m : Int) else m, e)
  | _ => (0, 0)

/-- The difference of dyadics. -/
def dySub (a b : Int × Int) : Int × Int :=
  let e := min a.2 b.2
  (a.1 * 2 ^ (a.2 - e).toNat - b.1 * 2 ^ (b.2 - e).toNat, e)

/-- The product RNE32(RNE32(16 r) x RNE32(0.5 - |r|)) of R60. -/
def sineStep (r : Nat) : Nat :=
  let (m, e) := dy32 r
  let a := rne32 m (e + 4)
  let d := dySub (1, -1) (m.natAbs, e)
  let b := rne32 d.1 d.2
  rneMul a b

/-- The approximations of R60 before Flush: 0x3A to 0x3F as `which` 0 to 5. -/
def fpApprox (which : Nat) (b : Nat) : Nat :=
  let f := Fmt.f32
  let b := b % 2 ^ 32
  let neg := b / f.signBit == 1
  let mag := b % f.signBit
  let sub := decide (mag < 2 ^ 23)
  if isNaN f b then f.nan
  else match which with
  | 0 =>
    if mag = f.inf then f.signed neg 0
    else if sub then f.signed neg f.inf
    else if 0x7EF311C3 - mag < 0x00800000 then f.signed neg 0 else f.signed neg (0x7EF311C3 - mag)
  | 1 =>
    if sub then f.inf
    else if neg then f.nan
    else if mag = f.inf then 0 else 0x5F3759DF - b / 2
  | 2 =>
    if mag = f.inf then (if neg then 0 else f.inf)
    else
      let (m, e) := dy32 b
      let i := if 0 ≤ e then m * 2 ^ (min e.toNat 200) else Int.fdiv m (2 ^ (-e).toNat)
      if i < -126 then 0
      else if 128 ≤ i then f.inf
      else
        let fr := if 0 ≤ e then 0 else m - i * 2 ^ (-e).toNat
        let fl := if 0 ≤ e + 23 then fr * 2 ^ (e + 23).toNat else Int.fdiv fr (2 ^ (-(e + 23)).toNat)
        ((i + 127) * 2 ^ 23 + fl).toNat
  | 3 =>
    if sub then f.signed true f.inf
    else if neg then f.nan
    else if mag = f.inf then f.inf
    else rne32 ((b : Int) - 0x3F800000) (-23)
  | _ =>
    if mag = f.inf then f.nan
    else
      let (m, e) := dy32 b
      let ri := roundInt .rne (m < 0) m.natAbs e
      let d := dySub (m, e) (ri, 0)
      let r := rne32 d.1 d.2
      if which = 4 then sineStep r
      else
        let (rm, re) := dy32 r
        let c := dySub (1, -2) (rm.natAbs, re)
        sineStep (rne32 c.1 c.2)

/-- A signed integer as a value of a format (R169). -/
def fpOfInt (f : Fmt) (rm : RM) (v : Int) : Nat := if v = 0 then 0 else roundTo f rm (v < 0) v.natAbs 0

/-- An addition of the tree of R61: −0.0 leaves the other value as it is, +0 with it, in every mode (R59, R151). The sum of x and −x is −0 under
RDN, as in a binary32 addition of IEEE 754 (R61; R59 gives +0 where nothing fixes the sign; DEDUCED, log 23). -/
def pairAdd (rm : RM) (a b : Nat) : Nat :=
  if (a = 0x80000000 ∧ b = 0) ∨ (a = 0 ∧ b = 0x80000000) then 0 else fpAdd .f32 rm a b

/-- One level of the reduction tree of R61. -/
def pairLevel (rm : RM) (ftz : Bool) : List Nat → List Nat
  | a :: b :: rest => flushIf .f32 ftz (pairAdd rm a b) :: pairLevel rm ftz rest
  | l => l

/-- `levels` levels of the tree. -/
def pairTree (rm : RM) (ftz : Bool) : Nat → List Nat → Nat
  | 0, l => l.headD 0
  | n + 1, l => pairTree rm ftz n (pairLevel rm ftz l)

/-- `PairSum` over the width (R61): lanes not listed enter as -0.0. -/
def pairSum (rm : RM) (ftz : Bool) (w : Nat) (vals : FMap W64) : Nat :=
  let l := (List.range w).map (fun i => match FMap.find vals i with | some v => v.toNat % 2 ^ 32 | none => 0x80000000)
  pairTree rm ftz (if w = 64 then 6 else if w = 32 then 5 else 4) l

end Sys2Proof.Machine
end

