-- ==== Sys2Proof/Config.lean ====
section
/-! DEFINITION. What the implementation fixes, and the free values: constants without a body, of which nothing can be
proved. -/
namespace Sys2Proof

/-- The n-th free value (log 8): a word that the spec leaves open. It decides whether a cached line or a race stamp has been
evicted, and gives the values that the spec does not state. -/
opaque Config.freeWord : Nat → W64

/-- What an element of an accumulator bank holds when its team starts (log 13): a function of the team and the element. -/
opaque Config.bankStart : Nat → Nat → W32

/-- What a row scale (keys 0 to 63) or column scale (64 + 4096 x macro + column) is that no `mscale` has loaded (log 13): a function
of the team and the scale. -/
opaque Config.scaleStart : Nat → Nat → W32

/-- The bytes of the save area in a native image, of which the spec gives no layout (log 10): of the context with all that its saves wrote,
of its launches and of the running numbers. -/
opaque Config.saveBytes : Machine.Context → Machine.FMap Machine.Launch → Nat → List Byte

/-- The RSA signature that the device identity key makes over a usage report's hash (R308), not computed (log 9). -/
opaque Config.sign : List Byte → List Byte

/-- Whether a firmware image verifies against the key in fuses (R321), not computed (log 9). -/
opaque Config.verify : List Byte → Bool

/-- The device serial of a usage report (R308). -/
opaque Config.serial : BitVec 128

/-- The stepping id and the configuration, from which a compatibility key is made (R309). -/
opaque Config.identity : List Byte

/-- H, the halt constant of this stepping, in ticks (R101). -/
def Config.haltTicks : Nat := 1024

/-- The ticks reserved for the hub's commit (R100). -/
def Config.commitTicks : Nat := 2048

/-- Granules in a quarter's rename pool (R49). -/
def Config.poolGranules : Nat := 2048

end Sys2Proof
end

