-- ==== Sys2Proof/Machine/State.lean ====
section
/-! DEFINITION. The state of the device: everything that the spec gives the machine, as plain data, and the state after
reset. -/
namespace Sys2Proof.Machine

open Sys2Proof

/-- What the machine does next: the agent that the issue order chooses tries to issue, a step of the part takes place, the fetch of an
agent's next instruction takes some cycles, or time passes. The agenda is the model's own (log 1): the spec leaves the time of each event
to arbitration and to durations. -/
inductive Move where
  | issue (a : Agent)
  | event (i : Instr)
  | delay (a : Agent) (n : Nat)
  | tick (n : Nat)   -- cycles pass in which nothing happens
  deriving DecidableEq, Repr

/-- Where a step stops without a meaning in the spec. -/
inductive Fault where
  /-- A program instruction is run for an agent that does not exist: no group in the place, or no such thread. Raised by every
  program instruction; safe, since no such agent can issue. -/
  | noAgent
  deriving DecidableEq, Repr

/-- Why a step is refused. -/
inductive Refusal where
  /-- The instruction has no meaning in the model yet. Raised by arms of exec alone; safe. -/
  | notModelled (mnemonic : String)
  deriving DecidableEq, Repr

/-- The device. Sparse maps are keyed as follows. groups: 64 x core + 16 x QTR + SLOT. threads: 4 x core + thread.
teams, launches, ops: running numbers. clm: 393216 x core + core-absolute offset. banks: 65536 x core + 4096 x bank + 64 x row
+ column. macros: 16 x core + macro. bankBusy: 16 x core + bank. stamps, poison: line number of the physical address. -/
structure State where
  /-- Device time in arithmetic cycles (R3, R5). -/
  now : Nat := 0
  /-- The cycle after the last one in which an instruction has tried to issue (R106): the model's own. -/
  checked : Nat := 0
  /-- The agent that issues: the model's own. -/
  cur : Agent := .group 0 .pc0
  /-- The moves to come: the model's own. -/
  agenda : List Move := []
  /-- How many free values have been drawn: the model's own. -/
  free : Nat := 0
  /-- The next running number: the model's own. -/
  nextId : Nat := 1
  /-- HBM (R82), the frame ownership table within it (R276). -/
  mem : Mem := []
  /-- Poisoned lines (R349); true after the first refusal. -/
  poison : FMap Bool := []
  /-- Bytes of a poisoned line that one copy has written (R349), by line: the copy, and their mask. -/
  rewrites : FMap (Nat × W64) := []
  /-- Race stamps of L2 lines (R347). -/
  stamps : FMap Stamp := []
  /-- Epochs taken within the current tick (R347): the tick and the count. -/
  epochs : Nat × Nat := (0, 0)
  /-- The latest operations in the sc order (R90), by agent and scope. -/
  scMarks : List SyncMark := []
  /-- The latest releases at CLM locations (R89), by line: 6144 x core + line. -/
  marks : FMap (List SyncMark) := []
  /-- Lines of the L2 (R79, R80): 2^60 x slice + line of the physical address. -/
  l2 : FMap L2Line := []
  /-- Lines of the path caches (R76), those of a set from the most recently used on. -/
  caches : List CacheLine := []
  /-- Lines of the instruction caches (R116), keyed by core x 2^40 + line. -/
  icache : FMap (List Byte) := []
  /-- Partials of update-only lines (R97). -/
  partials : List Partial := []
  /-- Cached translations (R275). -/
  tlb : List TlbEntry := []
  /-- Core-local memory of all cores (R68). -/
  clm : Mem := []
  /-- Dirty CLM lines (R69): 6144 x core + line. -/
  dirty : List Nat := []
  /-- CLM lines restored from a save area that keeps its copy of them (R69): 6144 x core + line. -/
  copied : List Nat := []
  /-- Lost CLM lines and banks after a restore (R337): 6144 x core + line; 1000000 + 16 x core + bank. -/
  lost : List Nat := []
  /-- Accumulator banks (R259). -/
  banks : FMap W32 := []
  /-- Queued operations that still have to fill a bank; none: the bank is full (R222). -/
  bankBusy : FMap Nat := []
  /-- Compute-in-memory macros (R227). -/
  macros : FMap Macro := []
  /-- The panel shadow (R232): 6144 x core + line, with the bytes the panel read. -/
  shadow : FMap (List Byte) := []
  groups : FMap Group := []
  threads : FMap Thread := []
  cores : FMap Core := []
  teams : FMap Team := []
  launches : FMap Launch := []
  /-- The context table (R301). -/
  ctxs : FMap Context := []
  /-- The hardware launch queues (R261). -/
  queues : FMap Queue := []
  /-- The owners (R263, R307). -/
  owners : FMap Owner := []
  /-- Operations in flight, by issue order. -/
  ops : FMap Op := []
  compactions : List Compaction := []
  /-- The management unit, network interface and the rest of the hub. -/
  hub : Hub := {}
  deriving DecidableEq, Repr

/-- The device at reset: power is on and no step of the dawn sequence has run (R320). Fields without a reset value in the
spec hold the values that logs 3, 4 and 6 name. -/
def State.reset : State := {}

end Sys2Proof.Machine
end

