-- ==== Sys2Proof/Machine/Ops.lean ====
section
/-! DEFINITION. The named operations over agents and registers, the midnight record, taking a trap and returning from one
(R326 to R331), and the outcomes of a meaning. -/
namespace Sys2Proof.Machine

open Sys2Proof

/-- Why a meaning does not complete: a precise trap on the state before the instruction, or on a given state (a cause that was
held for it is delivered), a wait with the state that the wait leaves, a step of the part that does not take place now, a stop of the model. -/
inductive Stop where
  | trap (t : Trap)
  | trapAt (s : State) (t : Trap)
  | wait (s : State)
  | idle (why : String)
  | fault (f : Fault)
  deriving DecidableEq, Repr

/-- What a meaning computes. -/
abbrev Res (α : Type) := Except Stop α

/-- The outcome of a step. -/
abbrev Out := Host.Outcome State Fault Refusal

/-- Goes on only where `b` holds. -/
def need (b : Bool) (why : String) : Res Unit := if b then .ok () else .error (.idle why)

/-- The value of an option, or a step that does not take place. -/
def getSome {α : Type} (o : Option α) (why : String) : Res α :=
  match o with | some a => .ok a | none => .error (.idle why)

/-- The outcome of a step of the part that the agenda names in the state `s`. A step that cannot take place there does not take place, and
leaves the machine as it is (log 1). -/
def stepOut (s : State) (r : Res State) : Out :=
  match r with
  | .ok s' => .next s'
  | .error (.wait s') => .next s'
  | .error (.fault f) => .fault f
  | .error _ => .next s

/-- Management-unit time in ticks of 0.5 ns (R5): 2.4 GHz cycles (R3). -/
def State.ticks (s : State) : Nat := s.now * 5 / 6

/-- Draws the next free value. -/
def State.draw (s : State) : W64 × State := (Config.freeWord s.free, { s with free := s.free + 1 })

/-- Draws a free Boolean. -/
def State.drawBit (s : State) : Bool × State := ((Config.freeWord s.free).getLsbD 0, { s with free := s.free + 1 })

/-! Agents -/

/-- The core of an agent. -/
def Agent.core : Agent → Nat
  | .group g _ => g / 64
  | .thread t => t / 4

def State.group? (s : State) (g : Nat) : Option Group := FMap.find s.groups g
def State.thread? (s : State) (t : Nat) : Option Thread := FMap.find s.threads t
def State.core (s : State) (c : Nat) : Core := FMap.at {} s.cores c
def State.ctx? (s : State) (c : Nat) : Option Context := FMap.find s.ctxs c
def State.team? (s : State) (t : Nat) : Option Team := FMap.find s.teams t
def State.setGroup (s : State) (g : Nat) (v : Group) : State := { s with groups := FMap.put s.groups g v }
def State.setThread (s : State) (t : Nat) (v : Thread) : State := { s with threads := FMap.put s.threads t v }
def State.modGroup (s : State) (g : Nat) (f : Group → Group) : State := { s with groups := FMap.update s.groups g f }
def State.modThread (s : State) (t : Nat) (f : Thread → Thread) : State := { s with threads := FMap.update s.threads t f }
def State.modCore (s : State) (c : Nat) (f : Core → Core) : State := { s with cores := FMap.put s.cores c (f (s.core c)) }
def State.modCtx (s : State) (c : Nat) (f : Context → Context) : State := { s with ctxs := FMap.update s.ctxs c f }
def State.modTeam (s : State) (t : Nat) (f : Team → Team) : State := { s with teams := FMap.update s.teams t f }
def State.modLaunch (s : State) (l : Nat) (f : Launch → Launch) : State :=
  { s with launches := FMap.update s.launches l f }
def State.modOp (s : State) (o : Nat) (f : Op → Op) : State := { s with ops := FMap.update s.ops o f }
def State.modHub (s : State) (f : Hub → Hub) : State := { s with hub := f s.hub }
def State.modQueue (s : State) (q : Nat) (f : Queue → Queue) : State :=
  { s with queues := FMap.put s.queues q (f (FMap.at {} s.queues q)) }
def State.modOwner (s : State) (o : Nat) (f : Owner → Owner) : State :=
  { s with owners := FMap.put s.owners o (f (FMap.at {} s.owners o)) }

/-- CTX of a slice word (R304). -/
def sliceCtx (w : W64) : Nat := (bits w 40 12).toNat

/-- Adds to a usage counter of an owner (R307). -/
def State.addUsage (s : State) (owner idx n : Nat) : State :=
  s.modOwner owner (fun o => { o with usage := FMap.put o.usage idx (FMap.at 0 o.usage idx + BitVec.ofNat 64 n) })

/-- The owner of a context. -/
def State.ownerOf (s : State) (ctx : Nat) : Nat := ((s.ctx? ctx).map (fun (c : Context) => c.owner)).getD 0

/-- Registers an operation in flight and gives its number. -/
def State.addOp (s : State) (o : Op) : Nat × State :=
  (s.nextId, { s with ops := FMap.put s.ops s.nextId { o with issuedAt := s.now }, nextId := s.nextId + 1 })

/-- A slot of a group (R24, R326). -/
def Group.slotOf (g : Group) : SlotId → Slot
  | .pc0 => g.s0
  | .pc1 => g.s1
  | .handler => g.handler.slot

/-- `g` with a slot replaced. -/
def Group.setSlot (g : Group) (i : SlotId) (v : Slot) : Group :=
  match i with
  | .pc0 => { g with s0 := v }
  | .pc1 => { g with s1 := v }
  | .handler => { g with handler := { g.handler with slot := v } }

/-- Every slot of a group changed, those set aside on the stack too (R27). -/
def Group.mapSlots (g : Group) (f : Slot → Slot) : Group :=
  { g with s0 := f g.s0, s1 := f g.s1, handler := { g.handler with slot := f g.handler.slot },
           stack := g.stack.map (fun e => { e with held := e.held.map f }) }

/-- The slot an agent issues from. -/
def State.slot? (s : State) : Agent → Option Slot
  | .group g i => (s.group? g).map (·.slotOf i)
  | .thread t => (s.thread? t).map (·.slot)

/-- Changes the slot an agent issues from. -/
def State.modSlot (s : State) (a : Agent) (f : Slot → Slot) : State :=
  match a with
  | .group g i => s.modGroup g (fun gr => gr.setSlot i (f (gr.slotOf i)))
  | .thread t => s.modThread t (fun th => { th with slot := f th.slot })

/-- The counts and shadows of an agent (R146). -/
def State.agentState? (s : State) : Agent → Option AgentState
  | .group g _ => (s.group? g).map (·.agent)
  | .thread t => (s.thread? t).map (·.agent)

/-- Changes the counts and shadows of an agent. -/
def State.modAgent (s : State) (a : Agent) (f : AgentState → AgentState) : State :=
  match a with
  | .group g _ => s.modGroup g (fun gr => { gr with agent := f gr.agent })
  | .thread t => s.modThread t (fun th => { th with agent := f th.agent })

/-- Changes the counts of the agent with a number, in its place or in a context's save area; one that has ended has none. -/
def State.modAgentUid (s : State) (uid : Nat) (f : AgentState → AgentState) : State :=
  let one (ag : AgentState) : AgentState := if ag.uid == uid then f ag else ag
  let gs (m : FMap Group) : FMap Group := m.map (fun g => (g.1, { g.2 with agent := one g.2.agent }))
  let ts (m : FMap Thread) : FMap Thread := m.map (fun t => (t.1, { t.2 with agent := one t.2.agent }))
  { s with
    groups := gs s.groups
    threads := ts s.threads
    ctxs := s.ctxs.map (fun c => (c.1, { c.2 with image := c.2.image.map (fun (m : CoreImage) => { m with groups := gs m.groups, threads := ts m.threads }) })) }

/-- Every group, in its place or in a context's save area. -/
def State.allGroups (s : State) : FMap Group := s.groups ++ s.ctxs.flatMap (fun c => c.2.image.flatMap (fun (m : CoreImage) => m.groups))

/-- Every thread, in its place or in a context's save area. -/
def State.allThreads (s : State) : FMap Thread := s.threads ++ s.ctxs.flatMap (fun c => c.2.image.flatMap (fun (m : CoreImage) => m.threads))

/-- The context of an agent; 0, which no context has (R365), where the agent does not exist. -/
def State.ctxOf (s : State) : Agent → Nat
  | .group g _ => ((s.group? g).map (·.ctx)).getD 0
  | .thread t => ((s.thread? t).map (·.ctx)).getD 0

/-- The virtual cycle count of an agent of a resident context (R146). -/
def AgentState.vcyc (a : AgentState) (now : Nat) : W64 := BitVec.ofNat 64 (a.held + (now - a.start))

/-! Lanes -/

/-- The mask of all lanes of a width (R41). -/
def allLanes (w : Nat) : W64 := BitVec.ofNat 64 (2 ^ w - 1)

/-- The lanes of a mask below a width, ascending. -/
def lanesOf (w : Nat) (m : W64) : List Nat := (List.range w).filter (fun i => m.getLsbD i)

/-- The lowest lane of a mask. -/
def lowest (w : Nat) (m : W64) : Option Nat := (lanesOf w m).head?

/-- The mask of a list of lanes. -/
def maskOf (ls : List Nat) : W64 := ls.foldl (fun m i => m ||| (1#64 <<< i)) 0

/-- A mask with the bits of the lanes in `m` taken from `v` (R153). -/
abbrev mergeMask (old m v : W64) : W64 := (old &&& ~~~m) ||| (v &&& m)

/-! The register space -/

/-- A row of a group; a row not listed is unbacked and full (R10, R45). -/
def Group.row (g : Group) (n : Nat) : Row := FMap.at {} g.rows n

def Group.setRow (g : Group) (n : Nat) (r : Row) : Group := { g with rows := FMap.put g.rows n r }

/-- One lane of a row: an unbacked row reads as zero (R48), a spilled one holds its value in its copy (R50). -/
def Row.lane (r : Row) (l : Nat) : W32 := if r.backed || r.spilled then r.data.getD l 0 else 0

/-- A row with the listed lanes written (R46): it is backed, and an unbacked row reads as zero in the other lanes. -/
def Row.write (r : Row) (w now : Nat) (vals : FMap W32) : Row :=
  { r with backed := true, spilled := false, inBuffer := false, lost := false, refilling := false, written := now,
           data := (List.range w).map (fun l => (FMap.find vals l).getD (r.lane l)) }

/-- The q register n (R41). -/
def Group.q (g : Group) (n : Nat) : Cell64 := FMap.at {} g.qs n
def Group.setQ (g : Group) (n : Nat) (c : Cell64) : Group := { g with qs := FMap.put g.qs n c }
/-- The mask register n from 1 (R41). -/
def Group.m (g : Group) (n : Nat) : Cell64 := FMap.at {} g.ms n
/-- Writes a mask register: bits at and above the width stay zero, and m0 is never written (R41). -/
def Group.setM (g : Group) (n : Nat) (c : Cell64) : Group :=
  if n = 0 then g else { g with ms := FMap.put g.ms n { c with val := c.val &&& allLanes g.width } }
/-- The x register n (R44). -/
def Thread.x (t : Thread) (n : Nat) : Cell64 := FMap.at {} t.xs n
def Thread.setX (t : Thread) (n : Nat) (c : Cell64) : Thread := { t with xs := FMap.put t.xs n c }

/-- The team that holds a bank of a core, by its number; 0 where none does. -/
def State.bankTeam (s : State) (core bank : Nat) : Nat :=
  ((s.teams.find? (fun t => t.2.core == core && t.2.bank0 ≤ bank && bank < t.2.bank0 + t.2.nbanks)).map Prod.fst).getD 0

/-- Element (i, n) of a core's accumulator bank (R259). What a bank holds when its team starts is not stated: an element that the
team has not written is a free value of the team's (log 13). -/
def State.bankElem (s : State) (core bank i n : Nat) : W32 :=
  let k := 65536 * core + 4096 * bank + 64 * i + n
  match FMap.find s.banks k with
  | some v => v
  | none => Config.bankStart (s.bankTeam core bank) k

/-- Writes an element of a bank. -/
def State.setBankElem (s : State) (core bank i n : Nat) (v : W32) : State :=
  { s with banks := FMap.put s.banks (65536 * core + 4096 * bank + 64 * i + n) v }

/-- Whether a bank is full (R222): no queued operation still has to fill it. -/
def State.bankFull (s : State) (core bank : Nat) : Bool := FMap.at 0 s.bankBusy (16 * core + bank) == 0

/-- What a register name reads in one lane (R38, R40, R57): the raw bits, zero above the field. `slotMask` is m0. -/
def State.readGroupReg (s : State) (gi : Nat) (g : Group) (slotMask : W64) (r : Reg) (l : Nat) : W64 :=
  match r with
  | .vec n .word => ((g.row n).lane l).setWidth 64
  | .vec n .pair => ((g.row (n + 1)).lane l) ++ ((g.row n).lane l)
  | .vec n (.half hi) => (bits ((g.row n).lane l) (if hi then 16 else 0) 16).setWidth 64
  | .vec n (.byte b) => (bits ((g.row n).lane l) (8 * b) 8).setWidth 64
  | .q n => (g.q n).val
  | .mask n => if n = 0 then slotMask else (g.m n).val
  | .acc bank col off =>
    match s.team? g.team with
    | some t => (s.bankElem (gi / 64) (t.bank0 + bank) ((off + l) % 64) col).setWidth 64
    | none => 0
  | .x _ => 0

/-- The lane word of a row after a write through a name (R57): a narrow view changes its field alone. -/
def partWord (p : Part) (old : W32) (v : W64) : W32 :=
  match p with
  | .half true => (v.setWidth 16) ++ (bits old 0 16)
  | .half false => (bits old 16 16) ++ (v.setWidth 16)
  | .byte n =>
    let sh := 8 * n
    (old &&& ~~~(0xFF#32 <<< sh)) ||| ((v.setWidth 8).setWidth 32 <<< sh)
  | _ => v.setWidth 32

/-- Writes lane values through a vector name (R46, R57); `ready` is the ready cycle (R54), kept where none is given. -/
def Group.writeVec (g : Group) (n : Nat) (p : Part) (now : Nat) (ready : Option Nat) (vals : FMap W64) : Group :=
  let put (g : Group) (k : Nat) (f : W32 → W64 → W32) : Group :=
    let r := g.row k
    let r' := r.write g.width now (vals.map (fun lv => (lv.1, f (r.lane lv.1) lv.2)))
    g.setRow k { r' with ready := ready.getD r.ready }
  match p with
  | .pair => put (put g n (fun _ v => v.setWidth 32)) (n + 1) (fun _ v => bits v 32 32)
  | _ => put g n (partWord p)

/-- The registers, each with one full/empty bit, that a name covers (R51). -/
inductive Unit1 where
  | row (n : Nat) | q (n : Nat) | m (n : Nat) | x (n : Nat) | bank (b : Nat)
  deriving DecidableEq, Repr

/-- The units that a register name covers; m0 has no full/empty bit and no ready cycle. -/
def Reg.units : Reg → List Unit1
  | .vec n .pair => [.row n, .row (n + 1)]
  | .vec n _ => [.row n]
  | .q n => [.q n]
  | .x n => [.x n]
  | .mask n => if n = 0 then [] else [.m n]
  | .acc b _ _ => [.bank b]

/-- Whether a unit is full, for a group. -/
def State.unitFull (s : State) (gi : Nat) (g : Group) : Unit1 → Bool
  | .row n => (g.row n).full
  | .q n => (g.q n).full
  | .m n => (g.m n).full
  | .x _ => true
  | .bank b => match s.team? g.team with | some t => s.bankFull (gi / 64) (t.bank0 + b) | none => true

/-- The ready cycle of a unit (R54). -/
def Group.unitReady (g : Group) : Unit1 → Nat
  | .row n => (g.row n).ready
  | .q n => (g.q n).ready
  | .m n => (g.m n).ready
  | _ => 0

/-- Sets the full/empty bit of a unit. -/
def Group.setFull (g : Group) (full : Bool) : Unit1 → Group
  | .row n => g.setRow n { g.row n with full }
  | .q n => g.setQ n { g.q n with full }
  | .m n => { g with ms := FMap.put g.ms n { g.m n with full } }
  | _ => g

/-- The DETAIL of a register (R330): KIND in [9:8], number in [7:0]. -/
def Unit1.detail : Unit1 → W64
  | .row n => BitVec.ofNat 64 n
  | .q n => BitVec.ofNat 64 (0x100 + n)
  | .m n => BitVec.ofNat 64 (0x200 + n)
  | .x n => BitVec.ofNat 64 (0x300 + n)
  | .bank n => BitVec.ofNat 64 n

/-- Rows that a group holds backed (R45). -/
def Group.backedRows (g : Group) : Nat := ((FMap.vals g.rows).filter (·.backed)).length

/-- Granules of the group's rows that count in the save term (R101): backed rows, and spilled rows still in the write buffer. -/
def Group.savedGranules (g : Group) : Nat :=
  ((FMap.vals g.rows).filter (fun r => r.backed || (r.spilled && r.inBuffer))).length * (g.width / 16)

/-- The effective floor in granules (R49). -/
def Group.effFloor (g : Group) : Nat := max g.floor (2 * g.width)

/-- The borrowing of a group (R49). -/
def Group.borrow (g : Group) : Nat := g.backedRows * (g.width / 16) - g.effFloor

/-- Releases a row (R46): it is unbacked and full. -/
def Group.release (g : Group) (n : Nat) : Group :=
  let r := g.row n
  if r.backed || r.spilled then { g with rows := FMap.del g.rows n } else g

/-! The midnight record -/

/-- Writes an event to the midnight record and advances MNHEAD (R370). -/
def State.midnight (s : State) (ty ctx core sev : Nat) (p0 p1 : W64) : State :=
  let h := s.hub
  let w0 := BitVec.ofNat 8 ty ++ BitVec.ofNat 12 ctx ++ BitVec.ofNat 8 core ++ BitVec.ofNat 4 sev ++ BitVec.ofNat 32 h.mnhead
  let e : MidnightEvent := { w0, time := BitVec.ofNat 64 s.ticks, p0, p1 }
  { s with hub := { h with midnight := FMap.put h.midnight (h.mnhead % 4096) e, mnhead := h.mnhead + 1 } }

/-! Traps -/

/-- Cause codes (R330, R333, R340, R350, R353, R354, R143, R251). -/
def Cause.code : Cause → Nat
  | .illegal => 0x01 | .sched => 0x02 | .fempty => 0x03 | .relrd => 0x04 | .divstk => 0x05 | .vbound => 0x06
  | .page => 0x07 | .prot => 0x08 | .owner => 0x09 | .align => 0x0A | .race => 0x0B | .dataerr => 0x0C
  | .rfault => 0x0D | .mform => 0x0E | .copyerr => 0x0F | .window => 0x10 | .swtrap => 0x11 | .brk => 0x12

/-- KIND of an access in a memory DETAIL (R341). -/
def AccKind.code : AccKind → Nat
  | .load => 0 | .store => 1 | .atomic => 2 | .fetch => 3 | .engRead => 4 | .engWrite => 5 | .regionFill => 6
  | .regionBack => 7

/-- Word 5 of the record of a memory cause (R341). -/
def memDetail (eng : Bool) (kind : AccKind) (engine reason : Nat) (origin : W32) : W64 :=
  BitVec.ofBool eng ++ BitVec.ofNat 3 kind.code ++ BitVec.ofNat 3 engine ++ BitVec.ofNat 5 reason ++ (0 : BitVec 20) ++ origin

/-- A precise trap decided lane by lane. -/
def Trap.mem (c : Cause) (addr : W64) (lanes : W64) (kind : AccKind) (reason : Nat) : Trap :=
  { cause := c, addr, lanes := some lanes, detail := memDetail false kind 0 reason 0 }

/-- An ILLEGAL with its check code (R330). -/
def Trap.illegal (check : Nat) : Trap := { cause := .illegal, detail := BitVec.ofNat 64 check }

/-- A PC as a word offset from ENTRY (R328). -/
def poffOf (entry pc : W64) : W32 := ((pc - entry).sshiftRight 2).setWidth 32

/-- Word 0 of a fault record (R328). -/
def recordWord0 (ctx core qtr slot : Nat) (seq : Bool) (thread : Nat) (pslot nest esc launch : Bool) (cause : Nat) : W64 :=
  BitVec.ofNat 12 ctx ++ BitVec.ofNat 8 core ++ BitVec.ofNat 2 qtr ++ BitVec.ofNat 4 slot ++ BitVec.ofBool seq ++
  BitVec.ofNat 2 thread ++ BitVec.ofBool pslot ++ BitVec.ofBool nest ++ BitVec.ofBool esc ++ BitVec.ofBool launch ++
  (0 : BitVec 23) ++ BitVec.ofNat 8 cause

/-- The fault record of a trap (R328): of a group's slot, or of a sequencer thread, whose PC, mask and fmt are given. A thread
has no lanes (R118). -/
def mkRecord (s : State) (a : Agent) (sl : Slot) (entry : W64) (ag : AgentState) (nestIn : Option SlotId) (t : Trap) :
    FaultRecord :=
  let w0 := match a with
    | .group g i =>
      let p := match nestIn with | some j => j == .pc1 | none => i == .pc1
      recordWord0 (s.ctxOf a) (g / 64) (g / 16 % 4) (g % 16) false 0 p nestIn.isSome false false t.cause.code
    | .thread th => recordWord0 (s.ctxOf a) (th / 4) 0 0 true (th % 4) false false false false t.cause.code
  let seq := match a with | .thread _ => true | _ => false
  { w0, addr := t.addr, w2 := ag.ord ++ (0 : BitVec 16) ++ poffOf entry sl.pc,
    flanes := if seq then 0 else t.lanes.getD sl.mask, pmask := if seq then 0 else sl.mask, detail := t.detail, w6 := t.ipoff ++ sl.fmt, time := ag.vcyc s.now }

/-- The place of a cause in the order in which the causes of one instruction are reported (R327, R340). -/
def Cause.rank : Cause → Nat
  | .illegal => 0 | .sched => 1 | .relrd => 2 | .fempty => 3 | .divstk => 4 | .vbound => 5 | .align => 6 | .page => 7 | .prot => 8
  | .owner => 9 | .window => 10 | .race => 11 | .dataerr => 12 | _ => 13

/-- Sets ESC in a record (R331). -/
def FaultRecord.escalated (r : FaultRecord) : FaultRecord := { r with w0 := r.w0 ||| (1#64 <<< 32) }

/-- The context field of a record. -/
def FaultRecord.ctx (r : FaultRecord) : Nat := (bits r.w0 52 12).toNat

/-- Puts a record into a context's fault queue (R331). -/
def State.postRecord (s : State) (ctx : Nat) (r : FaultRecord) (who : RecordOwner) : State :=
  s.modCtx ctx (fun c => { c with faults := c.faults ++ [{ record := r, who }] })

/-- Posts a record to its context's fault queue and writes the event (R331). -/
def State.post (s : State) (ctx : Nat) (r : FaultRecord) (who : RecordOwner) : State :=
  let r := r.escalated
  let s := s.postRecord ctx r who
  s.midnight 0x02 ctx (bits r.w0 44 8).toNat 2 r.w0 r.addr

/-- Changes the trapped path with a number, in its slot or set aside on the stack. -/
def Group.modTok (g : Group) (tok : Nat) (f : Slot → Slot) : Group :=
  let on (sl : Slot) : Slot := if sl.status == .trapped && sl.tok == tok then f sl else sl
  { g with s0 := on g.s0, s1 := on g.s1, stack := g.stack.map (fun e => { e with held := e.held.map on }) }

/-- The trapped path with a number. -/
def Group.tokSlot (g : Group) (tok : Nat) : Option Slot :=
  (g.s0 :: g.s1 :: g.stack.filterMap (fun (e : StackEntry) => e.held)).find? (fun sl => sl.status == .trapped && sl.tok == tok)

/-- Escalates the record of a trapped path (R331): it stays trapped until the driver answers. -/
def State.escalateTok (s : State) (g tok ctx : Nat) (r : FaultRecord) (eng : Option Nat) : State :=
  let s := s.modGroup g (fun gr => gr.modTok tok (fun sl => { sl with escalated := true }))
  s.post ctx r (match eng with | some o => .engine g tok o | none => .slot g tok)

/-- The context's HANDLER word (R271). -/
def State.handlerOf (s : State) (ctx : Nat) : W64 := ((s.ctx? ctx).map (·.handler)).getD 0

/-- The handler slot that serves a trap: live at HANDLER with fmt 0 from the next cycle on (R326). -/
def Pending.handler (p : Pending) (pc : W64) (last now : Nat) : Handler :=
  { slot := { status := .live, pc, mask := p.mask, lastIssue := last, notBefore := now + 1 },
    serves := p.slot, tok := p.tok, record := p.record, eng := p.eng, cycle := p.cycle }

/-- The handler slot becomes live at HANDLER (R326). -/
def State.enterHandler (s : State) (g : Nat) (p : Pending) : State :=
  s.modGroup g (fun gr => { gr with handler := p.handler (s.handlerOf gr.ctx) gr.handler.slot.lastIssue s.now })

/-- The trap that the handler serves, as a pending one. -/
def Handler.asPending (h : Handler) : Pending :=
  { slot := h.serves, tok := h.tok, record := h.record, mask := h.slot.mask, eng := h.eng, cycle := h.cycle }

/-- Whether a trap goes before another one (R327): it is of the same cycle, and of PC slot 0 where the other is of PC slot 1. -/
def Pending.before (p q : Pending) : Bool := p.cycle == q.cycle && p.slot == .pc0 && q.slot == .pc1

/-- A trap takes its place among the waiting ones (R327). -/
def insertPending (p : Pending) : List Pending → List Pending
  | [] => [p]
  | q :: rest => if p.before q then p :: q :: rest else q :: insertPending p rest

/-- A trap waits for the handler slot (R327). Where the handler has just become live for a trap of the same cycle that goes after it, the
handler serves this one first. -/
def Group.addPending (g : Group) (p : Pending) (pc : W64) : Group :=
  if g.handler.slot.status == .live && p.before g.handler.asPending then
    { g with handler := p.handler pc g.handler.slot.lastIssue p.cycle, pending := g.handler.asPending :: g.pending }
  else { g with pending := insertPending p g.pending }

/-- Enters the first pending trap of a group whose handler slot is free (R327). -/
def State.enterPending (s : State) (g : Nat) : State :=
  match s.group? g with
  | some gr =>
    match gr.handler.slot.status, gr.pending with
    | .free, p :: rest => (s.modGroup g (fun gr => { gr with pending := rest })).enterHandler g p
    | _, _ => s
  | none => s

/-- TAKING A TRAP (R326, R327, R331). The trapped instruction has no effect; its slot is trapped and holds its PC, mask and
fmt. With no HANDLER the trap is escalated; with a handler running it waits; otherwise the handler slot becomes live. A trap in
the handler slot is escalated with NEST and the interrupted path's record with it. A sequencer thread's trap is escalated. -/
def State.takeTrap (s : State) (a : Agent) (t : Trap) (eng : Option Nat := none) : State :=
  match a with
  | .thread n =>
    match s.thread? n with
    | none => s
    | some th =>
      let r := mkRecord s a th.slot th.entry th.agent none t
      let s := s.modThread n (fun th =>
        { th with record := r.escalated, slot := { th.slot with status := .trapped, before := th.slot.status, escalated := true, stall := none } })
      s.post th.ctx r (.thread n)
  | .group g .handler =>
    match s.group? g with
    | none => s
    | some gr =>
      let r := mkRecord s a gr.handler.slot gr.entry gr.agent (some gr.handler.serves) t
      let s := s.modGroup g (fun gr =>
        { gr with handler := { gr.handler with stopped := true, record := gr.handler.record.escalated, slot := { gr.handler.slot with status := .trapped, before := .live, stall := none } } })
      let s := s.post gr.ctx r (.nested g)
      s.escalateTok g gr.handler.tok gr.ctx gr.handler.record gr.handler.eng
  | .group g i =>
    match s.group? g with
    | none => s
    | some gr =>
      let sl := gr.slotOf i
      let r := mkRecord s a sl gr.entry gr.agent none t
      let again : Bool := sl.status == .trapped
      let tok : Nat := if again then sl.tok else s.nextId
      let s : State := { s with nextId := if again then s.nextId else s.nextId + 1 }
      let s := s.modSlot a (fun sl =>
        { sl with status := .trapped, before := if again then sl.before else sl.status, tok,
                  owed := if again then sl.owed + 1 else 1, stall := none })
      if s.handlerOf gr.ctx == 0 then s.escalateTok g tok gr.ctx r eng
      else
        let p : Pending := { slot := i, tok, record := r, mask := if eng.isSome then sl.mask else t.lanes.getD sl.mask, eng, cycle := s.now }
        (s.modGroup g (fun gr => gr.addPending p (s.handlerOf gr.ctx))).enterPending g

/-- One of a trapped path's records is answered; after the last of them it goes back to what it was, at its trapped instruction
(R326, R343). -/
def Slot.resume (sl : Slot) : Slot :=
  if sl.owed ≤ 1 then { sl with status := sl.before, escalated := false, owed := 0, tok := 0 } else { sl with owed := sl.owed - 1 }

/-- Resumes the trapped path with a number, its PC moved on by some words. -/
def State.resumeTok (s : State) (g tok words : Nat) : State :=
  s.modGroup g (fun gr => gr.modTok tok (fun sl => { sl.resume with pc := sl.pc + BitVec.ofNat 64 (4 * words) }))

/-- The bytes set in a mask. -/
def maskBytes (m : W64) : Nat := (lanesOf 64 m).length

/-- Dirty bytes of a list of lines with their addresses and masks (R206). -/
def dirtyBytes (ls : List (Nat × W64 × W64)) : Nat := ls.foldl (fun n l => n + maskBytes l.2.2) 0

/-- The charge of the work that a parked or resumed operation has left (R102, R344). -/
def OpKind.workLeft : OpKind → Nat
  | .copy x _ _ => 32 + (x.size - x.landed + 63) / 64
  | .entry _ _ x _ _ _ => 32 + (x.size - x.landed + 63) / 64
  | .gather _ _ _ _ addrs got => 32 + (addrs.length - got.length)
  | .scatter _ _ addrs _ n => 32 + (addrs.length - n)
  | .writeBack _ _ lines _ => 32 + (dirtyBytes lines + 63) / 64
  | .remote _ _ _ _ _ _ _ _ _ => 2048
  | .coll _ _ b => 2048 + (b.header.bytes + 31) / 32
  | _ => 32

/-- Whether an operation waits for a reply alone, so that nothing of it is retried (R336). -/
def OpKind.awaitsReply : OpKind → Bool
  | .remote _ _ _ _ _ _ _ _ _ => true
  | .coll _ _ _ => true
  | _ => false

/-- A parked operation is let go on from its progress (R344): its charge returns once that passes the check (R105). A remote part or
collective only awaits its reply, under the charge that it has (R336). -/
def State.unpark (s : State) (o : Nat) : State :=
  s.modOp o (fun op => { op with parked := none, resuming := match op.parked with | some p => !(p.quiet && op.kind.awaitsReply) | none => false })

/-- Whether the arithmetic clock of a core's die is stopped (R368): cores 0 to 79 are on die 0, N, the others on die 1, S. -/
def State.clockStopped (s : State) (core : Nat) : Bool := s.hub.stopped.contains (core / 80)

/-- RETURNING FROM A TRAP (R144, R326, R344): ends the running handler of a group. Replay resumes the path at its trapped
instruction, skip after it, escalate leaves it trapped and posts its record. Then the next pending trap is entered (R327). -/
def State.trapReturn (s : State) (g kind : Nat) : State :=
  match s.group? g with
  | none => s
  | some gr =>
    let h := gr.handler
    let s1 := s.modGroup g (fun gr => { gr with handler := { slot := { lastIssue := gr.handler.slot.lastIssue } } })
    let s2 := match kind, h.eng with
      | 0, none => s1.resumeTok g h.tok 0
      | 0, some o => (s1.resumeTok g h.tok 0).unpark o
      | 1, none =>
        let n := ((gr.tokSlot h.tok).map (fun (sl : Slot) => sl.tlen)).getD 1
        if n = 0 then
          let (v, s1) := s1.draw
          s1.resumeTok g h.tok (if v.toNat % 3 = 0 then 1 else if v.toNat % 3 = 1 then 3 else 5)
        else s1.resumeTok g h.tok n
      | 1, some o => (s1.resumeTok g h.tok 0).post gr.ctx h.record (.engine g 0 o)
      | _, e => s1.escalateTok g h.tok gr.ctx h.record e
    s2.enterPending g

end Sys2Proof.Machine
end

