-- ==== Sys2Proof/Machine/Memory.lean ====
section
/-! DEFINITION. Global memory: the frame ownership check (R276, R277), translation (R271 to R275), the path caches (R76 to R78),
update-only reductions (R97), race detection (R347, R348), and the bytes of HBM. -/
namespace Sys2Proof.Machine

open Sys2Proof

/-- The ownership entry of a frame (R276); physical addresses above HBM have none. -/
def State.frameWord (s : State) (f : Nat) : Nat :=
  if f < 2 ^ 23 then Mem.readNat s.mem (0x7FFF000000 + 2 * f) 2 else 0

/-- Writes the ownership entry of a frame. -/
def State.setFrameWord (s : State) (f v : Nat) : State := { s with mem := Mem.writeNat s.mem (0x7FFF000000 + 2 * f) 2 v }

/-- Whether a frame can be given away (R82, R276): one of HBM outside the ownership table, which no context owns. -/
def frameGiven (f : Nat) : Bool := f < 0x7FFF00

/-- A frame's bytes become zero (R248, R311): what caches and the L2 hold of it is dropped without write-back. -/
def State.zeroFrame (s : State) (f : Nat) : State :=
  { s with
    mem := Mem.clear s.mem (65536 * f) 65536
    poison := s.poison.filter (fun (p : Nat × Bool) => p.1 / 1024 != f)
    rewrites := s.rewrites.filter (fun p => p.1 / 1024 != f)
    partials := s.partials.filter (fun (p : Partial) => p.addr / 65536 != f)
    stamps := s.stamps.filter (fun (p : Nat × Stamp) => p.1 / 1024 != f)
    l2 := s.l2.filter (fun (l : Nat × L2Line) => l.1 % 2 ^ 60 / 1024 != f)
    caches := s.caches.filter (fun (l : CacheLine) => l.line / 1024 != f)
    icache := s.icache.filter (fun (l : Nat × List Byte) => l.1 % 2 ^ 40 / 1024 != f) }

/-- The check of R277 on an ownership entry. -/
def framePasses (s : State) (ctx e : Nat) (write : Bool) : Bool :=
  let shared := e / 0x4000 % 2 == 1
  let ro := e / 0x2000 % 2 == 1
  decide (0x8000 ≤ e) && !(write && ro) &&
  (if shared then (match s.ctx? ctx with | some c => c.sharemask.getLsbD (e % 16) | none => false)
   else e % 0x1000 == ctx && ctx != 0)

/-- Whether an access of a context to a physical address passes the home check now (R277). -/
def State.homePasses (s : State) (ctx pa : Nat) (write : Bool) : Bool := framePasses s ctx (s.frameWord (pa / 65536)) write

/-- The new value of an atomic operation (R200): `op` is the SUB of `atom`. -/
def atomNew (op ty : Nat) (old b c : Nat) : Nat :=
  let n := if ty = 1 || ty = 4 || ty = 5 || ty = 7 then 64 else 32
  let m := 2 ^ n
  let (old, b, c) := (old % m, b % m, c % m)
  let sg (x : Nat) : Int := if (ty = 2 || ty = 4) && m / 2 ≤ x then (x : Int) - m else x
  match op with
  | 0 => (old + b) % m
  | 1 => if sg b < sg old then b else old
  | 2 => if sg old < sg b then b else old
  | 3 => old &&& b
  | 4 => old ||| b
  | 5 => old ^^^ b
  | 6 => b
  | 7 => if old = c then b else old
  | 8 => if b ≤ old then 0 else old + 1
  | 9 => if old = 0 || b < old then b else old - 1
  | _ => rneAdd old b

/-- The bytes of an atomic operation's location. -/
def atomSize (ty : Nat) : Nat := if ty = 1 || ty = 4 || ty = 5 || ty = 7 then 8 else 4

/-- The TY code of an element type. -/
def ElemTy.code : ElemTy → Nat
  | .b32 => 0 | .b64 => 1 | .i32 => 2 | .n32 => 3 | .i64 => 4 | .n64 => 5 | .f32 => 6 | .f64 => 7 | .f16 => 8 | .bf16 => 9
  | .i16 => 10 | .n16 => 11 | .i8 => 12 | .n8 => 13 | .rna => 14 | .rnb => 15 | .i4 => 16 | .i2 => 17 | .b1 => 18

/-- The element type of a TY code. -/
def tyOf (n : Nat) : ElemTy :=
  match n with
  | 0 => .b32 | 1 => .b64 | 2 => .i32 | 3 => .n32 | 4 => .i64 | 5 => .n64 | 6 => .f32 | 7 => .f64 | 8 => .f16 | 9 => .bf16
  | 10 => .i16 | 11 => .n16 | 12 => .i8 | 13 => .n8 | 14 => .rna | 15 => .rnb | 16 => .i4 | 17 => .i2 | _ => .b1

/-- Bytes of a memory access of a type (R193). -/
def tySize (ty : Nat) : Nat := tyBits ty / 8

/-- A value read at a type, extended to 64 bits (R57, R155): sign-extended for i types, zero-extended otherwise. R155 names the i, n and b
types alone: that an f32, f16 or bf16 result of `mov`, `sel` or `cvt` extends with zeros into a 64-bit register is the model's choice
(DESIGN CHOICE, log 108). -/
def extendTy (ty : Nat) (v : Nat) : W64 :=
  let n := tyBits ty
  let v := v % 2 ^ n
  if (ty = 2 || ty = 4 || ty = 10 || ty = 12) && 2 ^ (n - 1) ≤ v then BitVec.ofInt 64 ((v : Int) - 2 ^ n) else BitVec.ofNat 64 v

/-! The L2 (R79 to R81) -/

/-- The HBM channel of a physical address (R79). -/
def channelOf (pa : Nat) : Nat := (pa / 2 ^ 8 % 256) ^^^ (pa / 2 ^ 16 % 256) ^^^ (pa / 2 ^ 24 % 256) ^^^ (pa / 2 ^ 32 % 128)

/-- The L2 slice in front of the channel of a physical address (R79). -/
def sliceOf (pa : Nat) : Nat := channelOf pa / 2

/-- The home slice of a physical address for a context (R80): by the context's slice list in partitioned mode. -/
def State.homeSlice (s : State) (ctx pa : Nat) : Nat :=
  let list := ((s.ctx? ctx).map (fun (c : Context) => c.slices)).getD []
  if s.hub.l2mode == .partitioned then list.getD (channelOf pa % list.length) (sliceOf pa) else sliceOf pa

/-- Sets of a slice of 1 MiB with 16 ways (R79). The spec does not say which set a line is in: the model takes its low bits (DESIGN
CHOICE, log 86). -/
def l2Sets : Nat := 1024

/-- A line's stamp is lost (R348). REPOCH is kept, so that no program that is race-free takes RACE for its loss (R92, log 86). -/
def State.unstamp (s : State) (line : Nat) : State :=
  match FMap.find s.stamps line with
  | some st => { s with stamps := if st.repoch = 0 then FMap.del s.stamps line else FMap.put s.stamps line { repoch := st.repoch } }
  | none => s

/-- The key of a line in a slice of the L2. -/
def l2Key (slice line : Nat) : Nat := 2 ^ 60 * slice + line

/-- A line leaves a slice (R348): where it is dirty it is written back to HBM, which its context's owner is charged for (R307); its stamp is
lost where no other slice holds the line. -/
def State.l2Evict (s : State) (key : Nat) : State :=
  let s := match FMap.find s.l2 key with
    | some x => if x.dirty then s.addUsage (s.ownerOf x.ctx) 2 64 else s
    | none => s
  let s := { s with l2 := FMap.del s.l2 key }
  if s.l2.any (fun x => x.1 % 2 ^ 60 == key % 2 ^ 60) then s else s.unstamp (key % 2 ^ 60)

/-- A line leaves every slice that holds it, and its stamp is lost. -/
def State.l2EvictLine (s : State) (line : Nat) : State :=
  (((s.l2.filter (fun x => x.1 % 2 ^ 60 == line)).map Prod.fst).foldl State.l2Evict s).unstamp line

/-- An access finds its line in its home slice or brings it there from HBM (R79, R80, R307): in partitioned mode the slices of two contexts
may both hold a line of a shared frame. In a full set a free value says which line makes room. -/
def State.l2Touch (s : State) (ctx pa : Nat) (write : Bool) : State :=
  let slice := s.homeSlice ctx pa
  let key := l2Key slice (pa / 64)
  match FMap.find s.l2 key with
  | some x => if write then { s with l2 := FMap.put s.l2 key { x with dirty := true, ctx } } else s
  | none =>
    let set := s.l2.filter (fun x => x.1 / 2 ^ 60 == slice && x.1 % l2Sets == key % l2Sets)
    let s := if set.length < 16 then s
      else let (v, s) := s.draw; s.l2Evict ((set.map Prod.fst).getD (v.toNat % set.length) 0)
    { s with l2 := FMap.put s.l2 key { dirty := write, ctx } }.addUsage (s.ownerOf ctx) 2 64

/-- The event of a refusal by the home check (R340, R370). -/
def State.ownerEvent (s : State) (ctx pa : Nat) : State :=
  s.midnight 0x07 0 0xFF 2 (BitVec.ofNat 64 (pa / 65536)) (BitVec.ofNat 64 ctx)

/-- The home refuses a partial: each `red` that it gathers gets the cause, at its own address (R342). -/
def State.refusePartial (s : State) (p : Partial) (c : Cause) (reason : Nat) : State :=
  p.sources.foldl (fun s x => s.modAgentUid x.uid (fun ag => { ag with late := ag.late ++
    [{ cause := c, addr := x.va, lanes := x.lanes, detail := memDetail false .atomic 0 reason x.poff, dsts := [] }] })) s

/-- A partial reaches its home slice (R97, R277, R349): it is combined into the home's value, or refused with OWNER or DATAERR. -/
def State.combine (s : State) (p : Partial) : State :=
  if !s.homePasses p.ctx p.addr true then (s.ownerEvent p.ctx p.addr).refusePartial p .owner 2
  else match FMap.find s.poison (p.addr / 64) with
  | some seen => { s with poison := FMap.put s.poison (p.addr / 64) true }.refusePartial p .dataerr (if seen then 2 else 1)
  | none =>
    let n := atomSize p.ty.code
    { s with mem := Mem.writeNat s.mem p.addr n (atomNew (if p.op = 6 then 10 else p.op) p.ty.code (Mem.readNat s.mem p.addr n) p.val.toNat 0) }.l2Touch
      p.ctx p.addr true

/-- Combines the partials of one line into the home's value, in ascending core index (R97), for the cores that `which`
picks. -/
def State.recall (s : State) (line : Nat) (which : Nat → Bool := fun _ => true) : State :=
  let mine := s.partials.filter (fun p => p.addr / 64 == line && which p.core)
  if mine.isEmpty then s
  else
    let sorted := (List.range 160).flatMap (fun c => mine.filter (·.core == c))
    sorted.foldl State.combine { s with partials := s.partials.filter (fun p => !(p.addr / 64 == line && which p.core)) }

/-- Lines of the L2 are written back and leave it (R80, R81, R100): their partials are combined first, and their stamps are lost. -/
def State.l2Flush (s : State) (which : Nat → Nat → Bool) : State :=
  let s := (s.partials.filter (fun p => which (p.addr / 64) (s.homeSlice p.ctx p.addr))).foldl (fun (s : State) p => s.recall (p.addr / 64)) s
  let gone := (s.l2.filter (fun x => which (x.1 % 2 ^ 60) (x.1 / 2 ^ 60))).map Prod.fst
  gone.foldl State.l2Evict s

/-- A 64-bit word read by the walker through the L2 at a physical address (R273, R277): none where the read is refused. -/
def State.walkerRead (s : State) (ctx pa : Nat) : State × Option W64 :=
  if !s.homePasses ctx pa false then (s, none)
  else
    let s := s.recall (pa / 64)
    if (FMap.find s.poison (pa / 64)).isSome then (s, none)
    else
      let s := s.l2Touch ctx pa false
      (s, some (Mem.read64 s.mem pa))

/-- A page that the walker found: its first virtual and physical address, its size, its permissions. -/
structure Page where
  va : Nat
  pa : Nat
  size : Nat
  r : Bool
  w : Bool
  x : Bool
  deriving DecidableEq, Repr

/-- log2 of the page size of a leaf at a level (R273, R274). -/
def pageLog (lvl : Nat) (c : Bool) : Nat :=
  match lvl with
  | 3 => 34 | 2 => if c then 30 else 25 | 1 => if c then 21 else 16 | _ => 12

/-- The index of a virtual address at a level (R273). -/
def walkIndex (va lvl : Nat) : Nat :=
  match lvl with
  | 4 => va / 2 ^ 43 % 512 | 3 => va / 2 ^ 34 % 512 | 2 => va / 2 ^ 25 % 512 | 1 => va / 2 ^ 16 % 512 | _ => va / 2 ^ 12 % 16

/-- Whether a reserved bit of a page-table entry is set (R272, R341). -/
def entryReserved (e : W64) : Bool := bits e 60 4 != 0 || bits e 52 4 != 0 || bits e 8 4 != 0 || bits e 5 2 != 0

/-- The walk of R273 from a level down: the page, or the REASON of a PAGE (R341). -/
def State.walk (s : State) (ctx va : Nat) : Nat → Nat → State × Except Nat Page
  | lvl, table =>
    match s.walkerRead ctx (table + 8 * walkIndex va lvl) with
    | (s, none) => (s, .error 4)
    | (s, some e) =>
      let leaf := e.getLsbD 1
      if !e.getLsbD 0 then (s, .error 1)
      else if entryReserved e || (leaf && lvl == 4) || (!leaf && lvl == 0) then (s, .error 2)
      else if leaf then
        let k := pageLog lvl (e.getLsbD 7)
        let pa := (bits e 12 40).toNat * 4096
        (s, .ok { va := va / 2 ^ k * 2 ^ k, pa := pa / 2 ^ k * 2 ^ k, size := 2 ^ k, r := e.getLsbD 2, w := e.getLsbD 3,
                  x := e.getLsbD 4 })
      else match lvl with
        | 0 => (s, .error 2)
        | lvl + 1 => s.walk ctx va lvl ((bits e 12 40).toNat * 4096)
termination_by structural lvl => lvl

/-- What an access needs of its page. -/
structure Need where
  r : Bool := false
  w : Bool := false
  x : Bool := false
  deriving DecidableEq, Repr

/-- Translates one address for a core and a context (R271 to R278): the physical address, or a cause and its REASON. Entries
with V = 0 are never cached; a cached translation stays until the translation-invalidate command (R275), and the ownership
entry is cached with it (R340). -/
def State.translate (s : State) (core ctx : Nat) (va : W64) (nd : Need) : State × Except (Cause × Nat) Nat :=
  let a := va.toNat
  if 2 ^ 52 ≤ a then (s, .error (.page, 3))
  else
    let hit := s.tlb.find? (fun t => t.core == core && t.ctx == ctx && decide (t.va ≤ a) && decide (a < t.va + t.size))
    let (s, found) : State × Except Nat TlbEntry := match hit with
      | some t => (s, .ok t)
      | none =>
        match s.ctx? ctx with
        | none => (s, .error 4)
        | some c =>
          match s.walk ctx a 4 ((bits c.troot 12 40).toNat * 4096) with
          | (s, .error r) => (s, .error r)
          | (s, .ok p) => (s, .ok { core, ctx, va := p.va, size := p.size, pa := p.pa, r := p.r, w := p.w, x := p.x })
    match found with
    | .error r => (s, .error (.page, r))
    | .ok t =>
      let pa := t.pa + (a - t.va)
      let f := pa / 65536
      let word := (FMap.find t.frames f).getD (s.frameWord f)
      let t' := { t with frames := FMap.put t.frames f word }
      let s := if t' == t then s else { s with tlb := t' :: s.tlb.filter (· != t) }
      if (nd.r && !t.r) || (nd.w && !t.w) || (nd.x && !t.x) then (s, .error (.prot, 1))
      else if nd.w && s.hub.l2mode == .partitioned && word / 0x4000 % 2 == 1 && decide (0x8000 ≤ word) then (s, .error (.prot, 4))
      else if framePasses s ctx word nd.w then (s, .ok pa)
      else (s, .error (.owner, 1))

/-- One lane's failure: the lane, its address, the cause and its REASON. -/
abbrev LaneFail := Nat × W64 × Cause × Nat

/-- The trap for lanes that failed with several causes in accesses of several kinds: the first cause in the order of R340, its lanes, the
address, kind and REASON of the first of them in the list (R328, R341). -/
def kindTrap (engine : Nat) (fails : List (LaneFail × AccKind)) : Option Trap :=
  let rank := fails.foldl (fun r f => min r f.1.2.2.1.rank) 13
  let mine := fails.filter (fun f => f.1.2.2.1.rank == rank)
  match mine with
  | [] => none
  | f :: _ => some { cause := f.1.2.2.1, addr := f.1.2.1, lanes := some (maskOf (mine.map (fun x => x.1.1))),
                     detail := memDetail false f.2 engine f.1.2.2.2 0 }

/-- The trap for lanes that failed in accesses of one kind. -/
def laneTrap (kind : AccKind) (engine : Nat) (fails : List LaneFail) : Option Trap := kindTrap engine (fails.map (fun f => (f, kind)))

/-- Translates the addresses of all lanes before any effect (R194, R278). -/
def State.translateLanes (s : State) (core ctx : Nat) (nd : Need) (kind : AccKind) (addrs : FMap W64) (size : Nat) :
    State × Except Trap (FMap Nat) :=
  let (s, oks, bad) := addrs.foldl (fun (acc : State × FMap Nat × List (Nat × W64 × Cause × Nat)) la =>
    let (s, oks, bad) := acc
    if la.2.toNat % size != 0 then (s, oks, bad ++ [(la.1, la.2, Cause.align, 0)])
    else match s.translate core ctx la.2 nd with
      | (s, .ok pa) => (s, oks ++ [(la.1, pa)], bad)
      | (s, .error (c, r)) => (s, oks, bad ++ [(la.1, la.2, c, r)])) (s, [], [])
  match laneTrap kind 0 bad with
  | some t => (s, .error t)
  | none => (s, .ok oks)

/-! Race detection (R347, R348) -/

/-- Takes a fresh epoch (R347): the time in ticks, and a count within the tick. -/
def State.epoch (s : State) : W64 × State :=
  let n := if s.epochs.1 = s.ticks then s.epochs.2 + 1 else 0
  (BitVec.ofNat 64 (s.ticks * 65536 + n), { s with epochs := (s.ticks, n) })

/-- The counts of the agent that a stamp names, resident or saved: slots of one group are one agent (R83). -/
def State.agentByKey (s : State) (k : Nat) : Option AgentState :=
  match s.allGroups.find? (fun g => g.2.agent.uid == k) with
  | some g => some g.2.agent
  | none => (s.allThreads.find? (fun t => t.2.agent.uid == k)).map (fun (t : Nat × Thread) => t.2.agent)

/-- The REASON of a RACE between an access of an agent and the stamp of a line, if there is one (R348). -/
def raceReason (s : State) (me : Nat) (mine : AgentState) (st : Stamp) (mask : W64) : Option Nat :=
  match st.agent with
  | none => none
  | some y =>
    if y = me || st.mask &&& mask = 0 then none
    else match s.agentByKey y with
      | none => none
      | some other =>
        if other.region = st.region then some 1
        else
          let age := (other.region - st.region).toNat
          match other.closed[age - 1]? with
          | some e => if mine.horizon.toNat < e.toNat then some 2 else none
          | none => none

/-- The RACE of an access, if there is one: the stamp may have been lost by eviction, which a free value decides (R348). -/
def State.raceCheck (s : State) (me : Nat) (mine : AgentState) (line : Nat) (mask : W64) : State × Option Nat :=
  match raceReason s me mine (FMap.at {} s.stamps line) mask with
  | none => (s, none)
  | some r =>
    let (lost, s) := s.drawBit
    if lost then (s.l2EvictLine line, none) else (s, some r)

/-- A synchronising operation ends its agent's region and takes a fresh epoch (R347). -/
def State.closeRegion (s : State) (a : Agent) : W64 × State :=
  let (e, s) := s.epoch
  (e, s.modAgent a (fun ag => { ag with region := ag.region + 1, closed := (e :: ag.closed).take 16 }))

/-- The later of two epochs. -/
def laterEpoch (a b : W64) : W64 := if a.toNat < b.toNat then b else a

/-- REPOCH of a line, by its key in `stamps` (R347). -/
def State.repochAt (s : State) (key : Nat) : W64 := (FMap.at {} s.stamps key).repoch

/-- A release write sets REPOCH on its line (R347). -/
def State.publish (s : State) (key : Nat) (e : W64) : State :=
  if e = 0 then s
  else
    let st := FMap.at {} s.stamps key
    { s with stamps := FMap.put s.stamps key { st with repoch := laterEpoch st.repoch e } }

/-- An acquire read raises the horizon (R347); the read of a relaxed atomic does so at a later acquire fence (R89). -/
def State.observe (s : State) (a : Agent) (acquire : Bool) (e : W64) : State :=
  s.modAgent a (fun ag => if acquire then { ag with horizon := laterEpoch ag.horizon e } else { ag with seen := laterEpoch ag.seen e })

/-- Who an agent is. -/
def State.siteOf (s : State) (a : Agent) : Site :=
  match a with
  | .group g _ => match s.group? g with
    | some gr => { uid := gr.agent.uid, core := g / 64, team := gr.team, thread := false } | none => { uid := 0, core := g / 64, team := 0, thread := false }
  | .thread t => match s.thread? t with
    | some th => { uid := th.agent.uid, core := t / 4, team := th.team, thread := true } | none => { uid := 0, core := t / 4, team := 0, thread := true }

/-- Where an agent with a number stands now. -/
def State.siteNow (s : State) (old : Site) : Site :=
  match s.allGroups.find? (fun g => g.2.agent.uid == old.uid) with
  | some g => { uid := old.uid, core := g.1 / 64, team := g.2.team, thread := false }
  | none => match s.allThreads.find? (fun t => t.2.agent.uid == old.uid) with
    | some t => { uid := old.uid, core := t.1 / 4, team := t.2.team, thread := true }
    | none => old

/-- Whether the instance of a scope of the agent `x` contains the agent `y` (R85). -/
def inScope (scope : Nat) (x y : Site) : Bool :=
  match scope with
  | 0 => x.uid == y.uid
  | 1 => x.uid == y.uid || (!x.thread && !y.thread && x.team == y.team)
  | 2 => x.core == y.core
  | 3 => x.core / 2 == y.core / 2
  | _ => true

/-- Whether two agents are within each other's scope, each for its own side (R85, R89). -/
def withinScopes (sx : Nat) (x : Site) (sy : Nat) (y : Site) : Bool := inScope sx x y && inScope sy y x

/-- A release joins those of a location; of those of one agent with one scope the one of the latest epoch stands for all (R89). -/
def addMark (m : SyncMark) (ms : List SyncMark) : List SyncMark :=
  let same (x : SyncMark) : Bool := x.site.uid == m.site.uid && x.scope == m.scope
  { m with epoch := (ms.filter same).foldl (fun e x => laterEpoch e x.epoch) m.epoch } :: ms.filter (fun x => !same x)

/-- The latest epoch of the releases with which an acquire side of an agent and a scope synchronises (R89). -/
def State.acquired (s : State) (a : Agent) (scope : Nat) (ms : List SyncMark) : W64 :=
  ms.foldl (fun e m => if withinScopes scope (s.siteOf a) m.scope (s.siteNow m.site) then laterEpoch e m.epoch else e) 0

/-- An atomic write, `arrive` or `drain` at a CLM line (R89): a release where it has a scope and an epoch of its own, and at the scopes of
the agent's earlier release fences. -/
def State.releaseAt (s : State) (a : Agent) (line : Nat) (own : Option (Nat × W64)) : State :=
  match s.agentState? a with
  | none => s
  | some ag =>
    let new := own.toList ++ ag.rels
    if new.isEmpty then s
    else { s with marks := FMap.put s.marks line (new.foldl (fun ms r => addMark { site := s.siteOf a, scope := r.1, epoch := r.2 } ms) (FMap.at [] s.marks line)) }

/-- An atomic read or `waitb` at a CLM line (R89): an acquire where it has a scope, and one for a later acquire fence. -/
def State.acquireAt (s : State) (a : Agent) (line : Nat) (own : Option Nat) : State :=
  let ms := FMap.at [] s.marks line
  if ms.isEmpty then s
  else
    let e := match own with | some scope => s.acquired a scope ms | none => 0
    s.modAgent a (fun ag => { ag with horizon := laterEpoch ag.horizon e, seenMarks := ms.foldl (fun l m => addMark m l) ag.seenMarks })

/-- A release fence (R88, R89): later atomic writes of the agent release at this epoch and scope. -/
def State.releaseFence (s : State) (a : Agent) (scope : Nat) : State :=
  let (e, s) := s.closeRegion a
  s.modAgent a (fun ag => { ag with rels := FMap.put ag.rels scope e })

/-- What an acquire fence of a scope adds to the horizon (R89): what the agent's earlier atomic reads and `waitb` have read. -/
def State.acquireSeen (s : State) (a : Agent) (scope : Nat) : State :=
  match s.agentState? a with
  | none => s
  | some ag =>
    let e := laterEpoch ag.seen (s.acquired a scope ag.seenMarks)
    s.modAgent a (fun ag => { ag with horizon := laterEpoch ag.horizon e })

/-- An acquire fence (R88, R89). -/
def State.acquireFence (s : State) (a : Agent) (scope : Nat) : State := (s.closeRegion a).2.acquireSeen a scope

/-- An operation takes its place in the sc order (R90): it synchronises with every earlier one where their agents are within each other's
scope. -/
def State.scOrder (s : State) (a : Agent) (scope : Nat) (e : W64) : State :=
  let s' := s.observe a true (s.acquired a scope s.scMarks)
  { s' with scMarks := addMark { site := s.siteOf a, scope, epoch := e } s.scMarks }

/-- A full fence (R88, R90). -/
def State.fullFence (s : State) (a : Agent) (scope : Nat) : State :=
  let (e, s) := s.closeRegion a
  ((s.acquireSeen a scope).modAgent a (fun ag => { ag with rels := FMap.put ag.rels scope e })).scOrder a scope e

/-- The epoch at which an atomic write to global memory releases for the agent's earlier release fences (R89, R347). -/
def AgentState.relEpoch (ag : AgentState) : W64 := ag.rels.foldl (fun e r => laterEpoch e r.2) 0

/-- An agent has ended: the stamps that name it name nobody. -/
def State.forgetAgent (s : State) (k : Nat) : State :=
  { s with stamps := s.stamps.map (fun x => if x.2.agent == some k then (x.1, { x.2 with agent := none, mask := 0 }) else x) }

/-- The byte mask of a run of bytes within a line. -/
def byteMask (off n : Nat) : W64 := BitVec.ofNat 64 ((2 ^ n - 1) * 2 ^ off)

/-! Reads and writes at the home -/

/-- What the home answers to a read: the bytes as a number, or OWNER or DATAERR with its REASON. -/
def State.homeRead (s : State) (ctx pa n : Nat) : State × Except (Cause × Nat) Nat :=
  if !s.homePasses ctx pa false then (s.ownerEvent ctx pa, .error (.owner, 2))
  else
    let s := s.recall (pa / 64)
    match FMap.find s.poison (pa / 64) with
    | some seen => ({ s with poison := FMap.put s.poison (pa / 64) true }, .error (.dataerr, if seen then 2 else 1))
    | none =>
      let s := s.l2Touch ctx pa false
      (s, .ok (Mem.readNat s.mem pa n))

/-- The poison of a line is cleared (R349). -/
def State.unpoison (s : State) (line : Nat) : State := { s with poison := FMap.del s.poison line, rewrites := FMap.del s.rewrites line }

/-- A copy `op` has written bytes of a line (R349): once it has written all 64 bytes of a poisoned one, piece by piece, the poison is
cleared. -/
def State.rewrote (s : State) (op pa n : Nat) : State :=
  let line := pa / 64
  if (FMap.find s.poison line).isNone then s
  else
    let before : W64 := match FMap.find s.rewrites line with | some r => if r.1 = op then r.2 else 0 | none => 0
    let mask := before ||| byteMask (pa % 64) n
    if mask = allLanes 64 then s.unpoison line else { s with rewrites := FMap.put s.rewrites line (op, mask) }

/-- Writes bytes at the home: the partials of the line are recalled first; a write of a whole poisoned line clears the poison
(R349), a partial write leaves it. -/
def State.homeWriteBytes (s : State) (pa : Nat) (bs : List Byte) : State :=
  let s := s.recall (pa / 64)
  let s := { s with mem := Mem.writeBytes s.mem pa bs }
  if pa % 64 = 0 && bs.length = 64 then s.unpoison (pa / 64) else s

/-- A write to the home by a context (R277): OWNER where it is refused. -/
def State.homeWrite (s : State) (ctx pa : Nat) (bs : List Byte) : State × Except (Cause × Nat) Unit :=
  if s.homePasses ctx pa true then ((s.homeWriteBytes pa bs).l2Touch ctx pa true, .ok ())
  else (s.ownerEvent ctx pa, .error (.owner, 2))

/-- Drops the lines of a path cache that `f` picks. -/
def State.dropLines (s : State) (f : CacheLine → Bool) : State := { s with caches := s.caches.filter (fun l => !f l) }

/-- The sets of a path's cache (R76): 128 KiB and 8 ways, or 32 KiB and 4 ways, with lines of 64 bytes. -/
def Path.sets : Path → Nat
  | .ls => 256
  | _ => 128

/-- The ways of a path's cache (R76). -/
def Path.ways : Path → Nat
  | .ls => 8
  | _ => 4

/-- Whether a cached line is a given line of a core's path. -/
def CacheLine.isAt (l : CacheLine) (core : Nat) (path : Path) (line : Nat) : Bool := l.core == core && l.path == path && l.line == line

/-- Whether a cached line is in the set of a line. The spec does not say which set that is: the model takes the low bits of the physical
line (DESIGN CHOICE, log 86). -/
def CacheLine.inSet (l : CacheLine) (core : Nat) (path : Path) (line : Nat) : Bool :=
  l.core == core && l.path == path && l.line % path.sets == line % path.sets

/-- The line of a set, from the most recently used on, that makes room for another (R78): one marked for replacement, else the least
recently used that is not kept, else the least recently used. -/
def victimLine (set : List CacheLine) : Option CacheLine :=
  (set.reverse.find? (fun l => l.mark == 1)).orElse (fun _ => (set.reverse.find? (fun l => l.mark != 2)).orElse (fun _ => set.getLast?))

/-- A fill of a path cache with a hint (R78): as the least recently used line of its set for streaming, else as the most recent. -/
def State.allocLine (s : State) (l : CacheLine) (hint : Nat) : State :=
  let s := s.dropLines (fun x => x.isAt l.core l.path l.line)
  let set := s.caches.filter (fun x => x.inSet l.core l.path l.line)
  let kept := if set.length < l.path.ways then s.caches
    else match victimLine set with | some v => s.caches.filter (fun x => x != v) | none => s.caches
  let l : CacheLine := { l with mark := match hint with | 2 => 1 | 4 => 2 | _ => 0 }
  { s with caches := if hint = 1 then kept ++ [l] else l :: kept }

/-- A line that has been used is the most recent of its set. -/
def State.useLine (s : State) (l : CacheLine) : State := { s with caches := l :: s.caches.filter (fun x => x != l) }

/-- One element read through a path cache (R76 to R78, R277, R348). Whether a present line that is not kept is still there a free value
decides (log 8): the set of a line and the lines that other traffic brings are not stated. A miss goes to the home, fills the line unless
the hint bypasses L1, and is checked for races. -/
def State.pathRead (s : State) (core : Nat) (path : Path) (ctx me : Nat) (ag : AgentState) (pa n : Nat) (hint : Nat) :
    State × Except (Cause × Nat) Nat × Option Nat :=
  let line := pa / 64
  let present := s.caches.find? (fun l => l.isAt core path line)
  let s := s.recall line
  let miss (s : State) : State × Except (Cause × Nat) Nat × Option Nat :=
    match s.homeRead ctx pa n with
    | (s, .error e) => (s, .error e, none)
    | (s, .ok v) =>
      let (s, race) := s.raceCheck me ag line (byteMask (pa % 64) n)
      let s := if hint = 3 then s.dropLines (fun l => l.isAt core path line)
        else s.allocLine { core, path, line, ctx, data := Mem.readBytes s.mem (line * 64) 64 } hint
      (s, .ok v, race)
  match present with
  | none => miss s
  | some l =>
    let (keep, s) := if l.mark = 2 then (true, s) else s.drawBit
    if !keep then miss s
    else if l.ctx != ctx && !s.homePasses ctx pa false then (s.ownerEvent ctx pa, .error (.owner, 2), none)
    else
      (s.useLine l, .ok ((List.range n).foldr (fun i v => (l.data.getD (pa % 64 + i) 0).toNat + 256 * v) 0), none)

/-- Replaces bytes of a list from an index upward. -/
def patchBytes (old : List Byte) (off : Nat) (bs : List Byte) : List Byte :=
  (List.range old.length).map (fun i => if off ≤ i && i < off + bs.length then bs.getD (i - off) 0 else old.getD i 0)

/-- One element written through a path (R76, R194, R347): it goes to the home, a present line of the same path on the core is updated, the
stamp is set. -/
def State.pathWrite (s : State) (core : Nat) (path : Path) (ctx me : Nat) (ag : AgentState) (pa : Nat) (bs : List Byte) :
    State × Except (Cause × Nat) Unit :=
  let line := pa / 64
  match s.homeWrite ctx pa bs with
  | (s, .error e) => (s, .error e)
  | (s, .ok ()) =>
    let mask := byteMask (pa % 64) bs.length
    let st := FMap.at {} s.stamps line
    let st' : Stamp := if st.agent = some me && st.region = ag.region then { st with mask := st.mask ||| mask }
      else { st with agent := some me, region := ag.region, mask }
    let s := { s with
      stamps := FMap.put s.stamps line st'
      caches := s.caches.map (fun l => if l.isAt core path line
        then { l with data := patchBytes l.data (pa % 64) bs } else l) }
    (s, .ok ())

/-! The group state area -/

/-- Lines of the group state area of a group (R26, R50), which is physical; row `n` lies from 4 * `n` on, the stack entries from 640 on. The
spec gives the area no address: its lines are numbered above those of HBM (DESIGN CHOICE, log 111). -/
def areaLine (ctx place k : Nat) : Nat := 2 ^ 48 + (10240 * ctx + place) * 1024 + k

/-- The lines of a row in its group's area. -/
def rowLines (ctx place width n : Nat) : List Nat := (List.range ((width + 15) / 16)).map (fun k => areaLine ctx place (4 * n + k))

/-- A line of the group state area is written through the ls path (R76). -/
def State.areaWrite (s : State) (ctx line : Nat) : State := s.l2Touch ctx (64 * line) true

/-- A line of the group state area is read through the ls path (R76, R78): a miss fills the core's L1. -/
def State.areaRead (s : State) (core ctx line : Nat) : State :=
  let miss (s : State) : State := (s.l2Touch ctx (64 * line) false).allocLine { core, path := .ls, line, ctx, data := [] } 0
  match s.caches.find? (fun l => l.isAt core .ls line) with
  | some l => let (keep, s) := s.drawBit; if keep then s.useLine l else miss s
  | none => miss s

/-- An acquire of core scope or wider invalidates the lines of the core's L1 (R78); update-only lines are kept, as partials. -/
def State.invalidateL1 (s : State) (core : Nat) : State := s.dropLines (fun l => l.core == core && l.path == .ls)

/-- The bytes of the low `n` bytes of a number. -/
def leBytes : Nat → Nat → List Byte
  | 0, _ => []
  | n + 1, v => BitVec.ofNat 8 v :: leBytes n (v / 256)

/-- The number in a list of bytes, least significant first (R7). -/
def leNat (bs : List Byte) : Nat := bs.foldr (fun b v => b.toNat + 256 * v) 0

end Sys2Proof.Machine
end

