-- ==== Sys2Proof/Machine/Clm.lean ====
section
/-! DEFINITION. Core-local memory (R68 to R73): resolution of offsets, dirty lines, mapped regions, the operand guard (R231), the
panel shadow (R232) and barrier objects (R207, R208). -/
namespace Sys2Proof.Machine

open Sys2Proof

/-- The other core of a pair. -/
def partner (c : Nat) : Nat := if c % 2 = 0 then c + 1 else c - 1

/-- Bytes of CLM of a core (R68). -/
def clmBytes : Nat := 393216

/-- The core-absolute offset of the team's block on a core (R30). -/
def Team.baseOn (t : Team) (core : Nat) : Nat := if t.span && core != t.core then t.clmBase1 else t.clmBase0

/-- Resolves a CLM address range of `n` bytes for an accessor on core `own` (R68): the core, and the offset in the team's block
there; none where it leaves the block. -/
def Team.resolve (t : Team) (own : Nat) (off : W64) (n : Nat) : Option (Nat × Nat) :=
  let o := off.toNat
  if o + n ≤ t.clmSize then some (own, o)
  else if t.span && 0x80000 ≤ o && o + n ≤ 0x80000 + t.clmSize then some (partner own, o - 0x80000)
  else none

/-- The key of a byte of the team's block in `State.clm`. -/
def Team.key (t : Team) (core o : Nat) : Nat := clmBytes * core + t.baseOn core + o

/-- The line key of a byte in `State.dirty`. -/
def Team.lineKey (t : Team) (core o : Nat) : Nat := 6144 * core + (t.baseOn core + o) / 64

/-- The lines of the block that a range touches. -/
def linesOf (o n : Nat) : List Nat := if n = 0 then [] else (List.range ((o + n - 1) / 64 - o / 64 + 1)).map (· + o / 64)

/-- The mapped region of a team that holds a byte of its block, with its index (R70). -/
def Team.regionAt (t : Team) (core o : Nat) : Option (Nat × Region) :=
  t.regions.find? (fun ir => ir.2.core == core && ir.2.off ≤ o && o < ir.2.off + 64 * ir.2.lines)

/-- Whether a line of the block is being written back (R206), by an operation that `which` picks. -/
def State.writingBack (s : State) (team core line : Nat) (which : Op → Bool := fun _ => true) : Bool :=
  s.ops.any (fun o => which o.2 && match o.2.kind with
    | .writeBack t c ls _ => t == team && c == core && ls.any (fun l => l.1 / 64 == line)
    | _ => false)

/-- Whether the guard ranges of an operation hold a byte of a range of team-relative CLM (R231). -/
def MatOp.holds (m : MatOp) (lo n : Nat) : Bool :=
  m.guarded && !m.readDone &&
  ((decide (m.guardLo < lo + n) && decide (lo < m.guardHi)) || (decide (m.guard2Lo < lo + n) && decide (lo < m.guard2Hi)))

/-- Whether the operand guard holds a byte of the range for an operation that `which` picks (R231); the partner core's share of the block
lies from 0x80000 on (R68). -/
def State.guardHeld (s : State) (team core o n : Nat) (which : Nat → Bool := fun _ => true) : Bool :=
  s.ops.any (fun op => which op.1 && (match op.2.kind, op.2.agent with
    | .matrix m, .thread th =>
      (core == op.2.core || core == partner op.2.core) && m.holds (if core = op.2.core then o else o + 0x80000) n &&
      (match s.thread? th with | some t => t.team == team | none => false)
    | _, _ => false))

/-- The bytes of a range of the block. -/
def State.clmRead (s : State) (t : Team) (core o n : Nat) : List Byte := Mem.readBytes s.clm (t.key core o) n

/-- Lines of the range that a store would make dirty for the first time (R69, R105). -/
def State.newDirty (s : State) (t : Team) (core o n : Nat) : List Nat :=
  (linesOf o n).filter (fun l => !s.dirty.contains (t.lineKey core (64 * l)))

/-- Copies a line into the panel shadow before it changes, where a loaded panel or scale was read from it (R232). -/
def State.shadowLine (s : State) (tid : Nat) (t : Team) (core line : Nat) : State :=
  let key := t.lineKey core (64 * line)
  let line' := if core = t.core then line else line + 8192
  if (FMap.find s.shadow key).isNone &&
      s.macros.any (fun m => m.1 / 16 == t.core && m.2.team == tid && (m.2.lines.contains line' || m.2.scaleLines.contains line')) then
    { s with shadow := FMap.put s.shadow key (s.clmRead t core (64 * line) 64) }
  else s

/-- Marks bytes of a region's line dirty (R71). -/
def Region.markDirty (r : Region) (line : Nat) (mask : W64) : Region :=
  { r with state := FMap.put r.state line (FMap.at 0 r.state line ||| mask) }

/-- Puts bytes at an offset of the block of a team: into its location, and into the one to which the compactor copies it (R31). -/
def State.clmPut (s : State) (tid : Nat) (t : Team) (core o : Nat) (bs : List Byte) : State :=
  let clm := Mem.writeBytes s.clm (t.key core o) bs
  match s.compactions.find? (fun c => c.team == tid && c.core == core) with
  | some c => { s with clm := Mem.writeBytes clm (clmBytes * core + c.target + o) bs }
  | none => { s with clm }

/-- Stores bytes within one line of the block: the line becomes dirty, in a region with its byte mask (R69, R71). -/
def State.clmStoreLine (s : State) (tid core o : Nat) (bs : List Byte) : State :=
  match s.team? tid with
  | none => s
  | some t =>
    let s := s.shadowLine tid t core (o / 64)
    let key := t.lineKey core o
    let s := s.clmPut tid t core o bs
    let s := { s with dirty := NSet.add s.dirty key, lost := if o % 64 = 0 && bs.length = 64 then NSet.del s.lost key else s.lost }
    match t.regionAt core o with
    | some (i, r) =>
      let r' := r.markDirty ((o - r.off) / 64) (byteMask (o % 64) bs.length)
      s.modTeam tid (fun t => { t with regions := FMap.put t.regions i r' })
    | none => s

/-- Cuts a run of bytes at the line boundaries of its start offset. -/
def cutLines : Nat → Nat → List Byte → List (Nat × List Byte)
  | 0, _, _ => []
  | fuel + 1, o, bs =>
    if bs.isEmpty then []
    else
      let n := 64 - o % 64
      (o, bs.take n) :: cutLines fuel (o + n) (bs.drop n)

/-- Stores bytes into the team's block on a core. -/
def State.clmStore (s : State) (tid core o : Nat) (bs : List Byte) : State :=
  (cutLines (bs.length + 1) o bs).foldl (fun s x => s.clmStoreLine tid core x.1 x.2) s

/-- What an access to a range of the block meets before it acts (R29, R71, R206, R231, R345). -/
inductive ClmGate where
  | ok
  | wait                          -- a write-back, a held guard, a core with no started member of the team
  | fill (region line : Nat)      -- an untouched line has to be filled first
  | readOnly                      -- a store to a region without write enable
  | lost (off : Nat)              -- a line lost by a save (R337)
  deriving DecidableEq, Repr

/-- The core on which a group of a team is placed (R20). -/
def Team.memberCore (t : Team) (g : Nat) : Nat := if t.span && g % 2 = 1 then partner t.core else t.core

/-- Whether a member of the team has started on a core (R29): teams that are not weakly parallel start whole. -/
def Team.memberOn (t : Team) (core : Nat) : Bool :=
  decide (t.started.length = t.ngroups) || (t.thread.isSome && core == t.core) || t.started.any (fun g => t.memberCore g == core)

/-- The region and its line, untouched, that holds a line of the block (R71). -/
def Team.untouched (t : Team) (core line : Nat) : Option (Nat × Nat) :=
  match t.regionAt core (64 * line) with
  | some (i, r) => let k := (64 * line - r.off) / 64; if (FMap.find r.state k).isNone then some (i, k) else none
  | none => none

/-- The line of a range of the block that a save has lost (R337). -/
def State.lostLine (s : State) (t : Team) (core o n : Nat) : Option Nat :=
  (linesOf o n).find? (fun l => s.lost.contains (t.lineKey core (64 * l)))

/-- Whether a range of the block meets a region without write enable (R71). -/
def Team.readOnlyAt (t : Team) (core o n : Nat) : Bool :=
  (linesOf o n).any (fun l => match t.regionAt core (64 * l) with | some (_, r) => !r.we | none => false)

/-- The gate of a read or a store of a range of the block. -/
def State.clmGate (s : State) (tid : Nat) (t : Team) (core o n : Nat) (store : Bool) : ClmGate :=
  let ls := linesOf o n
  if !t.memberOn core || ls.any (fun l => s.writingBack tid core l) || (store && s.guardHeld tid core o n) then .wait
  else
    match ls.findSome? (t.untouched core) with
    | some (i, k) => .fill i k
    | none =>
      if store && t.readOnlyAt core o n then .readOnly
      else match (if store then none else s.lostLine t core o n) with
        | some l => .lost (64 * l)
        | none => .ok

/-- The global address of a line of a region (R70). -/
def Region.lineAddr (r : Region) (line : Nat) : W64 := r.va + BitVec.ofNat 64 (64 * line)

/-- The bytes with which an untouched line is filled, from global memory through the L2 (R71): or the cause and its REASON. -/
def State.fillRead (s : State) (t : Team) (r : Region) (line : Nat) : State × Except (Cause × Nat) Nat :=
  match s.translate r.core t.ctx (r.lineAddr line) { r := true } with
  | (s, .error x) => (s, .error x)
  | (s, .ok pa) => s.homeRead t.ctx pa 64

/-- Asks for the fill of an untouched line (R71). -/
def State.askFill (s : State) (tid region line : Nat) : State :=
  s.modTeam tid (fun t => { t with regions := FMap.update t.regions region (fun r => { r with asked := NSet.add r.asked line }) })

/-! Barrier objects (R207, R208) -/

/-- The fields of a barrier object. -/
structure BarObj where
  expect : Nat
  arrived : Nat
  phase : Bool
  err : Bool
  bytes : BitVec 40
  deriving DecidableEq, Repr

/-- Reads a barrier object from its 16 bytes. -/
def BarObj.ofNat (v : Nat) : BarObj :=
  { expect := v % 65536, arrived := v / 65536 % 65536, phase := v / 2 ^ 32 % 2 == 1, err := v / 2 ^ 33 % 2 == 1,
    bytes := BitVec.ofNat 40 (v / 2 ^ 64) }

/-- The fields of an object written over the 128 bits it held: reserved bits keep their values. -/
def BarObj.toNat (b : BarObj) (old : Nat) : Nat :=
  b.expect % 65536 + 65536 * (b.arrived % 65536) + 2 ^ 32 * (if b.phase then 1 else 0) + 2 ^ 33 * (if b.err then 1 else 0) +
  2 ^ 34 * (old / 2 ^ 34 % 2 ^ 30) + 2 ^ 64 * b.bytes.toNat + 2 ^ 104 * (old / 2 ^ 104 % 2 ^ 24)

/-- `Flip` (R208): a complete phase inverts the phase bit and clears the arrivals. -/
def BarObj.flip (b : BarObj) : BarObj :=
  if b.arrived = b.expect && b.bytes = 0 then { b with phase := !b.phase, arrived := 0 } else b

/-- `binit` (R208): the phase is kept, a count of 0 is taken as 1. -/
def BarObj.init (b : BarObj) (count : Nat) : BarObj :=
  { b with expect := max 1 (count % 65536), arrived := 0, bytes := 0, err := false }

/-- `arrive` (R208), with the bytes to expect. -/
def BarObj.arrive (b : BarObj) (bytes : BitVec 40) : BarObj :=
  { b with bytes := b.bytes + bytes, arrived := (b.arrived + 1) % 65536 }.flip

/-- The completion of an entry or copy of `n` bytes (R208, R218): ERR and an arrival where they are asked for. -/
def BarObj.complete (b : BarObj) (n : Nat) (err arr : Bool) : BarObj :=
  { b with bytes := b.bytes - BitVec.ofNat 40 n, err := b.err || err,
           arrived := if arr then (b.arrived + 1) % 65536 else b.arrived }.flip

/-- The object at an offset of the block. -/
def State.barObj (s : State) (t : Team) (core o : Nat) : BarObj := BarObj.ofNat (leNat (s.clmRead t core o 16))

/-- A slot parked on an object whose phase has flipped is woken (R13). -/
def Slot.wake (sl : Slot) (hit : W64 → Bool) : Slot :=
  match sl.park with
  | .waitb obj _ words => if hit obj then { sl with park := .woken obj words } else sl
  | _ => sl

/-- The slots of a group parked on an object, wherever they are, are woken. -/
def Group.wake (g : Group) (hit : W64 → Bool) : Group := g.mapSlots (fun (sl : Slot) => sl.wake hit)

/-- Wakes the members of a team that wait on an object. -/
def State.wakeWaiters (s : State) (tid core o : Nat) : State :=
  match s.team? tid with
  | none => s
  | some t =>
    { s with groups := s.groups.map (fun g => if g.2.team == tid then (g.1, g.2.wake (fun a => t.resolve (g.1 / 64) a 16 == some (core, o))) else g)
             threads := s.threads.map (fun th => if th.2.team == tid then
               (th.1, { th.2 with slot := th.2.slot.wake (fun a => t.resolve (th.1 / 4) a 16 == some (core, o)) }) else th) }

/-- One atomic read-modify-write of an object (R90); a flip of its phase wakes those that wait. -/
def State.modBar (s : State) (tid core o : Nat) (f : BarObj → BarObj) : State :=
  match s.team? tid with
  | none => s
  | some t =>
    let old := leNat (s.clmRead t core o 16)
    let b := BarObj.ofNat old
    let s := s.clmStore tid core o (leBytes 16 ((f b).toNat old))
    if (f b).phase = b.phase then s else s.wakeWaiters tid core o

end Sys2Proof.Machine
end

