-- ==== Sys2Proof/Machine/Dusk.lean ====
section
/-! DEFINITION. The Dusk unit (R99 to R110): charges, the estimate E and the issue check (R105 to R107, R333, R334), and the
counters of operations in flight. -/
namespace Sys2Proof.Machine

open Sys2Proof

/-- The charge of a cost class for a size (R59, R102, R109). -/
def chargeOf (cls n : Nat) : Nat :=
  match cls with
  | 0 => 32 + (n + 63) / 64
  | 1 => 32 + n
  | 2 => (5 * n + 5) / 6
  | 3 => 64 + 16 * n
  | 4 => 16 + 4 * n
  | 5 => 2048 * n
  | 6 => 2048 + (n + 31) / 32
  | 7 => n
  | 8 => n
  | _ => 256 * n

/-- The largest legal size of a cost class (R109). -/
def largestLegal (cls : Nat) : Nat :=
  match cls with
  | 0 => 2 ^ 32 - 1 | 1 => 64 | 2 => 2 ^ 32 - 1 | 3 => 16 | 4 => 64 | 5 => 255 | 6 => 2 ^ 32 - 1 | 7 => 2048 | 8 => 6144
  | _ => 16

/-- The drain class of a cost class; none for the save term (R109). -/
def termOf (cls : Nat) : Option DrainClass :=
  match cls with
  | 0 | 1 => some .memory | 2 | 3 | 4 => some .matrix | 5 | 6 => some .fabric | _ => none

/-- The current charges of a drain class on a core (R101). -/
def State.classSum (s : State) (core : Nat) (cls : DrainClass) : Nat :=
  s.ops.foldl (fun n o => if o.2.core == core && o.2.cls == cls then n + o.2.charge else n) 0

/-- D: the largest class sum (R101). -/
def State.drainTerm (s : State) (core : Nat) : Nat :=
  max (s.classSum core .memory) (max (s.classSum core .matrix) (s.classSum core .fabric))

/-- S: the sum of the save items (R101). -/
def State.saveTerm (s : State) (core : Nat) : Nat :=
  s.groups.foldl (fun n g => if g.1 / 64 == core then n + 32 + g.2.savedGranules else n) 0 +
  s.threads.foldl (fun n t => if t.1 / 4 == core && !t.2.ended then n + 32 else n) 0 +
  s.teams.foldl (fun n t => if t.2.core == core then n + 256 * t.2.nbanks else n) 0 +
  (s.dirty.filter (fun k => k / 6144 == core)).length +
  s.ops.foldl (fun n o => n + FMap.at 0 o.2.resv core) 0

/-- E (R101). -/
def State.estimate (s : State) (core : Nat) : Nat := Config.haltTicks + s.drainTerm core + s.saveTerm core

/-- B_ctx of a context (R99). -/
def State.boundCtx (s : State) (ctx : Nat) : Nat := ((s.ctx? ctx).map (·.bound)).getD 0

/-- B_core (R100). -/
def State.boundCore (s : State) (ctx : Nat) : Nat := s.boundCtx ctx - Config.commitTicks

/-- The change in D when a charge joins its class (R105). -/
def State.drainRise (s : State) (core : Nat) (cls : DrainClass) (charge : Nat) : Nat :=
  match cls with
  | .free => 0
  | c => max (s.drainTerm core) (s.classSum core c + charge) - s.drainTerm core

/-- Word 5 of a VBOUND record (R333). -/
def vboundDetail (why term est delta : Nat) : W64 :=
  (0 : BitVec 9) ++ BitVec.ofNat 2 why ++ BitVec.ofNat 3 term ++ BitVec.ofNat 25 est ++ BitVec.ofNat 25 (min delta 0x1FFFFFF)

/-- The failing part of the check, if it fails (R105, R333, R334): the checked core and the DETAIL with WHY 0. The part on the
issuing core is checked first. -/
def State.duskFails (s : State) (core ctx : Nat) (d : Delta) : Option (Nat × W64) :=
  let rise := s.drainRise core d.cls d.charge
  let own := FMap.at 0 d.resv core
  let total := rise + d.backing + d.lines + own
  let e := s.estimate core
  let b := s.boundCore ctx
  let drainCode := match d.cls with | .matrix => 1 | .fabric => 2 | _ => 0
  let parts : List (Nat × Nat) := [(drainCode, rise), (3, d.backing), (4, d.lines), (5, own)]
  let term := (parts.foldl (fun best p => if best.2 < p.2 then p else best) (parts.headD (0, 0))).1
  if total != 0 && decide (b < e + total) then some (core, vboundDetail 0 term e total)
  else (d.resv.find? (fun r => r.1 != core && r.2 != 0 && decide (b < s.estimate r.1 + r.2))).map (fun (r : Nat × Nat) =>
    (r.1, vboundDetail 0 5 (s.estimate r.1) r.2))

/-- Whether a charged operation is in flight on a core. -/
def State.chargedWork (s : State) (core : Nat) : Bool := s.ops.any (fun o => o.2.core == core && o.2.cls != .free)

/-- Whether an agent takes VBOUND where its check fails (R107): GSTAT.VPOL of a group. -/
def State.trapPolicy (s : State) (a : Agent) : Bool :=
  match a with
  | .group g _ => ((s.group? g).map (fun (gr : Group) => gr.vpol)).getD false
  | .thread _ => false

/-- A candidate stalls on its check (R107); the stall remembers since when (R333). -/
def State.stallOn (s : State) (a : Agent) (d : Delta) : State :=
  s.modSlot a (fun sl => { sl with stall := some { since := (sl.stall.map (fun (x : Stall) => x.since)).getD s.now, last := s.now, delta := d } })

/-- The value of an outstanding-operation counter of a group (R213). -/
def Group.counter (g : Group) : Counter → Nat
  | .copy => g.copies
  | .gather => g.gathers
  | .fabric => g.fabric
  | _ => 0

/-- How many operations of a counter a group has issued (R219, R350). -/
def Group.issuedIn (g : Group) : Counter → Nat
  | .copy => g.copySeq
  | .gather => g.gatherSeq
  | .fabric => g.fabricSeq
  | _ => 0

/-- Adds to a counter of the issuing agent (R213). -/
def State.addCounter (s : State) (a : Agent) (c : Counter) (n : Nat) : State :=
  match a, c with
  | .group g _, .copy => s.modGroup g (fun gr => { gr with copies := gr.copies + n, copySeq := gr.copySeq + n })
  | .group g _, .gather => s.modGroup g (fun gr => { gr with gathers := gr.gathers + n, gatherSeq := gr.gatherSeq + n })
  | .group g _, .fabric => s.modGroup g (fun gr => { gr with fabric := gr.fabric + n, fabricSeq := gr.fabricSeq + n })
  | .thread t, .matrix => s.modThread t (fun th => { th with matCount := th.matCount + n })
  | _, _ => s

/-- Lowers a counter by one (R213). -/
def State.dropCounter (s : State) (a : Agent) (c : Counter) : State :=
  match a, c with
  | .group g _, .copy => s.modGroup g (fun gr => { gr with copies := gr.copies - 1 })
  | .group g _, .gather => s.modGroup g (fun gr => { gr with gathers := gr.gathers - 1 })
  | .group g _, .fabric => s.modGroup g (fun gr => { gr with fabric := gr.fabric - 1 })
  | .thread t, .matrix => s.modThread t (fun th => { th with matCount := th.matCount - 1 })
  | _, _ => s

/-- The agent without its slot: the counters belong to the group (R213). -/
def Agent.base : Agent → Agent
  | .group g _ => .group g .pc0
  | .thread t => .thread t

/-- Issues an operation (R102, R213): it joins its counter, with its place there, and its number is returned. -/
def State.issueOp (s : State) (o : Op) : Nat × State :=
  let seq := match o.agent with | .group g _ => ((s.group? g).map (fun (gr : Group) => gr.issuedIn o.counter)).getD 0 | .thread _ => 0
  let (id, s) := s.addOp { o with seq }
  (id, s.addCounter o.agent o.counter 1)

end Sys2Proof.Machine
end

