-- ==== Sys2Proof/Machine/Rename.lean ====
section
/-! DEFINITION. Renaming (R45 to R50): granules of a quarter's pool, borrowing, spilling and refilling. -/
namespace Sys2Proof.Machine

open Sys2Proof

/-- The groups of the quarter of a place, with their places. -/
def State.quarterGroups (s : State) (gi : Nat) : FMap Group := s.groups.filter (fun g => g.1 / 16 == gi / 16)

/-- The quarter's remainder (R49): the pool less the reserved floors and all borrowing. -/
def State.remainder (s : State) (gi : Nat) : Nat :=
  Config.poolGranules - (s.quarterGroups gi).foldl (fun n g => n + g.2.effFloor + g.2.borrow) 0

/-- The victim group of a spill (R49): the largest borrower, the lower SLOT on a tie, or the requester if none borrows. -/
def State.victimGroup (s : State) (gi : Nat) : Nat :=
  ((s.quarterGroups gi).foldl (fun (best : Nat × Nat) g => if best.2 < g.2.borrow then (g.1, g.2.borrow) else best) (gi, 0)).1

/-- The victim row of a group (R49): the least recently written row that is backed and full and not named. Of rows written in one cycle
(the two of a pair, say) the spec does not say which it is; the model takes the lowest number (DESIGN CHOICE, log 83; safe for claims that
do not name the row). -/
def Group.victimRow (g : Group) (named : List Nat) : Option Nat :=
  (g.rows.foldl (fun (best : Option (Nat × Nat)) r =>
    if r.2.backed && r.2.full && !named.contains r.1 then
      match best with
      | some b => if r.2.written < b.2 then some (r.1, r.2.written) else best
      | none => some (r.1, r.2.written)
    else best) none).map (·.1)

/-- Spills a row (R50): its contents enter the spill write buffer and its granules return to the pool. The spec gives the group state area
no address, so the row keeps its contents itself, and no byte of HBM holds them (DESIGN CHOICE, log 10). -/
def State.spill (s : State) (g n : Nat) : State :=
  s.modGroup g (fun gr => let r := gr.row n; gr.setRow n { r with backed := false, spilled := true, inBuffer := true })

/-- Makes room for `need` granules of a group (R49): the rows to spill, in order, and whether that makes the room. Where it does not, the
request waits, the rows found so far being spilled (step 4). -/
def State.makeRoom (s : State) (gi need : Nat) (named : List Nat) : Nat → List (Nat × Nat) × Bool
  | 0 => ([], false)
  | fuel + 1 =>
    match s.group? gi with
    | none => ([], false)
    | some g =>
      let b := g.backedRows * (g.width / 16)
      let more := (b + need - g.effFloor) - (b - g.effFloor)
      if more ≤ s.remainder gi then ([], true)
      else
        let v := s.victimGroup gi
        match (s.group? v).bind (fun gr => gr.victimRow (if v = gi then named else [])) with
        | none => ([], false)
        | some r => let (rows, ok) := (s.spill v r).makeRoom gi need named fuel; ((v, r) :: rows, ok)

/-- Makes room for granules of a group, if there are any to make room for. -/
def State.roomFor (s : State) (gi need : Nat) (named : List Nat) : List (Nat × Nat) × Bool :=
  if need = 0 then ([], true) else s.makeRoom gi need named 2600

/-- Spills the rows that `makeRoom` found. -/
def State.spillAll (s : State) (rows : List (Nat × Nat)) : State := rows.foldl (fun s x => s.spill x.1 x.2) s

/-- Starts the refill of a spilled row (R50), from the buffer or on the ls path (R76): it holds its granules and is empty until the refill
completes. -/
def State.startRefill (s : State) (a : Agent) (gi n : Nat) : State :=
  let before := s.group? gi
  let s := s.modGroup gi (fun gr =>
    let r := gr.row n
    gr.setRow n { r with backed := true, spilled := false, inBuffer := false, full := false, refilling := true })
  let s := match before with
    | some gr => if (gr.row n).inBuffer then s else (rowLines gr.ctx gi gr.width n).foldl (fun s l => s.areaRead (gi / 64) gr.ctx l) s
    | none => s
  (s.addOp { agent := a, core := gi / 64, ctx := s.ctxOf a, kind := .refill n }).2

end Sys2Proof.Machine
end

