-- ==== Sys2Proof/Machine/OpMap.lean ====
section
/-! DEFINITION. The opcode map (R128): the opcode of each constructor, and the constructor of each opcode and form. -/
namespace Sys2Proof.Machine

open Sys2Proof

/-- The form and opcode of a program instruction, with its fields (R117, R119, R121). -/
inductive Enc where
  | short (op : Nat) (f : Short)
  | ext (op : Nat) (f : Ext)
  deriving DecidableEq, Repr

/-- The form, opcode and fields of an instruction; none for the steps of the part that are no instruction words. -/
def encOf (i : Instr) : Option Enc :=
  match i with
  | .nopShort f => some (.short 0x00 f)
  | .nopExt f => some (.ext 0x00 f)
  | .bra f => some (.ext 0x01 f)
  | .brd f => some (.ext 0x02 f)
  | .brx f => some (.ext 0x03 f)
  | .call f => some (.ext 0x04 f)
  | .ret f => some (.ext 0x05 f)
  | .mjoin f => some (.ext 0x06 f)
  | .joinShort f => some (.short 0x07 f)
  | .joinExt f => some (.ext 0x07 f)
  | .exitShort f => some (.short 0x08 f)
  | .exitExt f => some (.ext 0x08 f)
  | .yieldShort f => some (.short 0x09 f)
  | .yieldExt f => some (.ext 0x09 f)
  | .setfmt f => some (.ext 0x0A f)
  | .getfmt f => some (.ext 0x0B f)
  | .trap f => some (.ext 0x0C f)
  | .tret f => some (.ext 0x0D f)
  | .sreg f => some (.ext 0x0E f)
  | .nap f => some (.ext 0x0F f)
  | .movShort f => some (.short 0x10 f)
  | .movExt f => some (.ext 0x10 f)
  | .sel f => some (.ext 0x11 f)
  | .addShort f => some (.short 0x12 f)
  | .addExt f => some (.ext 0x12 f)
  | .subShort f => some (.short 0x13 f)
  | .subExt f => some (.ext 0x13 f)
  | .mulShort f => some (.short 0x14 f)
  | .mulExt f => some (.ext 0x14 f)
  | .mulh f => some (.ext 0x15 f)
  | .mad f => some (.ext 0x16 f)
  | .div f => some (.ext 0x17 f)
  | .rem f => some (.ext 0x18 f)
  | .minShort f => some (.short 0x19 f)
  | .minExt f => some (.ext 0x19 f)
  | .maxShort f => some (.short 0x1A f)
  | .maxExt f => some (.ext 0x1A f)
  | .abs f => some (.ext 0x1B f)
  | .neg f => some (.ext 0x1C f)
  | .andShort f => some (.short 0x1D f)
  | .andExt f => some (.ext 0x1D f)
  | .orShort f => some (.short 0x1E f)
  | .orExt f => some (.ext 0x1E f)
  | .xorShort f => some (.short 0x1F f)
  | .xorExt f => some (.ext 0x1F f)
  | .andn f => some (.ext 0x20 f)
  | .not f => some (.ext 0x21 f)
  | .shlShort f => some (.short 0x22 f)
  | .shlExt f => some (.ext 0x22 f)
  | .shrShort f => some (.short 0x23 f)
  | .shrExt f => some (.ext 0x23 f)
  | .sarShort f => some (.short 0x24 f)
  | .sarExt f => some (.ext 0x24 f)
  | .rot f => some (.ext 0x25 f)
  | .bfe f => some (.ext 0x26 f)
  | .bfi f => some (.ext 0x27 f)
  | .bit f => some (.ext 0x28 f)
  | .cmp f => some (.ext 0x29 f)
  | .lea f => some (.ext 0x2A f)
  | .cvt f => some (.ext 0x2B f)
  | .shfl f => some (.ext 0x2C f)
  | .vote f => some (.ext 0x2D f)
  | .redg f => some (.ext 0x2E f)
  | .scan f => some (.ext 0x2F f)
  | .mop f => some (.ext 0x30 f)
  | .faddShort f => some (.short 0x31 f)
  | .faddExt f => some (.ext 0x31 f)
  | .fsubShort f => some (.short 0x32 f)
  | .fsubExt f => some (.ext 0x32 f)
  | .fmulShort f => some (.short 0x33 f)
  | .fmulExt f => some (.ext 0x33 f)
  | .fma f => some (.ext 0x34 f)
  | .fminShort f => some (.short 0x35 f)
  | .fminExt f => some (.ext 0x35 f)
  | .fmaxShort f => some (.short 0x36 f)
  | .fmaxExt f => some (.ext 0x36 f)
  | .fcmp f => some (.ext 0x37 f)
  | .fdiv f => some (.ext 0x38 f)
  | .fsqrt f => some (.ext 0x39 f)
  | .rcpa f => some (.ext 0x3A f)
  | .rsqa f => some (.ext 0x3B f)
  | .exp2a f => some (.ext 0x3C f)
  | .log2a f => some (.ext 0x3D f)
  | .sina f => some (.ext 0x3E f)
  | .cosa f => some (.ext 0x3F f)
  | .frnd f => some (.ext 0x40 f)
  | .fcls f => some (.ext 0x41 f)
  | .dot2 f => some (.ext 0x42 f)
  | .fscl f => some (.ext 0x43 f)
  | .rnc f => some (.ext 0x44 f)
  | .rnx f => some (.ext 0x45 f)
  | .rnmad f => some (.ext 0x46 f)
  | .pln f => some (.ext 0x47 f)
  | .upl f => some (.ext 0x48 f)
  | .pldot f => some (.ext 0x49 f)
  | .ldShort f => some (.short 0x4A f)
  | .ldExt f => some (.ext 0x4A f)
  | .stShort f => some (.short 0x4B f)
  | .stExt f => some (.ext 0x4B f)
  | .ldlShort f => some (.short 0x4C f)
  | .ldlExt f => some (.ext 0x4C f)
  | .stlShort f => some (.short 0x4D f)
  | .stlExt f => some (.ext 0x4D f)
  | .ldc f => some (.ext 0x4E f)
  | .smp f => some (.ext 0x4F f)
  | .ldt f => some (.ext 0x50 f)
  | .stt f => some (.ext 0x51 f)
  | .pref f => some (.ext 0x52 f)
  | .atom f => some (.ext 0x53 f)
  | .red f => some (.ext 0x54 f)
  | .fence f => some (.ext 0x55 f)
  | .pfence f => some (.ext 0x56 f)
  | .cmap f => some (.ext 0x57 f)
  | .cunmap f => some (.ext 0x58 f)
  | .cflush f => some (.ext 0x59 f)
  | .binit f => some (.ext 0x5A f)
  | .arrive f => some (.ext 0x5B f)
  | .waitb f => some (.ext 0x5C f)
  | .drain f => some (.ext 0x5D f)
  | .pin f => some (.ext 0x5E f)
  | .unpin f => some (.ext 0x5F f)
  | .reclaim f => some (.ext 0x60 f)
  | .cpy f => some (.ext 0x61 f)
  | .cpyY f => some (.ext 0x61 f)
  | .gth f => some (.ext 0x62 f)
  | .sct f => some (.ext 0x63 f)
  | .kick f => some (.ext 0x64 f)
  | .waitc f => some (.ext 0x65 f)
  | .empty f => some (.ext 0x66 f)
  | .spawn f => some (.ext 0x67 f)
  | .setom f => some (.ext 0x68 f)
  | .mldb f => some (.ext 0x69 f)
  | .mma f => some (.ext 0x6A f)
  | .mzero f => some (.ext 0x6B f)
  | .mdrain f => some (.ext 0x6C f)
  | .mscale f => some (.ext 0x6D f)
  | .setrp f => some (.ext 0x6E f)
  | .setcp f => some (.ext 0x6F f)
  | .sfmt f => some (.ext 0x70 f)
  | .vest f => some (.ext 0x71 f)
  | .vbound f => some (.ext 0x72 f)
  | .vcost f => some (.ext 0x73 f)
  | .vprobe f => some (.ext 0x74 f)
  | .vpol f => some (.ext 0x75 f)
  | .rld f => some (.ext 0x76 f)
  | .rst f => some (.ext 0x77 f)
  | .ratom f => some (.ext 0x78 f)
  | .coll f => some (.ext 0x79 f)
  | .sysr f => some (.ext 0x7A f)
  | .sysw f => some (.ext 0x7B f)
  | .mapf f => some (.ext 0x7C f)
  | .fltr f => some (.ext 0x7D f)
  | .cnt f => some (.ext 0x7E f)
  | .dbg f => some (.ext 0x7F f)
  | .yieldExpiry _ => none
  | .napExpiry _ => none
  | .waitbWake _ => none
  | .cpyYReactivate _ => none
  | .requestEntryStart _ => none
  | .requestEntryComplete _ => none
  | .spawnEnqueue _ => none
  | .matrixOpStart _ => none
  | .guardRelease _ => none
  | .matrixOpComplete _ => none
  | .loadDataArrival _ => none
  | .storeAck _ => none
  | .refillComplete _ => none
  | .spillWrite _ _ _ => none
  | .regionFillComplete _ _ _ => none
  | .copyBytesLanded _ => none
  | .copyRetire _ => none
  | .gatherRetire _ => none
  | .windowWriteLand _ => none
  | .engineFaultPark _ => none
  | .engineErrorRetire _ => none
  | .groupEnd _ => none
  | .dispatcherVisit => none
  | .teamAdmit _ => none
  | .compactStart _ => none
  | .compactSwap _ => none
  | .quiescence _ => none
  | .stallLimit _ => none
  | .vacate _ _ => none
  | .recallPair _ => none
  | .drainComplete _ => none
  | .saveComplete _ _ => none
  | .vacateCommit _ => none
  | .create _ _ => none
  | .assign _ _ _ => none
  | .restoreComplete _ => none
  | .release _ => none
  | .zeroingComplete _ _ => none
  | .exportImage _ => none
  | .imageImport _ => none
  | .driverReplay _ _ => none
  | .driverCancel _ _ => none
  | .translationInvalidate _ => none
  | .frameTest _ _ => none
  | .selfTest _ _ => none
  | .usageReport _ _ => none
  | .boundWrite _ _ => none
  | .sliceWrite _ _ => none
  | .qcfgWrite _ _ => none
  | .qtailWrite _ _ => none
  | .l2ModeWrite _ => none
  | .registerWrite _ _ => none
  | .hvResourceTake _ => none
  | .hvResourceFree _ => none
  | .traceUnitArm _ _ => none
  | .triggerFire _ _ => none
  | .breakArm _ _ => none
  | .debugResume _ => none
  | .research => none
  | .freedRingPush _ => none
  | .remoteRequestReceive _ => none
  | .remoteReply _ _ => none
  | .replayNotice _ _ => none
  | .remoteTimeout _ => none
  | .collStepStart _ => none
  | .collStepComplete _ _ _ => none
  | .receiveReduce _ _ _ _ => none
  | .innetRequest _ _ => none
  | .collTimeout _ => none
  | .portDown _ => none
  | .flitCrcError _ => none
  | .launchFrame _ _ _ => none
  | .coldReset _ _ _ => none
  | .warmReset _ _ _ => none
  | .recoveryImage _ => none
  | .thermalSample _ => none
  | .dieRestart _ => none
  | .eccError _ => none
  | .mapfCompletion _ => none
  | .pinSearchComplete _ => none
  | .ownerDeficitDebit _ => none
  | .powerLoss _ => none
  | .portRetrain _ => none
  | .logBufferReplay _ _ => none
  | .shareGroupRelease _ => none
  | .l2WritebackComplete => none
  | .drainChargeElapsed _ => none

/-- The constructor of a short form (R128). -/
def ofShort (op : Nat) (f : Short) : Option Instr :=
  match op with
  | 0x00 => some (.nopShort f)
  | 0x07 => some (.joinShort f)
  | 0x08 => some (.exitShort f)
  | 0x09 => some (.yieldShort f)
  | 0x10 => some (.movShort f)
  | 0x12 => some (.addShort f)
  | 0x13 => some (.subShort f)
  | 0x14 => some (.mulShort f)
  | 0x19 => some (.minShort f)
  | 0x1A => some (.maxShort f)
  | 0x1D => some (.andShort f)
  | 0x1E => some (.orShort f)
  | 0x1F => some (.xorShort f)
  | 0x22 => some (.shlShort f)
  | 0x23 => some (.shrShort f)
  | 0x24 => some (.sarShort f)
  | 0x31 => some (.faddShort f)
  | 0x32 => some (.fsubShort f)
  | 0x33 => some (.fmulShort f)
  | 0x35 => some (.fminShort f)
  | 0x36 => some (.fmaxShort f)
  | 0x4A => some (.ldShort f)
  | 0x4B => some (.stShort f)
  | 0x4C => some (.ldlShort f)
  | 0x4D => some (.stlShort f)
  | _ => none

/-- The constructor of an extended form (R128). -/
def ofExt (op : Nat) (f : Ext) : Option Instr :=
  match op with
  | 0x00 => some (.nopExt f)
  | 0x01 => some (.bra f)
  | 0x02 => some (.brd f)
  | 0x03 => some (.brx f)
  | 0x04 => some (.call f)
  | 0x05 => some (.ret f)
  | 0x06 => some (.mjoin f)
  | 0x07 => some (.joinExt f)
  | 0x08 => some (.exitExt f)
  | 0x09 => some (.yieldExt f)
  | 0x0A => some (.setfmt f)
  | 0x0B => some (.getfmt f)
  | 0x0C => some (.trap f)
  | 0x0D => some (.tret f)
  | 0x0E => some (.sreg f)
  | 0x0F => some (.nap f)
  | 0x10 => some (.movExt f)
  | 0x11 => some (.sel f)
  | 0x12 => some (.addExt f)
  | 0x13 => some (.subExt f)
  | 0x14 => some (.mulExt f)
  | 0x15 => some (.mulh f)
  | 0x16 => some (.mad f)
  | 0x17 => some (.div f)
  | 0x18 => some (.rem f)
  | 0x19 => some (.minExt f)
  | 0x1A => some (.maxExt f)
  | 0x1B => some (.abs f)
  | 0x1C => some (.neg f)
  | 0x1D => some (.andExt f)
  | 0x1E => some (.orExt f)
  | 0x1F => some (.xorExt f)
  | 0x20 => some (.andn f)
  | 0x21 => some (.not f)
  | 0x22 => some (.shlExt f)
  | 0x23 => some (.shrExt f)
  | 0x24 => some (.sarExt f)
  | 0x25 => some (.rot f)
  | 0x26 => some (.bfe f)
  | 0x27 => some (.bfi f)
  | 0x28 => some (.bit f)
  | 0x29 => some (.cmp f)
  | 0x2A => some (.lea f)
  | 0x2B => some (.cvt f)
  | 0x2C => some (.shfl f)
  | 0x2D => some (.vote f)
  | 0x2E => some (.redg f)
  | 0x2F => some (.scan f)
  | 0x30 => some (.mop f)
  | 0x31 => some (.faddExt f)
  | 0x32 => some (.fsubExt f)
  | 0x33 => some (.fmulExt f)
  | 0x34 => some (.fma f)
  | 0x35 => some (.fminExt f)
  | 0x36 => some (.fmaxExt f)
  | 0x37 => some (.fcmp f)
  | 0x38 => some (.fdiv f)
  | 0x39 => some (.fsqrt f)
  | 0x3A => some (.rcpa f)
  | 0x3B => some (.rsqa f)
  | 0x3C => some (.exp2a f)
  | 0x3D => some (.log2a f)
  | 0x3E => some (.sina f)
  | 0x3F => some (.cosa f)
  | 0x40 => some (.frnd f)
  | 0x41 => some (.fcls f)
  | 0x42 => some (.dot2 f)
  | 0x43 => some (.fscl f)
  | 0x44 => some (.rnc f)
  | 0x45 => some (.rnx f)
  | 0x46 => some (.rnmad f)
  | 0x47 => some (.pln f)
  | 0x48 => some (.upl f)
  | 0x49 => some (.pldot f)
  | 0x4A => some (.ldExt f)
  | 0x4B => some (.stExt f)
  | 0x4C => some (.ldlExt f)
  | 0x4D => some (.stlExt f)
  | 0x4E => some (.ldc f)
  | 0x4F => some (.smp f)
  | 0x50 => some (.ldt f)
  | 0x51 => some (.stt f)
  | 0x52 => some (.pref f)
  | 0x53 => some (.atom f)
  | 0x54 => some (.red f)
  | 0x55 => some (.fence f)
  | 0x56 => some (.pfence f)
  | 0x57 => some (.cmap f)
  | 0x58 => some (.cunmap f)
  | 0x59 => some (.cflush f)
  | 0x5A => some (.binit f)
  | 0x5B => some (.arrive f)
  | 0x5C => some (.waitb f)
  | 0x5D => some (.drain f)
  | 0x5E => some (.pin f)
  | 0x5F => some (.unpin f)
  | 0x60 => some (.reclaim f)
  | 0x61 => some (if f.sub = 1 then .cpyY f else .cpy f)
  | 0x62 => some (.gth f)
  | 0x63 => some (.sct f)
  | 0x64 => some (.kick f)
  | 0x65 => some (.waitc f)
  | 0x66 => some (.empty f)
  | 0x67 => some (.spawn f)
  | 0x68 => some (.setom f)
  | 0x69 => some (.mldb f)
  | 0x6A => some (.mma f)
  | 0x6B => some (.mzero f)
  | 0x6C => some (.mdrain f)
  | 0x6D => some (.mscale f)
  | 0x6E => some (.setrp f)
  | 0x6F => some (.setcp f)
  | 0x70 => some (.sfmt f)
  | 0x71 => some (.vest f)
  | 0x72 => some (.vbound f)
  | 0x73 => some (.vcost f)
  | 0x74 => some (.vprobe f)
  | 0x75 => some (.vpol f)
  | 0x76 => some (.rld f)
  | 0x77 => some (.rst f)
  | 0x78 => some (.ratom f)
  | 0x79 => some (.coll f)
  | 0x7A => some (.sysr f)
  | 0x7B => some (.sysw f)
  | 0x7C => some (.mapf f)
  | 0x7D => some (.fltr f)
  | 0x7E => some (.cnt f)
  | 0x7F => some (.dbg f)
  | _ => none

end Sys2Proof.Machine
end

