-- ==== Sys2Proof/WellFormed.lean ====
section
/-! DEFINITION. Which instructions are well formed: those whose fields pass every check of R131. -/
namespace Sys2Proof

open Sys2Proof.Machine

/-- The first check of R131 that an instruction's fields fail, in a decoding environment. -/
def Instr.failing (env : DecEnv) (i : Instr) : Option Nat :=
  match encOf i with
  | some (.short op f) => checkFields env op true (shortExt env.seq op f)
  | some (.ext op f) => checkFields env op false f
  | none => none

/-- A well-formed instruction: it has instruction words, they pass every check (R131), and its constructor is the one that
its opcode and fields name (the yield form of `cpy` has SUB 1, R215). Steps of the part have no words. -/
def Instr.wf (env : DecEnv) (i : Instr) : Bool :=
  match encOf i with
  | some (.short op f) => ofShort op f == some i && (checkFields env op true (shortExt env.seq op f)).isNone
  | some (.ext op f) => ofExt op f == some i && (checkFields env op false f).isNone
  | none => false

end Sys2Proof
end

