-- ==== Sys2Proof/Machine/Operands.lean ====
section
/-! DEFINITION. The operands of an issuing instruction (R118, R123 to R127, R155), the checks made at issue in the order of R327,
and how an instruction ends: its releases, its PC and counts. -/
namespace Sys2Proof.Machine

open Sys2Proof

/-- An instruction at issue: its agent, the fields of its slot, its resolved operands; `bRun` are the names after B. -/
structure Iss where
  agent : Agent
  seq : Bool
  gi : Nat
  core : Nat
  ctx : Nat
  team : Nat
  launch : Nat
  width : Nat
  smask : W64
  eff : W64
  fmt : W32
  pc : W64
  entry : W64
  op : Nat
  f : Ext
  desc : Desc
  short : Bool
  words : Nat
  d : Option Reg
  a : Option Reg
  b : Option Reg
  c : Option Reg
  bRun : List Reg
  lanes : List Nat
  rm : RM
  ftz : Bool
  handler : Bool
  deriving DecidableEq, Repr

/-- The rounding mode of a code (R121). -/
def rmOf (n : Nat) : RM := match n with | 0 => .rne | 1 => .rtz | 2 => .rdn | _ => .rup

/-- The decoding environment of an agent (R131): its side, width, views, the banks its core holds for the team (R40), and its fmt. -/
def State.decEnv (s : State) (a : Agent) : DecEnv :=
  match a with
  | .group g _ =>
    match s.group? g with
    | some gr =>
      { width := gr.width, vw1 := gr.vw1, vw2 := gr.vw2, vw3 := gr.vw3,
        nbanks := match s.team? gr.team with | some t => if t.core = g / 64 then t.nbanks else 0 | none => 0,
        fmt := ((s.slot? a).map (fun (sl : Slot) => sl.fmt)).getD 0 }
    | none => {}
  | .thread _ => { seq := true }

/-- The register that a field names, if the field is in use and its checks pass. -/
def regIn (env : DecEnv) (f : Ext) (k : FK) (code : BitVec 8) : Option Reg :=
  if k.used code.toNat && k.isReg then
    match k.reg env f code.toNat with | .ok r => some r | .error _ => none
  else none

/-- The value of the predicate mask (R125): with PM and PN 0 it is m0. -/
def predMask (g : Group) (smask : W64) (pm : BitVec 3) (pn : Bool) : W64 :=
  let v := if pm = 0 then smask else (g.m pm.toNat).val
  if pn then ~~~v else v

/-- The instruction that an agent issues, with its operands (R118, R125): none where the agent does not exist. -/
def mkIss (s : State) (op : Nat) (short : Bool) (f : Ext) : Option Iss :=
  let env := s.decEnv s.cur
  let desc := descIn env op f
  let words := if short then (if f.lit.isSome then 3 else 1) else if f.lit.isSome then 5 else 3
  let bReg := if f.lit.isSome then none else regIn env f desc.b f.b
  let base (core ctx team launch width : Nat) (smask eff : W64) (fmt : W32) (pc entry : W64) (gi : Nat) (h : Bool) : Iss :=
    { agent := s.cur, seq := env.seq, gi, core, ctx, team, launch, width, smask, eff, fmt, pc, entry, op, f, desc, short, words,
      d := regIn env f desc.d f.d, a := regIn env f desc.a f.a, b := bReg, c := regIn env f desc.c f.c,
      bRun := if f.lit.isSome then [] else (List.range 17).filterMap (fun j => regIn env f desc.b (f.b + BitVec.ofNat 8 (j + 1))),
      lanes := if f.u then (lanesOf width eff).take 1 else lanesOf width eff,
      rm := if short then rmOf (bits fmt 0 2).toNat else rmOf f.rm.toNat, ftz := !env.seq && fmt.getLsbD 2, handler := h }
  match s.cur with
  | .group g i =>
    match s.group? g with
    | none => none
    | some gr =>
      let sl := gr.slotOf i
      let eff := sl.mask &&& predMask gr sl.mask f.pm f.pn &&& allLanes gr.width
      some (base (g / 64) gr.ctx gr.team gr.launch gr.width sl.mask eff sl.fmt sl.pc gr.entry g (i == .handler))
  | .thread t =>
    match s.thread? t with
    | none => none
    | some th => some (base (t / 4) th.ctx th.team th.launch 1 1 1 0 th.slot.pc th.entry t false)

/-- A source register with its trap bit, last-use bit and operand number (R51, R330). -/
structure Src where
  reg : Reg
  trp : Bool
  last : Bool
  idx : Nat
  deriving DecidableEq, Repr

/-- The residue or plane format of an instruction of 0x44 to 0x49 (R182): TY, or the slot's fmt where TY is 0. -/
def Iss.planeFmt (i : Iss) : Nat := planeTy i.op i.f.ty.toNat i.fmt

/-- Registers after the first of an operand that covers several (R187, R188, R196, R197, R241). -/
def Iss.extraSrcs (i : Iss) : List Src :=
  let qs (r : Option Reg) (n : Nat) (trp : Bool) (idx : Nat) : List Src :=
    match r with
    | some (.q k) => (List.range n).map (fun j => { reg := .q (k + 1 + j), trp, last := false, idx })
    | _ => []
  let bs (n : Nat) : List Src := (i.bRun.take n).map (fun reg => { reg, trp := i.f.fb, last := i.f.lb, idx := 1 })
  match i.op with
  | 0x48 => qs i.a (tyPlanes i.planeFmt - 1) i.f.fa 0
  | 0x49 => qs i.a (tyPlanes i.planeFmt - 1) i.f.fa 0 ++ bs (tyPlanes i.planeFmt - 1)
  | 0x4F => qs i.a 1 i.f.fa 0 ++ bs 1
  | 0x50 | 0x51 => bs 1
  | 0x79 => qs i.a 1 i.f.fa 0
  | _ => []

/-- The registers that an instruction reads (R51, R54): its sources, the object register of `cpy` in D, and the old value that
`pln` keeps (R186). -/
def Iss.srcs (i : Iss) : List Src :=
  let one (r : Option Reg) (trp last : Bool) (idx : Nat) : List Src :=
    match r with | some r => [{ reg := r, trp, last, idx }] | none => []
  one i.a i.f.fa i.f.la 0 ++ one i.b i.f.fb i.f.lb 1 ++ one i.c i.f.fc i.f.lc 2 ++ i.extraSrcs ++
  (if i.op = 0x61 || i.op = 0x47 then one i.d false false 3 else [])

/-- The registers that an instruction names as destinations: D, and the success mask of `cas` (R201, R238). -/
def Iss.dstNames (i : Iss) : List Reg :=
  let k := (i.f.imm.toNat % 8)
  (match i.d, i.desc.d with
    | some r, .r _ | some r, .v _ | some r, .q | some r, .md => [r]
    | _, _ => []) ++
  (if ((i.op = 0x53 && i.f.sub = 7) || (i.op = 0x78 && i.f.xs = 7)) && k ≠ 0 && !i.seq then [.mask k] else [])

/-- Whether a register is written whatever the mask (R118): a q register of the forms that write it with U = 0, and an x register. -/
def Reg.wholeGroup : Reg → Bool
  | .q _ => true
  | .x _ => true
  | _ => false

/-- The forms that are per-lane accesses (R192, R216, R235, R241): with an empty effective mask they write no register and take no charge
(R212, R252). -/
def Iss.access (i : Iss) : Bool := decide (0x4A ≤ i.op) && decide (i.op ≤ 0x63) || decide (0x76 ≤ i.op) && decide (i.op ≤ 0x79)

/-- A per-lane access with an empty effective mask: nothing is issued (R212, R252). -/
def Iss.issuesNone (i : Iss) : Bool := i.access && i.eff == 0

/-- The registers that an instruction writes: with an empty effective mask no mask register (R171), and a row only in the sense that the
rename stage backs it, which a per-lane access does not (R46, R212, log 19). -/
def Iss.dsts (i : Iss) : List Reg :=
  i.dstNames.filter (fun r => i.eff != 0 || r.wholeGroup || (match r with | .mask _ => false | _ => !i.access))

/-- Whether a unit is full, for the issuing agent. -/
def State.fullFor (s : State) (i : Iss) (u : Unit1) : Bool :=
  if i.seq then (match s.thread? i.gi, u with | some t, .x n => (t.x n).full | _, _ => true)
  else match s.group? i.gi with | some g => s.unitFull i.gi g u | none => true

/-- The ready cycle of a unit, for the issuing agent (R54). -/
def State.readyFor (s : State) (i : Iss) (u : Unit1) : Nat :=
  if i.seq then (match s.thread? i.gi, u with | some t, .x n => (t.x n).ready | _, _ => 0)
  else match s.group? i.gi with | some g => g.unitReady u | none => 0

/-- Rows of the units of a list of registers. -/
def rowsOf (rs : List Reg) : List Nat :=
  rs.flatMap (fun r => r.units.filterMap (fun u => match u with | .row n => some n | _ => none))

/-- Whether an instruction writes the whole of its destination rows (R46): every lane and all 32 bits. With U = 1 a group operation
writes one lane (R148, log 80). -/
def Iss.wholeWrite (i : Iss) : Bool :=
  i.eff == allLanes i.width && !(i.f.u && 0x2C ≤ i.op && i.op ≤ 0x2F) && (match i.d with | some (.vec _ (.half _)) | some (.vec _ (.byte _)) => false | _ => true)

/-- What the issue of one kind of instruction adds to the common checks. -/
structure Hooks where
  /-- A use or value that is ILLEGAL at execution (R330, check 12). -/
  illegal : Iss → State → Bool := fun _ _ => false
  /-- A reason to wait: a counter at its limit, a fence part. -/
  hold : Iss → State → Bool := fun _ _ => false
  /-- The charge, lines and reservation of its Δ (R105). -/
  delta : Iss → State → Delta := fun _ _ => {}
  /-- Whether it is a synchronising operation, `pfence`, `drain` or `exit` (R342). -/
  sync : Bool := false
  /-- Which held engine errors it delivers, beside those whose destination it reads (R239, R350, R357). -/
  takes : Iss → HeldError → Bool := fun _ _ => false

/-- The mask register that the predicate reads (R125). -/
def Iss.predUnits (i : Iss) : List Unit1 := if i.f.pm ≠ 0 && !i.seq then [.m i.f.pm.toNat] else []

/-- The units that an instruction reads (R51, R54): its sources and its predicate. -/
def Iss.reads (i : Iss) : List Unit1 := i.srcs.flatMap (fun x => x.reg.units) ++ i.predUnits

/-- Whether the notice of a discarded logged store is held (R357): code 9, which fabric-scope releases take too. -/
def HeldError.discarded (e : HeldError) : Bool := e.cause == .rfault && bits e.detail 0 8 == 9

/-- Whether a request has acquire ordering (R236, R240). -/
def RemoteReq.acquires (r : RemoteReq) : Bool := r.ordering == 1 || r.ordering == 3 || r.ordering == 4

/-- Whether a `reclaim` of the agent has its status outstanding, or an acquiring remote operation of its slot still awaits replies: its
later accesses wait (R240, R283). -/
def State.searching (s : State) (a : Agent) : Bool :=
  s.ops.any (fun o => match o.2.kind with
    | .search _ _ _ _ => o.2.agent.base == a.base
    | .remote _ _ req _ _ _ _ _ _ => o.2.agent == a && req.acquires && !o.2.finished
    | _ => false)

/-- What the common checks leave for the end of the instruction: the rows to spill, whether RELRD is set (R48), and a lost row that the
instruction reads for its data or has to merge with (R330). -/
structure Prep where
  spills : List (Nat × Nat) := []
  relrd : Bool := false
  lost : Option Nat := none
  deriving DecidableEq, Repr

/-- The rows of a group that a read or a partial write has to refill first (R50). -/
def refillRows (i : Iss) (g : Group) : List Nat :=
  let srcRows := rowsOf (i.srcs.map (fun (x : Src) => x.reg))
  let dstRows := if i.wholeWrite then [] else rowsOf i.dsts
  ((srcRows ++ dstRows).eraseDups).filter (fun n => (g.row n).spilled)

/-- Granules that some rows of a group need to be backed (R46, R47). -/
def Group.granulesFor (g : Group) (rows : List Nat) : Nat :=
  (rows.eraseDups.filter (fun n => !(g.row n).backed)).length * (g.width / 16)

/-- The sources, destinations and predicate that an instruction waits for (R50, R51). -/
def blockedOn (i : Iss) (s : State) : Bool :=
  let g? := if i.seq then none else s.group? i.gi
  let refilling (u : Unit1) : Bool := match u, g? with | .row n, some g => (g.row n).refilling | _, _ => false
  i.srcs.any (fun x => x.reg.units.any (fun u => !s.fullFor i u && (!x.trp || refilling u))) ||
    i.dsts.any (fun r => r.units.any (fun u => !s.fullFor i u))

/-- The bank, lost by a save, that an instruction reads through an accumulator view (R337). -/
def State.lostBank (s : State) (i : Iss) : Option Nat :=
  match s.team? i.team with
  | none => none
  | some t => (i.srcs.findSome? (fun (x : Src) => match x.reg with
      | .acc b _ _ => if s.lost.contains (1000000 + 16 * i.core + t.bank0 + b) then some b else none
      | _ => none))

/-- A cause held for the agent that this instruction has to take (R239, R337, R342, R350): the trap, on the state without it. An access that
issues nothing takes what it reads alone (R252). -/
def heldTrap (h : Hooks) (i : Iss) (s : State) : Option (State × Trap) :=
  let hits (rs : List Reg) : Bool := rs.any (fun r => r.units.any (fun u => i.reads.contains u))
  match (s.slot? i.agent).bind (fun sl => sl.owes) with
  | some e => some (s.modSlot i.agent (fun sl => { sl with owes := none }),
                    { cause := e.cause, addr := e.addr, lanes := e.lanes, detail := e.detail, ipoff := e.ipoff })
  | none =>
  match (s.agentState? i.agent).bind (fun ag => ag.late.find? (fun l => (h.sync && !i.issuesNone) || hits l.dsts)) with
  | some l => some (s.modAgent i.agent (fun ag => { ag with late := ag.late.erase l }),
                    { cause := l.cause, addr := l.addr, lanes := some l.lanes, detail := l.detail })
  | none =>
    match (s.group? i.gi).bind (fun g => if i.seq then none else g.errors.find? (fun e => (h.takes i e && !i.issuesNone) || hits e.dst.toList)) with
    | some e => some (s.modGroup i.gi (fun g => { g with errors := g.errors.erase e }),
                      { cause := e.cause, addr := e.addr, lanes := e.lanes, detail := e.detail, ipoff := e.ipoff })
    | none => (s.lostBank i).map (fun b => (s, { cause := .dataerr, addr := BitVec.ofNat 64 b }))

/-- Whether an operation is a vector operation of R21: a per-lane one with U = 0, or one with U = 0 that writes a vector. That `sreg`,
`getfmt` and `sysr` with a vector D are such operations is the model's reading (DEDUCED, log 84). -/
def Iss.vectorOp (i : Iss) : Bool :=
  !i.seq && !i.f.u && ((0x10 ≤ i.op && i.op ≤ 0x54) || i.op = 0x62 || i.op = 0x63 || (0x76 ≤ i.op && i.op ≤ 0x79) ||
    (match i.d with | some (.vec _ _) => true | _ => false))

/-- How many cycles an instruction holds its port (R21, R53). That TY alone, the destination type of `cvt`, makes a 64-bit operation is
the model's reading (DEDUCED, log 84). -/
def Iss.hold (i : Iss) : Nat :=
  if i.vectorOp then (if i.width = 64 then 2 else 1) * (if 0x10 ≤ i.op && i.op ≤ 0x43 && tyBits i.f.ty.toNat = 64 then 2 else 1) else 1

/-- Whether port A takes an instruction of a group (R22). -/
def Iss.onPortA (i : Iss) : Bool := 0x10 ≤ i.op && i.op ≤ 0x49 && !i.f.u

/-- The half of the quarter's datapath that a 16-lane group is bound to (R23); 2 for wider groups. -/
def State.halfOf (s : State) (gi : Nat) : Nat :=
  match s.group? gi with | some g => if g.width = 16 then (if g.half then 1 else 0) else 2 | none => 2

/-- Whether port A may issue an operation of a 16-lane group beside the first candidate of the same cycle (R23): that one is of a
16-lane group bound to the other half. -/
def Core.pairs (c : Core) (q half now : Nat) : Bool := half < 2 && FMap.find c.firstA q == some (now, 1 - half)

/-- A port of the quarter is held until a cycle at least (R21 to R23): port B; both halves of port A, or, for a 16-lane group's operation, its
own half. Then the next candidate of port A is a first one, unless it pairs with this. -/
def Core.holdPort (c : Core) (q : Nat) (portA : Bool) (half now till : Nat) : Core :=
  let held (m : FMap Nat) : FMap Nat := FMap.put m q (max till (FMap.at 0 m q))
  if !portA then { c with portB := held c.portB }
  else
    let c' : Core := { c with firstA := FMap.put c.firstA q (now, if c.pairs q half now then 2 else half) }
    match half with
    | 0 => { c' with portA0 := held c.portA0 }
    | 1 => { c' with portA1 := held c.portA1 }
    | _ => { c' with portA0 := held c.portA0, portA1 := held c.portA1 }

/-- The first cycle from `now` on in which a port of the quarter takes an operation (R21 to R23). -/
def Core.portFrom (c : Core) (q : Nat) (portA : Bool) (half now : Nat) : Nat :=
  if !portA then max now (FMap.at 0 c.portB q)
  else if c.pairs q half now && FMap.at 0 (if half = 0 then c.portA0 else c.portA1) q ≤ now then now
  else max now (max (FMap.at 0 c.portA0 q) (FMap.at 0 c.portA1 q))

/-- The place of an instruction's port among the slots that R312 counts: its quarter and port. -/
def Iss.portKey (i : Iss) : Nat := 2 * (i.gi / 16 % 4) + (if i.onPortA then 1 else 0)

/-- Whether a candidate of port A is the second of the cycle (R23). -/
def Iss.isSecond (i : Iss) (s : State) (c : Core) : Bool := i.onPortA && c.pairs (i.gi / 16 % 4) (if i.vectorOp then s.halfOf i.gi else 2) s.now

/-- The port that has selected an instruction which does not issue selects nothing else in the cycle (R267). -/
def Iss.usesPort (i : Iss) (s : State) : State :=
  if i.seq then s else s.modCore i.core (fun c => c.holdPort (i.gi / 16 % 4) i.onPortA 2 s.now (s.now + 1))

/-- A group's candidate whose check fails is placed last in recency, its port issues nothing else in the cycle (R267), and the port's slot
counts under its resource stall (R107, R312). A sequencer thread keeps its place (R253). -/
def Iss.passedOver (i : Iss) (s : State) : State :=
  if i.seq then s
  else i.usesPort ((s.modSlot i.agent (fun sl => { sl with lastIssue := s.now })).modCore i.core (fun c =>
    if i.isSecond s c then c else { c with slots := FMap.put c.slots i.portKey [(0x13, s.now + 1)] }))

/-- The check of a candidate (R105, R107, R333): it passes; a group with the trap policy takes VBOUND; any other candidate stalls. -/
def Iss.duskCheck (i : Iss) (s : State) (d : Delta) : Res Unit :=
  match s.duskFails i.core i.ctx d with
  | none => .ok ()
  | some (_, detail) =>
    if s.trapPolicy i.agent then .error (.trapAt (i.passedOver s) { cause := .vbound, detail })
    else .error (.wait ((i.passedOver s).stallOn i.agent d))

/-- The row that an instruction has to refill and that its spill has lost (R330), if there is one. -/
def lostRow (rows : List Nat) (g? : Option Group) : Option Nat :=
  rows.find? (fun n => match g? with | some g => (g.row n).lost | none => false)

/-- The rows from which an access forms its addresses, A and B but for the operand B of `atom` and `red`; every row of another instruction. -/
def Iss.addrRows (i : Iss) : List Nat :=
  let forms (x : Src) : Bool := !i.access || x.idx == 0 || (x.idx == 1 && i.op != 0x53 && i.op != 0x54)
  rowsOf ((i.srcs.filter forms).map (fun (x : Src) => x.reg))

/-- DATAERR of a lost row (R330). -/
def lostTrap (n : Nat) : Trap := { cause := .dataerr, detail := BitVec.ofNat 64 n }

/-- The checks made at issue: blocks (R51), then ILLEGAL at execution, SCHED, RELRD, FEMPTY and VBOUND in the order of R327, one Δ for all
that the instruction adds (R105); then a lost row's DATAERR (R330), the refills of spilled rows (R50), for which it waits, and the
granules of its destinations (R46, R49). Where several registers fail one check, the first of them is named in the order A, B, C, the further
rows and registers of these operands, D, the predicate (DESIGN CHOICE, log 109). -/
def prepare (h : Hooks) (i : Iss) (s : State) : Res Prep :=
  if i.f.pm ≠ 0 && !i.seq && !s.fullFor i (.m i.f.pm.toNat) then .error (.wait s)
  else if decide (0x4A ≤ i.op) && s.searching i.agent then .error (.wait s)
  else if i.f.u && i.eff == 0 then .ok {}
  else
    let g? := if i.seq then none else s.group? i.gi
    let refill := match g? with | some g => refillRows i g | none => []
    let srcRows := rowsOf (i.srcs.map (fun (x : Src) => x.reg))
    let named := srcRows ++ rowsOf i.dsts
    if blockedOn i s || h.hold i s then .error (.wait s)
    else if h.illegal i s then .error (.trap (Trap.illegal 12))
    else
      match i.reads.find? (fun u => decide (s.now < s.readyFor i u)) with
      | some u => .error (.trap { cause := .sched, detail := u.detail ||| BitVec.ofNat 64 (65536 * (s.readyFor i u - s.now)) })
      | none =>
        let bare := match g? with
          | some g => srcRows.find? (fun n => !(g.row n).backed && !(g.row n).spilled && (g.row n).full)
          | none => none
        let strict := match g? with | some g => g.strict | none => false
        match bare, strict with
        | some n, true => .error (.trap { cause := .relrd, detail := BitVec.ofNat 64 n })
        | _, _ =>
          match i.srcs.find? (fun x => x.reg.units.any (fun u => !s.fullFor i u)) with
          | some x =>
            let u := (x.reg.units.find? (fun u => !s.fullFor i u)).getD (.row 0)
            .error (.trap { cause := .fempty, detail := u.detail ||| BitVec.ofNat 64 (65536 * x.idx) })
          | none => do
            let gran (rows : List Nat) : Nat := match g? with | some g => g.granulesFor rows | none => 0
            i.duskCheck s { h.delta i s with backing := gran (rowsOf i.dsts ++ refill) }
            match lostRow refill g?, heldTrap h i s with
            | some n, some (s', t) => if t.cause.rank < Cause.dataerr.rank then .error (.trapAt s' t) else .error (.trap (lostTrap n))
            | some n, none => if refill.any (fun r => i.addrRows.contains r && (lostRow [r] g?).isSome) then .error (.trap (lostTrap n)) else .ok { lost := some n }
            | none, _ =>
              let (sp, ok) := s.roomFor i.gi (gran (if refill.isEmpty then rowsOf i.dsts else refill)) named
              if !ok then .error (.wait (s.spillAll sp))
              else if refill.isEmpty then .ok { spills := sp, relrd := bare.isSome }
              else .error (.wait (refill.foldl (fun s n => s.startRefill i.agent i.gi n) (s.spillAll sp)))

/-- The latency of the class of an opcode (R53); 0 for opcodes in no class. -/
def latencyOf (op : Nat) : Nat :=
  if op = 0x17 || op = 0x18 || op = 0x38 || op = 0x39 then 24
  else if op = 0x2B || op = 0x44 || op = 0x45 then 6
  else if op = 0x2C || op = 0x47 || op = 0x48 then 8
  else if (0x2D ≤ op && op ≤ 0x2F) || op = 0x49 then 12
  else if 0x3A ≤ op && op ≤ 0x3F then 12
  else if (0x31 ≤ op && op ≤ 0x37) || (0x40 ≤ op && op ≤ 0x43) then 6
  else if op = 0x0B || op = 0x0E || (0x10 ≤ op && op ≤ 0x16) || (0x19 ≤ op && op ≤ 0x2A) || op = 0x30 || op = 0x46 ||
    (0x71 ≤ op && op ≤ 0x74) || op = 0x7A then 4
  else 0

/-- The ready cycle of what the instruction writes (R54); an instruction of no class leaves a register's ready cycle as it is (R55). -/
def Iss.readyCycle (i : Iss) (s : State) : Option Nat :=
  if latencyOf i.op = 0 then none else some (s.now + i.hold - 1 + latencyOf i.op)

/-- The raw bits that an operand supplies in a lane: a register, or the literal (R127). -/
def Iss.read (i : Iss) (s : State) (r : Option Reg) (lane : Nat) : W64 :=
  match r with
  | none => 0
  | some r =>
    if i.seq then (match s.thread? i.gi, r with | some t, .x n => (t.x n).val | _, _ => 0)
    else match s.group? i.gi with | some g => s.readGroupReg i.gi g i.smask r lane | none => 0

/-- Operand A in a lane. -/
def Iss.va (i : Iss) (s : State) (lane : Nat) : W64 := i.read s i.a lane
/-- Operand B in a lane: the literal where there is one. -/
def Iss.vb (i : Iss) (s : State) (lane : Nat) : W64 := match i.f.lit with | some l => l | none => i.read s i.b lane
/-- Operand C in a lane. -/
def Iss.vc (i : Iss) (s : State) (lane : Nat) : W64 := i.read s i.c lane
/-- Operand D, where it is a source. -/
def Iss.vd (i : Iss) (s : State) (lane : Nat) : W64 := i.read s i.d lane

/-- Writes a q register. -/
def State.putQ (s : State) (gi n : Nat) (v : W64) (ready : Option Nat) : State :=
  s.modGroup gi (fun g => let c := g.q n; g.setQ n { c with val := v, ready := ready.getD c.ready })

/-- Writes an x register. -/
def State.putX (s : State) (t n : Nat) (v : W64) (ready : Option Nat) : State :=
  s.modThread t (fun th => let c := th.x n; th.setX n { c with val := v, ready := ready.getD c.ready })

/-- Writes lane results to a register (R46, R118): through a vector name in the lanes given; a q or x register takes the value
of the first lane. Values are extended to 64 bits. -/
def Iss.writeTo (i : Iss) (s : State) (r : Reg) (vals : FMap W64) (ready : Option Nat) : State :=
  match r with
  | .vec n p => if vals.isEmpty then s else s.modGroup i.gi (fun g => g.writeVec n p s.now ready vals)
  | .q n => match vals with | (_, v) :: _ => s.putQ i.gi n v ready | [] => s
  | .x n => match vals with | (_, v) :: _ => s.putX i.gi n v ready | [] => s
  | _ => s

/-- Lane results spread for U = 1: the single value goes to every lane of the effective mask (R118). -/
def Iss.spread (i : Iss) (vals : FMap W64) : FMap W64 :=
  if i.f.u && !i.seq then (match vals with | (_, v) :: _ => (lanesOf i.width i.eff).map (fun l => (l, v)) | [] => []) else vals

/-- Writes the results of a fixed-latency instruction to D (R54, R118). -/
def Iss.writeD (i : Iss) (s : State) (vals : FMap W64) : State :=
  match i.d with
  | some r => i.writeTo s r (i.spread vals) (i.readyCycle s)
  | none => s

/-- One value per lane that the instruction computes (R118). -/
def Iss.eachLane (i : Iss) (f : Nat → W64) : FMap W64 := i.lanes.map (fun l => (l, f l))

/-- Rows released by last-use bits (R46), whatever the mask; a row that is also a destination keeps its granules. None where the
instruction does nothing (R118). -/
def Iss.releases (i : Iss) : List Nat :=
  let keep := rowsOf i.dstNames
  if i.f.u && i.eff == 0 then [] else (rowsOf ((i.srcs.filter (fun (x : Src) => x.last)).map (fun (x : Src) => x.reg))).filter (fun n => !keep.contains n)

/-- A destination row that the instruction has not written is backed all the same, and reads as zero (R46). -/
def Group.backRow (now : Nat) (g : Group) (n : Nat) : Group :=
  let r := g.row n
  if r.backed || r.spilled then g else g.setRow n { r with backed := true, written := now, data := List.replicate g.width 0 }

/-- The destination rows that the rename stage backs (R46): none where the instruction does nothing (R118). -/
def Iss.backs (i : Iss) : List Nat := if i.f.u && i.eff == 0 then [] else rowsOf i.dsts

/-- The end of an instruction's register work: spills, backing (R46), RELRD (R48), last-use releases (R46). -/
def Iss.settle (i : Iss) (p : Prep) (s : State) : State :=
  if i.seq then s
  else
    let s := s.spillAll p.spills
    s.modGroup i.gi (fun g => i.releases.foldl Group.release (i.backs.foldl (Group.backRow s.now) { g with relrd := g.relrd || p.relrd }))

/-- The leaf of the top-down tree of an issued instruction (R312). -/
def Iss.leaf (i : Iss) : Nat :=
  let acc (r : Option Reg) := match r with | some (.acc _ _ _) => true | _ => false
  if acc i.a || acc i.b || acc i.c then 0x01
  else if 0x4A ≤ i.op && i.op ≤ 0x60 then 0x02
  else if (0x61 ≤ i.op && i.op ≤ 0x67) || (0x76 ≤ i.op && i.op ≤ 0x79) then 0x03
  else if i.op ≤ 0x0F || (0x71 ≤ i.op && i.op ≤ 0x75) || 0x7A ≤ i.op then 0x04
  else if i.f.u then 0x05 else 0x06

/-- Advances the running counters of the core's banks that count a leaf in a quarter (R250, R313); a stopped clock counts nothing (R368). -/
def State.countLeaf (s : State) (core qtr code n : Nat) : State :=
  if n = 0 || s.clockStopped core then s
  else s.modCore core (fun c => { c with counters := c.counters.map (fun b =>
    (b.1, { b.2 with ctrs := b.2.ctrs.map (fun k => match k.2.select, k.2.since with
      | some e, some _ => if (bits e 0 8).toNat == code && (e.getLsbD 10 || (bits e 8 2).toNat == qtr) then (k.1, { k.2 with count := k.2.count + n }) else k
      | _, _ => k) })) })

/-- The ordinal of the stop site at a PC, if the kernel's safe-point table at physical memory has one (R316): entries are read
through the agent's own translation. -/
def State.safePoint (s : State) (core ctx : Nat) (spt : W64) (poff : W32) : Option (BitVec 16) :=
  if spt = 0 then none
  else
    let rd (va : W64) (n : Nat) : Option Nat := match (s.translate core ctx va { r := true }).2 with
      | .ok pa => some (Mem.readNat s.mem pa n) | .error _ => none
    match rd spt 2 with
    | none => none
    | some n => (List.range n).findSome? (fun k =>
        match rd (spt + BitVec.ofNat 64 (16 + 64 * k)) 8 with
        | some w => if w % 2 ^ 32 = poff.toNat then some (BitVec.ofNat 16 (w / 2 ^ 32)) else none
        | none => none)

/-- The safe-point table of the issuing agent's kernel. -/
def State.sptOf (s : State) : Agent → W64
  | .group g _ => ((s.group? g).map (fun (x : Group) => x.spt)).getD 0
  | .thread t => ((s.thread? t).map (fun (x : Thread) => x.spt)).getD 0

/-- The issue of an instruction is complete: counts (R146, R307), stop site (R316), recency and ports (R21, R22, R267). -/
def Iss.issued (i : Iss) (s : State) : State :=
  let ord := if i.f.s then s.safePoint i.core i.ctx (s.sptOf i.agent) (poffOf i.entry i.pc) else none
  let s := s.modAgent i.agent (fun ag => { ag with icnt := ag.icnt + 1, ord := ord.getD ag.ord })
  let s := s.addUsage (s.ownerOf i.ctx) 13 1
  let s := s.modSlot i.agent (fun sl => { sl with lastIssue := s.now, notBefore := s.now + 1, stall := none, leaf := 0x13 })
  if i.seq then s.modCore i.core (fun c => { c with seqFree := s.now + 1 })
  else
    let q := i.gi / 16 % 4
    let half := if i.vectorOp then s.halfOf i.gi else 2
    s.modCore i.core (fun c =>
      let before := if i.isSecond s c then FMap.at [] c.slots i.portKey else []
      { c.holdPort q i.onPortA half s.now (s.now + i.hold) with
        lastIssue := s.now, slots := FMap.put c.slots i.portKey (before ++ [(i.leaf, s.now + i.hold)]) })

/-- The PC moves to the next instruction in program order (R114). -/
def Iss.nextPc (i : Iss) (s : State) : State :=
  s.modSlot i.agent (fun sl => { sl with pc := i.pc + BitVec.ofNat 64 (4 * i.words) })

/-- The trapped instruction's length is kept for `tret.skip` (R144); its port selects nothing else in the cycle (R267). -/
def Iss.markLen (i : Iss) (s : State) : State := i.usesPort (s.modSlot i.agent (fun sl => { sl with tlen := i.words }))

/-- Whether the check of an agent's instruction has failed in this cycle (R107, R333). -/
def State.failedCheck (s : State) (a : Agent) : Bool := ((s.slot? a).bind (fun sl => sl.stall)).any (fun x => x.last == s.now)

/-- The ordering of a remote operation (R236): 0 rlx, 1 acq, 2 rel, 3 acquire and release, 4 sc. -/
def Iss.remOrder (i : Iss) : Nat := if i.op = 0x78 then i.f.imm.toNat / 16 % 8 else i.f.xs.toNat

/-- Whether a remote operation has release ordering, which waits for the group's earlier remote stores (R240, R357). -/
def Iss.remoteRelease (i : Iss) : Bool := (i.op == 0x77 || i.op == 0x78) && decide (2 ≤ i.remOrder)

/-- The leaf of R312 under which the slots of a waiting instruction's port count: 0x13 where its check has failed (R107), 0x12 where it waits
for a full/empty bit or a refill, 0x14 for a synchronising instruction, a release or a pin search, and 0x13 for the rest, a request of the
rename stage that waits for granules (R49) among them. -/
def Iss.waitLeaf (i : Iss) (s : State) : Nat :=
  if s.failedCheck i.agent then 0x13
  else if i.predUnits.any (fun u => !s.fullFor i u) || blockedOn i s then 0x12
  else if s.searching i.agent || [0x55, 0x56, 0x5A, 0x5B, 0x5C, 0x5D, 0x5E, 0x5F, 0x60, 0x65, 0x67].contains i.op || i.remoteRelease then 0x14
  else 0x13

/-- An instruction that waits tries again in a later cycle; a stall lasts only while the check fails in every cycle (R333). -/
def Iss.waited (i : Iss) (s : State) : State :=
  s.modSlot i.agent (fun sl => { sl with
    notBefore := s.now + 1, tlen := i.words, leaf := i.waitLeaf s, stall := if s.failedCheck i.agent then sl.stall else none })

/-- The outcome of an instruction: a trap is taken on the state before it (R326), a wait leaves its own state and tries again in a later
cycle, and a completed instruction is counted. -/
def Iss.finish (i : Iss) (s : State) (r : Res State) : Out :=
  match r with
  | .ok s' => .next (i.issued s')
  | .error (.trap t) => .next ((i.markLen s).takeTrap i.agent t)
  | .error (.trapAt s' t) => .next ((i.markLen s').takeTrap i.agent t)
  | .error (.wait s') => .next (i.waited s')
  | .error (.fault x) => .fault x
  | .error (.idle _) => .next s

/-- The effect of an instruction that has passed its checks, where a cause may be held for it (R327, R342, R350): the held cause is taken
instead, unless the instruction has a cause of its own that comes first, or has to wait. -/
def Iss.effect (i : Iss) (h : Hooks) (body : Iss → State → Res State) (s : State) : Res State :=
  match heldTrap h i s with
  | none => body i s
  | some (s', t) =>
    match body i s with
    | .error (.trap u) => if u.cause.rank < t.cause.rank then .error (.trap u) else .error (.trapAt s' t)
    | .error (.trapAt w u) => if u.cause.rank < t.cause.rank then .error (.trapAt w u) else .error (.trapAt s' t)
    | .error (.wait w) => .error (.wait w)
    | _ => .error (.trapAt s' t)

/-- An access with a lost row among its data (R327, R330, R340): a cause of its own that comes first is taken, and else DATAERR; nothing is
performed. -/
def Iss.lostData (i : Iss) (n : Nat) (body : Iss → State → Res State) (s : State) : Res State :=
  match body i s with
  | .error (.trap u) => if u.cause.rank < Cause.dataerr.rank then .error (.trap u) else .error (.trap (lostTrap n))
  | .error (.trapAt w u) => if u.cause.rank < Cause.dataerr.rank then .error (.trapAt w u) else .error (.trap (lostTrap n))
  | .error (.wait w) => .error (.wait w)
  | _ => .error (.trap (lostTrap n))

/-- Runs an instruction: the checks of `prepare`, its effect, and its end. `ctl` marks the instructions that set the PC
themselves. With U = 1 and an empty effective mask nothing happens but that the PC moves on (R118). -/
def runIss (h : Hooks) (op : Nat) (short : Bool) (ctl : Bool) (f : Ext) (body : Iss → State → Res State) (s : State) : Out :=
  match mkIss s op short f with
  | none => .fault .noAgent
  | some i =>
    i.finish s (do
      let p ← prepare h i s
      let s' ← if f.u && i.eff == 0 && !ctl && i.desc.pred then pure s
        else match p.lost with | some n => i.lostData n body s | none => i.effect h body s
      pure (if ctl then i.settle p s' else i.nextPc (i.settle p s')))

/-- Runs an extended form. -/
def runExt (h : Hooks) (op : Nat) (f : Ext) (body : Iss → State → Res State) (s : State) : Out := runIss h op false false f body s

/-- Runs a short form (R119), as the extended fields it stands for. -/
def runShort (h : Hooks) (op : Nat) (f : Short) (body : Iss → State → Res State) (s : State) : Out :=
  runIss h op true false (shortExt (match s.cur with | .thread _ => true | _ => false) op f) body s

/-- Runs an instruction that sets the PC itself. -/
def runCtl (h : Hooks) (op : Nat) (f : Ext) (body : Iss → State → Res State) (s : State) : Out := runIss h op false true f body s

end Sys2Proof.Machine
end

