-- ==== Sys2Proof/Machine/Pins.lean ====
section
/-! DEFINITION. The hub's pin machinery (R282 to R289, R361 to R363): pin CAMs, the swapped-out pin directory, the deferred list and
its name filter, the freed ring; and accesses that the hub makes for a context. -/
namespace Sys2Proof.Machine

open Sys2Proof

/-! Accesses of the hub on behalf of a context -/

/-- The number under which the hub's translations are cached: above every core. -/
def hubCore : Nat := 160

/-- A word of `n` bytes (2, 4 or 8, naturally aligned) read through a context's translation, or the cause and its REASON. -/
def State.hubRead (s : State) (ctx : Nat) (va : W64) (n : Nat) : State × Except (Cause × Nat) Nat :=
  if va.toNat % n ≠ 0 then (s, .error (.align, 0))
  else match s.translate hubCore ctx va { r := true } with
    | (s, .error e) => (s, .error e)
    | (s, .ok pa) => s.homeRead ctx pa n

/-- A word of `n` bytes written through a context's translation. -/
def State.hubWrite (s : State) (ctx : Nat) (va : W64) (n v : Nat) : State × Except Cause Unit :=
  if va.toNat % n ≠ 0 then (s, .error .align)
  else match s.translate hubCore ctx va { w := true } with
    | (s, .error (c, _)) => (s, .error c)
    | (s, .ok pa) => match s.homeWrite ctx pa (leBytes n v) with
      | (s, .ok ()) => (s, .ok ())
      | (s, .error (c, _)) => (s, .error c)

/-- A write of the hub with release ordering at device scope (R35, R289): the line it writes takes a fresh epoch (R347). -/
def State.hubRelease (s : State) (ctx : Nat) (va : W64) (n v : Nat) : State × Except Cause Unit :=
  match s.hubWrite ctx va n v with
  | (s, .ok ()) =>
    let (e, s) := s.epoch
    match s.translate hubCore ctx va { w := true } with
    | (s, .ok pa) => (s.publish (pa / 64) e, .ok ())
    | (s, .error _) => (s, .ok ())
  | r => r

/-- `n` words of 64 bits read through a context's translation. -/
def State.hubWords (s : State) (ctx : Nat) (va : W64) : Nat → State × Except (Cause × Nat) (List W64)
  | 0 => (s, .ok [])
  | n + 1 =>
    match s.hubRead ctx va 8 with
    | (s, .error c) => (s, .error c)
    | (s, .ok v) => match s.hubWords ctx (va + 8) n with
      | (s, .error c) => (s, .error c)
      | (s, .ok vs) => (s, .ok (BitVec.ofNat 64 v :: vs))

/-! The pin CAMs (R282) -/

/-- Adds a pin of a name on a core; the name 0 pins nothing. -/
def State.camAdd (s : State) (core ctx : Nat) (name : W64) : State :=
  if name = 0 then s
  else s.modCore core (fun c =>
    if c.pins.any (fun e => e.name == name && e.ctx == ctx) then
      { c with pins := c.pins.map (fun e => if e.name == name && e.ctx == ctx then { e with count := e.count + 1 } else e) }
    else { c with pins := c.pins ++ [{ name, ctx, count := 1 }] })

/-- Counts of a name on a core. -/
def State.camCount (s : State) (core ctx : Nat) (name : W64) : Nat :=
  (((s.core core).pins.find? (fun e => e.name == name && e.ctx == ctx)).map (fun (e : PinEntry) => e.count)).getD 0

/-- Hash H1 of the name filter (R286). -/
def filterH1 (x : W64) : Nat :=
  (bits x 0 11 ^^^ bits x 11 11 ^^^ bits x 22 11 ^^^ bits x 33 11 ^^^ bits x 44 11 ^^^ (bits x 55 9).setWidth 11).toNat

/-- The product that H2 and the home bucket are taken from (R284, R286). -/
def pinHash (x : W64) : W64 := x * 0x9E3779B97F4A7C15

/-- Hash H2 of the name filter (R286). -/
def filterH2 (x : W64) : Nat := (bits (pinHash x) 53 11).toNat

/-- Whether a name hits its context's filter (R286). -/
def Context.filterHit (c : Context) (x : W64) : Bool :=
  FMap.at 0 c.filter (filterH1 x) != 0 && FMap.at 0 c.filter (filterH2 x) != 0

/-- Adds to, or subtracts from, one filter counter; a counter at 15 is stuck (R362). -/
def bumpFilter (f : FMap Nat) (k : Nat) (up : Bool) : FMap Nat :=
  let n := FMap.at 0 f k
  if n = 15 then f
  else if up then FMap.put f k (n + 1)
  else if n ≤ 1 then FMap.del f k else FMap.put f k (n - 1)

/-- Enters or removes a name's two counters (R286). -/
def Context.bump (c : Context) (x : W64) (up : Bool) : Context :=
  { c with filter := bumpFilter (bumpFilter c.filter (filterH1 x) up) (filterH2 x) up }

/-- A removal whose name hits the filter queues a re-search (R288). -/
def State.queueRehunt (s : State) (ctx : Nat) (name : W64) : State :=
  match s.ctx? ctx with
  | some c => if c.filterHit name then s.modHub (fun h => { h with rehunts := h.rehunts ++ [(ctx, name)] }) else s
  | none => s

/-- Removes a pin of a name on a core (R282, R288). -/
def State.camRemove (s : State) (core ctx : Nat) (name : W64) : State :=
  if name = 0 || s.camCount core ctx name = 0 then s
  else
    let s := s.modCore core (fun c =>
      { c with pins := (c.pins.map (fun e => if e.name == name && e.ctx == ctx then { e with count := e.count - 1 } else e)).filter
                         (fun e => e.count != 0) })
    s.queueRehunt ctx name

/-! The swapped-out pin directory (R284), at a physical address -/

/-- The address of bucket `j` of the probe window of a name (R284). -/
def Context.bucket (c : Context) (x : W64) (j : Nat) : Nat :=
  let n := 2 ^ (bits c.dirlog2 0 5).toNat
  let home := (pinHash x).toNat / 2 ^ (64 - (bits c.dirlog2 0 5).toNat)
  (bits c.dirbase 0 52).toNat / 16 * 16 + 16 * ((home + j) % n)

/-- The probe of a name (R284): the bucket that holds it, and the first bucket with COUNT 0 before that. -/
def State.probe (s : State) (c : Context) (x : W64) : Nat → Nat → Option Nat → Option Nat × Option Nat
  | 0, _, free => (none, free)
  | fuel + 1, j, free =>
    let a := c.bucket x j
    let name := Mem.read64 s.mem a
    if name = x then (some a, free)
    else
      let free := if free.isNone && Mem.readNat s.mem (a + 8) 4 == 0 then some a else free
      if name = 0 then (none, free) else s.probe c x fuel (j + 1) free

/-- Inserts a name into the directory; false where it cannot take it (R363). -/
def State.dirInsert (s : State) (c : Context) (x : W64) : State × Bool :=
  match s.probe c x 64 0 none with
  | (some a, _) => ({ s with mem := Mem.writeNat s.mem (a + 8) 4 (Mem.readNat s.mem (a + 8) 4 + 1) }, true)
  | (none, some a) => ({ s with mem := Mem.writeNat (Mem.write64 s.mem a x) (a + 8) 4 1 }, true)
  | (none, none) => (s, false)

/-- Removes a name from the directory; false where it holds no pin of it. -/
def State.dirRemove (s : State) (c : Context) (x : W64) : State × Bool :=
  match (s.probe c x 64 0 none).1 with
  | some a =>
    let n := Mem.readNat s.mem (a + 8) 4
    if n = 0 then (s, false) else ({ s with mem := Mem.writeNat s.mem (a + 8) 4 (n - 1) }, true)
  | none => (s, false)

/-- Whether a search finds a pin of a name (R283, R363). -/
def State.pinFound (s : State) (ctx : Nat) (x : W64) : Bool :=
  match s.ctx? ctx with
  | none => false
  | some c =>
    x != 0 && (c.dirfull ||
      (c.pairs.flatMap (fun p => [2 * p, 2 * p + 1])).any (fun k => s.camCount k ctx x != 0) ||
      (match (s.probe c x 64 0 none).1 with | some a => Mem.readNat s.mem (a + 8) 4 != 0 | none => false))

/-- Saves the pins of a group (R285, R363): each is inserted into the directory, then removed from the CAM. -/
def State.savePins (s : State) (core ctx : Nat) (names : List W64) : State :=
  names.foldl (fun s x =>
    match s.ctx? ctx with
    | none => s
    | some c =>
      if x = 0 then s
      else
        let (s, ok) := s.dirInsert c x
        let s := if ok then s else (s.modCtx ctx (fun c => { c with dirfull := true })).midnight 0x0B ctx core 0 1 0
        s.camRemove core ctx x) s

/-- Restores the pins of a group (R285, R288): each is inserted into the CAM, then removed from the directory. -/
def State.restorePins (s : State) (core ctx : Nat) (names : List W64) : State :=
  names.foldl (fun s x =>
    match s.ctx? ctx with
    | none => s
    | some c =>
      if x = 0 then s
      else
        let (s, ok) := (s.camAdd core ctx x).dirRemove c x
        if ok then s.queueRehunt ctx x else s) s

/-- A name that lost pins held in the directory loses one pin there (R288, R337). -/
def State.dirRelease (s : State) (ctx : Nat) (x : W64) : State :=
  match s.ctx? ctx with
  | none => s
  | some c =>
    let (s, ok) := s.dirRemove c x
    if ok then s.queueRehunt ctx x else s

/-! The deferred list (R286, R287) and the freed ring (R289) -/

/-- The names of the deferred list; none where it cannot be read. -/
def State.deferList (s : State) (ctx : Nat) : State × Option (List W64) :=
  match s.ctx? ctx with
  | none => (s, none)
  | some c => match s.hubWords ctx c.defer 1024 with
    | (s, .ok ws) => (s, some ws)
    | (s, .error _) => (s, none)

/-- The slot of the deferred list that holds a word. -/
def slotWith (l : Option (List W64)) (x : W64) : Option Nat := l.bind (fun ws => ws.findIdx? (· == x))

/-- Writes a slot of the deferred list. -/
def State.setDefer (s : State) (ctx i : Nat) (v : W64) : State :=
  match s.ctx? ctx with
  | some c => (s.hubWrite ctx (c.defer + BitVec.ofNat 64 (8 * i)) 8 v.toNat).1
  | none => s

/-- Enters a name into the lowest-numbered free slot (R286); false where the list has no room. -/
def State.deferName (s : State) (ctx : Nat) (x : W64) : State × Bool :=
  let (s, l) := s.deferList ctx
  match slotWith l 0 with
  | none => (s, false)
  | some i => ((s.setDefer ctx i x).modCtx ctx (fun c => { c.bump x true with deferred := c.deferred + 1 }), true)

/-- Takes a name out of its slot and the filter (R287); at occupancy 0 the filter is cleared (R362). -/
def State.undefer (s : State) (ctx i : Nat) (x : W64) : State :=
  (s.setDefer ctx i 0).modCtx ctx (fun c =>
    let c := { c.bump x false with deferred := c.deferred - 1 }
    if c.deferred = 0 then { c with filter := [] } else c)

/-- One second in arithmetic cycles. -/
def oneSecond : Nat := 2400000000

/-- A DEFFULL event, at most one per context per second for each P0 (R289, R361). -/
def State.deffull (s : State) (ctx p0 : Nat) : State :=
  match s.ctx? ctx with
  | none => s
  | some c =>
    let last := if p0 = 0 then c.deffullAt else c.ringfullAt
    let due := match last with | some t => decide (t + oneSecond ≤ s.now) | none => true
    if !due then s
    else (s.modCtx ctx (fun c => if p0 = 0 then { c with deffullAt := some s.now } else { c with ringfullAt := some s.now })).midnight
      0x0B ctx 0xFF 0 (BitVec.ofNat 64 p0) 0

/-- What a push onto the freed ring answers (R289). -/
inductive PushResult where
  | ok | full | bad
  deriving DecidableEq, Repr

/-- Pushes a name onto the freed ring (R289). -/
def State.pushFreed (s : State) (ctx : Nat) (x : W64) : State × PushResult :=
  match s.ctx? ctx with
  | none => (s, .bad)
  | some c =>
    match s.hubWords ctx c.freed 3 with
    | (s, .ok [put, take, lg]) =>
      let k := (bits lg 0 5).toNat
      if k < 4 || 24 < k then (s.deffull ctx 2, .bad)
      else if put - take = BitVec.ofNat 64 (2 ^ k) then (s, .full)
      else
        let s := (s.hubWrite ctx (c.freed + BitVec.ofNat 64 (32 + 8 * (put.toNat % 2 ^ k))) 8 x.toNat).1
        ((s.hubRelease ctx c.freed 8 (put + 1).toNat).1, .ok)
    | (s, _) => (s.deffull ctx 2, .bad)

end Sys2Proof.Machine
end

