-- ==== Sys2Proof/Machine/Launch.lean ====
section
/-! DEFINITION. Launches, teams and groups: dispatch (R261 to R264), admission and placement (R12, R17 to R20, R28 to R30, R266),
refusal (R18, R332), and the ends of groups, teams and launches (R32, R35, R282, R387). -/
namespace Sys2Proof.Machine

open Sys2Proof

/-- Whether a value of fmt has no reserved bit or code (R42, R142). -/
def fmtLegal (v : W32) : Bool :=
  let code (c : Nat) : Bool := c == 0 || c == 8 || c == 9 || (12 ≤ c && c ≤ 17)
  bits v 15 17 == 0 && bits v 3 2 == 0 && code (nsrcOf v) && code (ndstOf v)

/-! The return of units (R35, R387) -/

/-- The record of a launch (R332, R387). -/
def launchRecord (ctx queue : Nat) (esc : Bool) (cause : Nat) (addr : W64) (detail : W64) : FaultRecord :=
  { w0 := recordWord0 ctx 0 0 0 false 0 false false esc true cause, addr, w2 := (0xFFFF#16) ++ (0 : BitVec 16) ++ BitVec.ofNat 32 queue,
    detail }

/-- Adds units to HOME (R35): DONE, QPHASE and QPCNT follow where HOME reaches 2^62. A fault holds the units (R387). The spec does not say
whether PHASE has to be aligned to more than the word that the addition changes, nor what a fault of the write of DONE does: the model
takes ALIGN where PHASE is not a multiple of 8, and leaves DONE as it is (DESIGN CHOICE, log 88). -/
def State.homeReturn (s : State) (ctx queue : Nat) (phase : W64) (units : Nat) : State :=
  let held (s : State) (c : Cause) : State :=
    let r := launchRecord ctx queue true c.code phase 10
    (s.postRecord ctx r (.homeReturn units phase queue)).midnight 0x02 ctx 0xFF 2 r.w0 phase
  match s.hubRead ctx phase 8 with
  | (s, .error (c, _)) => held s c
  | (s, .ok old) =>
    match s.hubRelease ctx phase 8 ((old + units) % 2 ^ 64) with
    | (s, .error c) => held s c
    | (s, .ok ()) =>
      if old + units ≠ 2 ^ 62 then s
      else
        let (s, w) := s.hubRead ctx (phase + 8) 8
        let done := match w with | .ok v => v ||| 1 | .error _ => 1
        let s := (s.hubRelease ctx (phase + 8) 8 done).1
        s.modQueue queue (fun q => { q with qphase := phase, qpcnt := q.qpcnt + 1 })

/-- A launch ends, or is refused (R32, R35, R332): its units come home. -/
def State.endLaunch (s : State) (l : Nat) : State :=
  match FMap.find s.launches l with
  | none => s
  | some L =>
    let s := { s with launches := FMap.del s.launches l }
    if L.record.phase ≠ 0 && L.units ≠ 0 then s.homeReturn L.ctx L.rootQueue L.record.phase L.units else s

/-! Ends of teams and groups -/

/-- Bytes of a CLM block for a request (R30): a power of two of at least 4 KiB. -/
def clmBlock (n : Nat) : Nat := if n ≤ 4096 then 4096 else 2 ^ Nat.log2 (2 * n - 1)

/-- The cores on which a team holds a block. -/
def Team.cores (t : Team) : List Nat := if t.span then [t.core, partner t.core] else [t.core]

/-- Frees what a team holds (R32, R69): its blocks' dirty lines cease to be dirty, and its banks and macros are free. -/
def State.freeTeam (s : State) (tid : Nat) (t : Team) : State :=
  let inBlock (k : Nat) : Bool := t.cores.any (fun c => k / 6144 == c && t.baseOn c / 64 ≤ k % 6144 && k % 6144 < (t.baseOn c + t.clmSize) / 64)
  let inBanks (c b : Nat) : Bool := c == t.core && t.bank0 ≤ b && b < t.bank0 + t.nbanks
  { s with
    dirty := s.dirty.filter (fun k => !inBlock k)
    copied := s.copied.filter (fun k => !inBlock k)
    lost := s.lost.filter (fun k => if k < 1000000 then !inBlock k else !inBanks ((k - 1000000) / 16) ((k - 1000000) % 16))
    shadow := s.shadow.filter (fun x => !inBlock x.1)
    marks := s.marks.filter (fun x => !inBlock x.1)
    banks := s.banks.filter (fun x => !inBanks (x.1 / 65536) (x.1 / 4096 % 16))
    bankBusy := s.bankBusy.filter (fun x => !inBanks (x.1 / 16) (x.1 % 16))
    macros := s.macros.filter (fun x => !inBanks (x.1 / 16) (x.1 % 16))
    compactions := s.compactions.filter (fun c => c.team != tid)
    teams := FMap.del s.teams tid
    threads := match t.thread with | some th => FMap.del s.threads th | none => s.threads }

/-- A team ends when all its groups and its sequencer thread have ended (R32), and a launch when all its teams have. -/
def State.checkTeam (s : State) (tid : Nat) : State :=
  match s.team? tid with
  | none => s
  | some t =>
    if t.ended < t.ngroups || !t.threadEnded then s
    else
      let s := (s.freeTeam tid t).modLaunch t.launch (fun L => { L with ended := L.ended + 1 })
      match FMap.find s.launches t.launch with
      | some L => if L.ended = (bits L.record.teams 0 33).toNat then s.endLaunch t.launch else s
      | none => s

/-- The place of no group: the agent of an operation whose issuer has ended. -/
def noPlace : Agent := .group 1000000 .pc0

/-- An agent ends with loads and refills in flight, which nothing awaits, or with an operation that has an effect of its own to
come, which goes on. -/
def State.orphanOps (s : State) (a : Agent) : State :=
  { s with ops := (s.ops.filter (fun o => !(o.2.agent.base == a) || (match o.2.kind with
      | .load _ _ _ _ _ _ | .refill _ => false | _ => true))).map (fun o => if o.2.agent.base == a then (o.1, { o.2 with agent := noPlace }) else o) }

/-- A sequencer thread ends (R140). -/
def State.endThread (s : State) (t : Nat) : State :=
  match s.thread? t with
  | none => s
  | some th =>
    let s := (s.modThread t (fun th => { th with ended := true, slot := { th.slot with status := .free } })).forgetAgent th.agent.uid
    let s := s.orphanOps (.thread t)
    (s.modTeam th.team (fun tm => { tm with threadEnded := true })).checkTeam th.team

/-- A sequencer thread of a fatal team ends once its counters allow (R140, R331, R346). -/
def State.endIfFatal (s : State) (a : Agent) : State :=
  match a with
  | .thread t => match s.thread? t with
    | some th => if th.fatal && !th.ended && th.matCount == 0 && th.agent.ack == 0 then s.endThread t else s
    | none => s
  | _ => s

/-- Whether a group has no lane left (R27, R326): every slot is free and the stack holds no lane. -/
def Group.empty (g : Group) : Bool :=
  g.s0.status == .free && g.s1.status == .free && g.handler.slot.status == .free &&
  g.stack.all (fun e => e.mask == 0)

/-- Whether the counters for which a group's end waits are zero (R32, R239). -/
def Group.quiet (g : Group) : Bool :=
  g.copies == 0 && g.gathers == 0 && g.fabric == 0 && g.agent.ack == 0 && g.logged == 0

/-- GROUP_END (R32, R46, R282): rows are released, pins are removed, and the team and launch may end. -/
def execGroupEnd (g : Nat) (s : State) : Out :=
  stepOut s (do
    let gr ← getSome (s.group? g) "no such group"
    need (gr.empty && gr.quiet) "the group has lanes or counts left"
    let s := (FMap.vals gr.pns).foldl (fun s x => s.camRemove (g / 64) gr.ctx x) s
    let s := gr.lostPins.foldl (fun s x => s.dirRelease gr.ctx x) s
    let s := ({ s with groups := FMap.del s.groups g }.forgetAgent gr.agent.uid).orphanOps (.group g .pc0)
    pure ((s.modTeam gr.team (fun t => { t with ended := t.ended + 1 })).checkTeam gr.team))

/-! The descriptor (R17, R18) -/

/-- The fields of a descriptor's words (R17). -/
def Descriptor.ofWords (w : List W64) : Descriptor :=
  let g (k : Nat) : W64 := w.getD k 0
  { entry := g 0, sentry := g 1, shape := g 2, res := g 3, vw0 := g 4, vw1 := g 5, vw2 := g 6, vw3 := g 7, spt := g 8, fmt := g 9,
    rest := (w.drop 10).foldl (fun n x => n ||| x.toNat) 0 }

def Descriptor.width (d : Descriptor) : Nat := 16 * 2 ^ (bits d.shape 0 2).toNat
def Descriptor.ngroups (d : Descriptor) : Nat := (bits d.shape 4 5).toNat + 1
def Descriptor.span (d : Descriptor) : Bool := d.shape.getLsbD 9
def Descriptor.seq (d : Descriptor) : Bool := d.shape.getLsbD 10
def Descriptor.prog (d : Descriptor) : Nat := (bits d.shape 11 2).toNat
def Descriptor.clm (d : Descriptor) : Nat := (bits d.res 16 32).toNat
def Descriptor.nbanks (d : Descriptor) : Nat := (bits d.res 48 5).toNat
def Descriptor.floor (d : Descriptor) : Nat := (bits d.res 0 10).toNat

/-- Whether a view word is refused (R18, R37). -/
def badView (v : W64) : Bool :=
  bits v 24 40 != 0 || bits v 16 4 != 0 || bits v 22 2 == 3 || (bits v 22 2 != 0 && bits v 20 2 != 0)

/-- The lowest reason for which a readable descriptor is refused (R18, R332). -/
def Descriptor.refusal (d : Descriptor) (teams : W64) : Option Nat :=
  let n := (bits teams 0 33).toNat
  if bits d.shape 0 2 = 3 || d.prog = 3 then some 1
  else if bits d.shape 16 48 != 0 || bits d.shape 2 2 != 0 || bits d.res 53 11 != 0 || bits d.res 10 6 != 0 || d.vw0 != 0 ||
      badView d.vw1 || badView d.vw2 || badView d.vw3 || bits d.fmt 32 32 != 0 || !fmtLegal (bits d.fmt 0 32) || d.rest != 0 ||
      bits teams 33 31 != 0 then some 2
  else if 262144 < d.clm then some 3
  else if !([0, 1, 2, 4, 8, 16].contains d.nbanks) then some 4
  else if 160 * d.width / 16 < d.floor then some 5
  else if n = 0 || 2 ^ 32 < n then some 6
  else none

/-- Reads the descriptor of a launch (R17): none with reason 9's cause where it cannot be read. -/
def State.readDescriptor (s : State) (ctx : Nat) (desc : W64) : State × Except Cause Descriptor :=
  if bits desc 0 6 ≠ 0 then (s, .error .align)
  else match s.hubWords ctx desc 16 with
    | (s, .ok ws) => (s, .ok (Descriptor.ofWords ws))
    | (s, .error (c, _)) => (s, .error c)

/-- LAUNCH_REFUSE (R332): the record, the event, the slot freed, the units home. -/
def State.refuseLaunch (s : State) (ctx l reason cause : Nat) : State :=
  match FMap.find s.launches l with
  | none => s
  | some L =>
    let detail : W64 := BitVec.ofNat 64 (reason + 256 * cause)
    let s := s.postRecord ctx (launchRecord ctx L.queue false 0x01 L.record.desc detail) .refused
    let s := (s.midnight 0x03 ctx 0xFF 2 detail L.record.desc).modCtx ctx (fun c => { c with slot := none })
    s.endLaunch l

/-! Placement (R20, R30) -/

/-- The blocks in use on a core: base and size, with the targets of the compactor (R31). -/
def State.clmUsed (s : State) (core : Nat) : List (Nat × Nat) :=
  s.teams.flatMap (fun t => if t.2.cores.contains core then [(t.2.baseOn core, t.2.clmSize)] else []) ++
  s.compactions.filterMap (fun c =>
    if c.core == core then (s.team? c.team).map (fun t => (c.target, t.clmSize)) else none)

/-- Whether an aligned block meets no block in use. -/
def blockFree (used : List (Nat × Nat)) (base size : Nat) : Bool :=
  used.all (fun u => base + size ≤ u.1 || u.1 + u.2 ≤ base)

/-- Whether a block is a free block of a buddy tree: free, and its parent is not (R30). -/
def maximalFree (used : List (Nat × Nat)) (treeBase treeSize base size : Nat) : Bool :=
  blockFree used base size &&
  (size == treeSize || !blockFree used (treeBase + (base - treeBase) / (2 * size) * (2 * size)) (2 * size))

/-- The lowest free block of exactly a size in a tree. -/
def freeIn (used : List (Nat × Nat)) (treeBase treeSize size : Nat) : Option Nat :=
  ((List.range (treeSize / size)).map (fun k => treeBase + k * size)).find? (fun b => maximalFree used treeBase treeSize b size)

/-- The smallest free block that fits, at the lowest address across both trees (R30); `k` sizes are tried. -/
def allocClm (used : List (Nat × Nat)) : Nat → Nat → Option Nat
  | 0, _ => none
  | k + 1, size =>
    if 262144 < size then none
    else match freeIn used 0 262144 size with
      | some b => some b
      | none => match (if size ≤ 131072 then freeIn used 262144 131072 size else none) with
        | some b => some b
        | none => allocClm used k (2 * size)

/-- The first bank of the smallest free set that fits n banks (R30). -/
def allocBanks (used : List (Nat × Nat)) : Nat → Nat → Option Nat
  | 0, _ => none
  | k + 1, size =>
    if 16 < size then none
    else match freeIn used 0 16 size with | some b => some b | none => allocBanks used k (2 * size)

/-- Bank sets in use on a core. -/
def State.banksUsed (s : State) (core : Nat) : List (Nat × Nat) :=
  s.teams.flatMap (fun t => if t.2.core == core && t.2.nbanks != 0 then [(t.2.bank0, t.2.nbanks)] else [])

/-- Unreserved granules of a quarter (R20, R49). -/
def State.unreserved (s : State) (core q : Nat) : Nat :=
  Config.poolGranules - (s.groups.filter (fun g => g.1 / 16 == 4 * core + q)).foldl (fun n g => n + g.2.effFloor) 0

/-- Unreserved granules of a core. -/
def State.unreservedCore (s : State) (core : Nat) : Nat := (List.range 4).foldl (fun n q => n + s.unreserved core q) 0

/-- The quarter that takes a group (R20). -/
def State.pickQuarter (s : State) (core floor : Nat) : Option Nat :=
  let ok := (List.range 4).filter (fun q =>
    (s.groups.filter (fun g => g.1 / 16 == 4 * core + q)).length < 16 && floor ≤ s.unreserved core q)
  (ok.foldl (fun (best : Option (Nat × Nat)) q =>
    let u := s.unreserved core q
    match best with | some b => if b.2 < u then some (q, u) else best | none => some (q, u)) none).map (·.1)

/-- The registers of a group at its start (R10). -/
def startQs (args : W64) (team gidx teams : Nat) : FMap Cell64 :=
  [(0, { val := args }), (1, { val := BitVec.ofNat 64 team }), (2, { val := BitVec.ofNat 64 gidx }), (3, { val := BitVec.ofNat 64 teams })]

/-- Places one group of a team on a core (R20, R23); none where no quarter takes it. -/
def State.placeGroup (s : State) (L : Launch) (lid tid : Nat) (d : Descriptor) (teamIdx gidx core : Nat) : Option State :=
  match s.pickQuarter core (max d.floor (2 * d.width)) with
  | none => none
  | some q =>
    let place := 64 * core + 16 * q
    match (List.range 16).find? (fun k => (s.group? (place + k)).isNone) with
    | none => none
    | some k =>
      let halves := (s.groups.filter (fun g => g.1 / 16 == 4 * core + q && g.2.width == 16)).map (fun (g : Nat × Group) => g.2.half)
      let half := d.width == 16 && decide ((halves.filter (fun h => h)).length < (halves.filter (fun h => !h)).length)
      let slot : Slot := { status := .live, pc := d.entry, mask := allLanes d.width, fmt := bits d.fmt 0 32, notBefore := s.now }
      let (e, s) := s.epoch
      let s := { s with nextId := s.nextId + 1 }
      some (s.setGroup (place + k)
        { ctx := L.ctx, team := tid, launch := lid, index := gidx, width := d.width, half, floor := d.floor,
          strict := d.shape.getLsbD 14, vpol := d.shape.getLsbD 13, vw1 := d.vw1, vw2 := d.vw2, vw3 := d.vw3, entry := d.entry,
          spt := d.spt, qs := startQs L.record.args teamIdx gidx (bits L.record.teams 0 33).toNat, s0 := slot,
          agent := { uid := s.nextId, start := s.now, horizon := e } })

/-- The core of group `g` of a team (R20). -/
def memberCore (d : Descriptor) (core g : Nat) : Nat := if d.span && g % 2 = 1 then core + 1 else core

/-- Whether the checks for starting members pass on the cores of a placement (R105, R266). -/
def State.startFits (s : State) (ctx core : Nat) (d : Descriptor) (members : List Nat) (whole : Bool) : Bool :=
  let need (c : Nat) : Nat :=
    32 * (members.filter (fun g => memberCore d core g == c)).length +
    (if whole && c == core then (if d.seq then 32 else 0) + 256 * d.nbanks else 0)
  (if d.span then [core, core + 1] else [core]).all (fun c => need c == 0 || s.estimate c + need c ≤ s.boundCore ctx)

/-- Places the resources of a team on a core: its CLM blocks (which read as zero, R69), banks and thread (R20, R30). -/
def State.placeShell (s : State) (L : Launch) (lid tid : Nat) (d : Descriptor) (teamIdx core : Nat) : Option State :=
  let size := clmBlock d.clm
  match allocClm (s.clmUsed core) 8 size,
        (if d.span then allocClm (s.clmUsed (core + 1)) 8 size else some 0),
        (if d.nbanks = 0 then some 0 else allocBanks (s.banksUsed core) 6 d.nbanks),
        (if d.seq then (List.range 4).find? (fun t => (s.thread? (4 * core + t)).isNone) else some 0) with
  | some b0, some b1, some bank, some th =>
    let t : Team := { ctx := L.ctx, launch := lid, index := teamIdx, pair := core / 2, core, span := d.span, cfix := d.shape.getLsbD 15,
                      ngroups := d.ngroups, clmSize := size, clmBase0 := b0, clmBase1 := b1, bank0 := bank, nbanks := d.nbanks,
                      thread := if d.seq then some (4 * core + th) else none, threadEnded := !d.seq }
    let clm := Mem.clear s.clm (clmBytes * core + b0) size
    let clm := if d.span then Mem.clear clm (clmBytes * (core + 1) + b1) size else clm
    let s := { s with clm, teams := FMap.put s.teams tid t }
    let slot : Slot := { status := .live, pc := d.sentry, mask := 1, notBefore := s.now }
    let (e, s) := s.epoch
    some (if d.seq then s.setThread (4 * core + th)
            { ctx := L.ctx, team := tid, launch := lid, entry := d.entry, spt := d.spt, slot, agent := { uid := s.nextId, start := s.now, horizon := e },
              xs := [(0, { val := L.record.args }), (1, { val := BitVec.ofNat 64 teamIdx })] }
          else s)
  | _, _, _, _ => none

/-- Places members of a team, in the order given, and notes them as started. -/
def State.placeMembers (s : State) (L : Launch) (lid tid : Nat) (d : Descriptor) (teamIdx core : Nat) : List Nat → Option State
  | [] => some s
  | g :: gs =>
    match s.placeGroup L lid tid d teamIdx g (memberCore d core g) with
    | none => none
    | some s => (s.modTeam tid (fun t => { t with started := t.started ++ [g] })).placeMembers L lid tid d teamIdx core gs

/-- Tries to place a whole team on a core (R20, R266). -/
def State.placeTeamOn (s : State) (L : Launch) (lid tid : Nat) (d : Descriptor) (teamIdx core : Nat) : Option State :=
  let all := List.range d.ngroups
  if !s.startFits L.ctx core d all true then none
  else (s.placeShell L lid tid d teamIdx core).bind (fun s => s.placeMembers L lid tid d teamIdx core all)

/-- The cores to try on a pair, in order (R20). -/
def State.coreOrder (s : State) (d : Descriptor) (pair : Nat) : List Nat :=
  if d.span then [2 * pair]
  else if s.unreservedCore (2 * pair) < s.unreservedCore (2 * pair + 1) then [2 * pair + 1, 2 * pair] else [2 * pair, 2 * pair + 1]

/-- Places the next team of a launch on the lowest-numbered pair that takes it whole (R19, R20). -/
def State.placeTeam (s : State) (L : Launch) (lid : Nat) (d : Descriptor) (teamIdx : Nat) (pairs : List Nat) : Option State :=
  (pairs.flatMap (s.coreOrder d)).findSome? (fun core => ({ s with nextId := s.nextId + 1 }).placeTeamOn L lid s.nextId d teamIdx core)

/-- Places a whole launch, team by team; `n` teams are left. -/
def State.placeLaunch (s : State) (L : Launch) (lid : Nat) (d : Descriptor) (pairs : List Nat) : Nat → Nat → Option State
  | 0, _ => some s
  | n + 1, idx => match s.placeTeam L lid d idx pairs with
    | none => none
    | some s => s.placeLaunch L lid d pairs n (idx + 1)

/-- Places teams of a launch until one finds no room; `n` teams are left. -/
def State.placeMost (s : State) (L : Launch) (lid : Nat) (d : Descriptor) (pairs : List Nat) : Nat → Nat → State
  | 0, _ => s
  | n + 1, idx => match s.placeTeam L lid d idx pairs with
    | none => s
    | some s => s.placeMost L lid d pairs n (idx + 1)

/-- The machine with nothing placed on the given pairs (R28). -/
def State.emptied (s : State) (pairs : List Nat) : State :=
  let on (core : Nat) : Bool := pairs.contains (core / 2)
  { s with groups := s.groups.filter (fun g => !on (g.1 / 64)), threads := s.threads.filter (fun t => !on (t.1 / 4)),
           teams := s.teams.filter (fun t => !on t.2.core), ops := s.ops.filter (fun o => !on o.2.core), dirty := s.dirty.filter (fun k => !on (k / 6144)),
           compactions := s.compactions.filter (fun c => !on c.core) }

/-- The most teams that any set of pairs could hold: 64 groups on each of 160 cores. -/
def maxTeams : Nat := 10240

/-- A weakly parallel team that has started in part (R29). -/
def State.partialTeam (s : State) (lid : Nat) : Option (Nat × Team) :=
  s.teams.find? (fun t => t.2.launch == lid && t.2.started.length < t.2.ngroups)

/-- Whether such a team of a launch is on a pair that is saved (R113): no other team goes before it (R29). -/
def Context.partialSaved (c : Context) (lid : Nat) : Bool :=
  c.image.any (fun (m : CoreImage) => m.teams.any (fun t => t.2.launch == lid && t.2.started.length < t.2.ngroups))

/-- Places as many further members of a partly started team as room allows, in ascending index (R20, R28, R29): a member that finds no
room waits. The state and how many. -/
def State.placeSome (s : State) (L : Launch) (lid tid : Nat) (d : Descriptor) (teamIdx core : Nat) : List Nat → State × Nat
  | [] => (s, 0)
  | g :: gs =>
    match (if s.startFits L.ctx core d [g] false then s.placeGroup L lid tid d teamIdx g (memberCore d core g) else none) with
    | none => s.placeSome L lid tid d teamIdx core gs
    | some s' =>
      let (s'', n) := (s'.modTeam tid (fun t => { t with started := t.started ++ [g] })).placeSome L lid tid d teamIdx core gs
      (s'', n + 1)

/-- Starts the first members of the next team of a weakly parallel launch (R20, R29). -/
def State.startWeak (s : State) (L : Launch) (lid : Nat) (d : Descriptor) (teamIdx : Nat) (pairs : List Nat) : Option State :=
  let open1 := pairs.filter (fun p => !s.teams.any (fun t => t.2.pair == p && t.2.started.length < t.2.ngroups))
  (open1.flatMap (s.coreOrder d)).findSome? (fun core =>
    if !s.startFits L.ctx core d [0] true then none
    else
      let tid := s.nextId
      match ({ s with nextId := s.nextId + 1 }).placeShell L lid tid d teamIdx core with
      | none => none
      | some s =>
        let s := (s.placeSome L lid tid d teamIdx core (List.range d.ngroups)).1
        if (s.team? tid).any (fun t => t.started.contains 0) then some s else none)

/-- The launch in a context's admission slot after some of its teams have been placed: the slot frees with the last (R266). -/
def State.advanceLaunch (s : State) (ctx l next : Nat) (last : Bool) : State :=
  let s := s.modLaunch l (fun L => { L with nextTeam := next })
  if last then s.modCtx ctx (fun c => { c with slot := none }) else s

/-- The instruction caches of the cores of pairs are invalidated: those of the whole context, where the first team of a launch is admitted
(R116). -/
def State.dropIcaches (s : State) (pairs : List Nat) : State :=
  { s with icache := s.icache.filter (fun l => !pairs.contains (l.1 / 2 ^ 40 / 2)) }

/-- Whether both cores of a pair run (R111). -/
def State.pairRuns (s : State) (p : Nat) : Bool := (s.core (2 * p)).phase == .running && (s.core (2 * p + 1)).phase == .running

/-- The next teams of the launch in an admission slot are placed, as far as its progress class allows (R28, R29, R266): the state, none where
the admitter waits, or the reason for which the launch is refused. -/
def State.admitTeams (s : State) (c : Context) (ctx l : Nat) (L : Launch) (d : Descriptor) : Except Nat (Option State) :=
  let pairs := c.pairs.filter (fun p => s.pairRuns p)
  let allPairs := c.pairs ++ c.savedPairs
  let n := (bits L.record.teams 0 33).toNat
  match d.prog with
  | 0 =>
    match (if maxTeams < n then none else s.placeLaunch L l d pairs n 0) with
    | some s => .ok (some (s.advanceLaunch ctx l n true))
    | none => if maxTeams < n || ((s.emptied allPairs).placeLaunch L l d allPairs n 0).isNone then .error 7 else .ok none
  | 1 => .ok ((s.placeTeam L l d L.nextTeam pairs).map (fun s => s.advanceLaunch ctx l (L.nextTeam + 1) (L.nextTeam + 1 == n)))
  | _ =>
    match s.partialTeam l with
    | some (tid, t) =>
      if !s.pairRuns t.pair then .ok none
      else
        let (s, k) := s.placeSome L l tid d t.index t.core ((List.range d.ngroups).filter (fun g => !t.started.contains g))
        .ok (if k = 0 then none else some (s.advanceLaunch ctx l L.nextTeam (L.nextTeam == n && t.started.length + k == t.ngroups)))
    | none =>
      if c.partialSaved l then .ok none
      else if L.nextTeam = n then .ok (some (s.advanceLaunch ctx l n true))
      else if ((s.emptied allPairs).placeTeam L l d L.nextTeam allPairs).isNone then .error 8
      else .ok ((s.startWeak L l d L.nextTeam pairs).map (fun s =>
        s.advanceLaunch ctx l (L.nextTeam + 1) (L.nextTeam + 1 == n && (s.partialTeam l).isNone)))

/-- TEAM_ADMIT (R266, R320): the launch in a context's admission slot is read, refused, or has its next teams placed. -/
def execTeamAdmit (ctx : Nat) (s : State) : Out :=
  stepOut s (do
    need (decide (6 ≤ s.hub.dawn)) "the dawn sequence has not ended"
    let c ← getSome (s.ctx? ctx) "no such context"
    let l ← getSome c.slot "the admission slot is empty"
    let L ← getSome (FMap.find s.launches l) "no launch"
    need (c.state == .resident) "the context is not resident"
    let (s, rd) := match L.desc with
      | some d => (s, (Except.ok d : Except Cause Descriptor))
      | none => s.readDescriptor ctx L.record.desc
    match rd with
    | .error cause => pure (s.refuseLaunch ctx l 9 cause.code)
    | .ok d =>
      match (if L.desc.isSome then none else d.refusal L.record.teams) with
      | some r => pure (s.refuseLaunch ctx l r 0)
      | none =>
        let s := s.modLaunch l (fun L => { L with desc := some d })
        match (if L.nextTeam = 0 then s.dropIcaches (c.pairs ++ c.savedPairs) else s).admitTeams c ctx l { L with desc := some d } d with
        | .error r => pure (s.refuseLaunch ctx l r 0)
        | .ok (some s) => pure s
        | .ok none => pure s)

/-! Dispatch (R261 to R264) -/

def Queue.ctx (q : Queue) : Nat := (bits q.qcfg 40 12).toNat
def Queue.owner (q : Queue) : Nat := (bits q.qcfg 32 6).toNat
def Queue.prio (q : Queue) : Nat := (bits q.qcfg 28 2).toNat
def Queue.log2n (q : Queue) : Nat := (bits q.qcfg 24 4).toNat

/-- Whether a queue is served (R261). -/
def State.queueServed (s : State) (q : Queue) : Bool :=
  q.qcfg.getLsbD 63 && q.log2n != 0 && q.qbase.toNat % (32 * 2 ^ q.log2n) == 0 && (s.ctx? q.ctx).isSome &&
  (FMap.at {} s.owners q.owner).configured

/-- Records of the ring that wait. -/
def Queue.ringCount (q : Queue) : Nat := (q.qtail - q.qhead).toNat

/-- Whether the head request of a queue is dispatchable (R264). -/
def State.queueReady (s : State) (q : Queue) : Bool :=
  s.queueServed q && (q.ringCount != 0 || !q.children.isEmpty) &&
  (match s.ctx? q.ctx with | some c => c.state == .resident && c.slot.isNone | none => false)

/-- The queue whose head an owner's visit takes: lowest PRIO, then lowest number (R264). -/
def State.ownerHead (s : State) (o : Nat) : Option Nat :=
  ((s.queues.filter (fun q => q.2.owner == o && s.queueReady q.2)).foldl (fun (best : Option (Nat × Nat)) q =>
    match best with | some b => if q.2.prio < b.2 then some (q.1, q.2.prio) else best | none => some (q.1, q.2.prio)) none).map (·.1)

/-- Hands the head request of a queue to its context's admission slot (R264, R35): a child where one is due, else the ring's
head record. A record that cannot be read stays. -/
def State.takeRequest (s : State) (qn : Nat) : Option State :=
  let q := FMap.at {} s.queues qn
  let hand (s : State) (r : LaunchRecord) (units : Nat) (root : Nat) (child : Bool) : State :=
    let L : Launch := { ctx := q.ctx, queue := qn, owner := q.owner, record := r, units, child, rootQueue := root }
    let s := { s with launches := FMap.put s.launches s.nextId L, nextId := s.nextId + 1 }
    (s.modCtx q.ctx (fun c => { c with slot := some (s.nextId - 1) })).addUsage q.owner 7 1
  match q.children with
  | (0, r, units, root) :: rest => some (hand (s.modQueue qn (fun q => { q with children := rest })) r units root true)
  | _ =>
    if q.ringCount = 0 then none
    else match s.hubWords q.ctx (q.qbase + BitVec.ofNat 64 (32 * (q.qhead.toNat % 2 ^ q.log2n))) 4 with
      | (s, .ok [desc, args, teams, phase]) =>
        let s := s.modQueue qn (fun q =>
          { q with qhead := q.qhead + 1, children := q.children.map (fun c => (c.1 - 1, c.2)) })
        some (hand s { desc, args, teams, phase } (if phase = 0 then 0 else 2 ^ 62) qn false)
      | _ => none

/-- A visit's loop (R264): takes requests while the owner has dispatchable ones. -/
def State.serveOwner (s : State) (o : Nat) : Nat → State × Nat
  | 0 => (s, 0)
  | k + 1 =>
    match (s.ownerHead o).bind s.takeRequest with
    | none => (s, 0)
    | some s' => let (s'', n) := s'.serveOwner o k; (s'', n + 1)

/-- WEIGHT of an owner (R263). -/
def State.weightOf (s : State) (o : Nat) : Nat := (bits (FMap.at {} s.owners o).word 0 8).toNat

/-- The next owner after `last`, cyclically, that `ok` accepts. -/
def nextOwner (ok : Nat → Bool) (last : Nat) : Option Nat :=
  ((List.range 64).map (fun k => (last + 1 + k) % 64)).find? ok

/-- DISPATCHER_VISIT (R264): the next owner of non-zero weight is visited; owners of weight zero where no other owner has a
dispatchable request. -/
def execDispatcherVisit (s : State) : Out :=
  if s.hub.dawn < 6 then .next s else
  let weighted (o : Nat) : Bool := (FMap.at {} s.owners o).configured && s.weightOf o != 0
  let zeroReady (o : Nat) : Bool := (FMap.at {} s.owners o).configured && s.weightOf o == 0 && (s.ownerHead o).isSome
  let anyWeighted := s.owners.any (fun o => weighted o.1 && (s.ownerHead o.1).isSome)
  match (if anyWeighted then none else nextOwner zeroReady s.hub.visitZero) with
  | some o => .next ((s.serveOwner o 1).1.modHub (fun h => { h with visitZero := o }))
  | none =>
    match nextOwner weighted s.hub.visit with
    | none => .next s
    | some o =>
      let s := s.modHub (fun h => { h with visit := o })
      let q : Int := s.weightOf o * (bits s.hub.quantum 0 16).toNat * 2000
      let d := (FMap.at {} s.owners o).deficit
      if (s.ownerHead o).isNone then .next (s.modOwner o (fun w => { w with deficit := min d 0 }))
      else
        let d' := min (d + q) q
        let s := s.modOwner o (fun w => { w with deficit := d' })
        .next (if 0 < d' then (s.serveOwner o 64).1 else s)

/-- OWNER_DEFICIT_DEBIT (R263, R307): the deficit falls by one core-pair µs, which the owner's core-pair time has grown by since. -/
def execOwnerDeficitDebit (owner : Nat) (s : State) : Out :=
  let o := FMap.at {} s.owners owner
  .next (if o.debited + 2000 ≤ (FMap.at 0 o.usage 0).toNat then
    s.modOwner owner (fun o => { o with deficit := o.deficit - 2000, debited := o.debited + 2000 }) else s)

end Sys2Proof.Machine
end

