-- ==== Sys2Proof/Machine/Flags.lean ====
section
/-! DEFINITION. The hardware has no flags: a comparison writes a mask register, lane by lane (R41, R153, R169). -/
namespace Sys2Proof.Machine

open Sys2Proof

/-- Writes truth values to the mask register of D: bits outside the effective mask keep their values (R153), and with U = 1 the
single value goes to every lane of the effective mask (R118); with an empty one nothing is written (R171). -/
def Iss.writeMask (i : Iss) (s : State) (v : Nat → Bool) : State :=
  match i.d with
  | some (.mask n) =>
    if i.eff == 0 then s else
    let ls := i.lanes.filter v
    let new : W64 := if i.f.u then (if ls.isEmpty then 0 else i.eff) else maskOf ls
    s.modGroup i.gi (fun g => g.setM n { g.m n with val := mergeMask (g.m n).val i.eff new, ready := (i.readyCycle s).getD (g.m n).ready })
  | _ => s

/-- Writes a whole mask register (R153); with an empty effective mask nothing is written (R171). -/
def Iss.putMask (i : Iss) (s : State) (v : W64) : State :=
  match i.d with
  | some (.mask n) => if i.eff == 0 then s else s.modGroup i.gi (fun g => g.setM n { g.m n with val := v, ready := (i.readyCycle s).getD (g.m n).ready })
  | _ => s

end Sys2Proof.Machine
end

