-- ==== Sys2Proof/Machine/MemInstr.lean ====
section
/-! DEFINITION. Memory and synchronisation, opcodes 0x4A to 0x60 (R191 to R212): what their lanes access, and what happens at
issue. What happens later is in Arrive. -/
namespace Sys2Proof.Machine

open Sys2Proof

/-- The address of a lane (R191). -/
def Iss.addr (i : Iss) (s : State) (l : Nat) : W64 :=
  let idx : W64 := if i.f.xs.getLsbD 3 then 0 else ((i.vb s l).setWidth 32).signExtend 64
  i.va s l + (idx <<< (bits i.f.xs 0 3).toNat) + i.f.imm.signExtend 64

/-- The type code of an instruction. -/
def Iss.ty (i : Iss) : Nat := i.f.ty.toNat

/-- The counts and race state of the issuing agent. -/
def Iss.state (i : Iss) (s : State) : AgentState := (s.agentState? i.agent).getD {}

/-- The scope of an instruction (R85). -/
def Iss.scope (i : Iss) : Nat := i.f.sc.toNat

/-- A cause detected after issue, as the agent's next consumer takes it (R342). -/
def Iss.late (i : Iss) (kind : AccKind) (dsts : List Reg) (fails : List LaneFail) : Option Late :=
  (laneTrap kind 0 fails).map (fun (t : Trap) =>
    { cause := t.cause, addr := t.addr, lanes := t.lanes.getD 0, detail := t.detail ||| (poffOf i.entry i.pc).setWidth 64, dsts })

/-- Marks a unit empty at issue (R51); a row is backed, and a spilled copy is discarded (R46). -/
def Iss.emptyUnit (i : Iss) (s : State) (u : Unit1) : State :=
  if i.seq then
    match u with
    | .x n => s.modThread i.gi (fun th => th.setX n { th.x n with full := false })
    | _ => s
  else
    s.modGroup i.gi (fun g =>
      match u with
      | .row n =>
        let r := g.row n
        g.setRow n { r with backed := true, full := false, spilled := false, inBuffer := false, lost := false,
                            data := if r.backed then r.data else [] }
      | u => g.setFull false u)

/-- Marks the destinations empty. -/
def Iss.markEmpty (i : Iss) (s : State) : State := (i.dsts.flatMap Reg.units).foldl i.emptyUnit s

/-- A long-latency result is on its way (R51, R194, R201): the destination is empty until it arrives. -/
def Iss.startLoad (i : Iss) (s : State) (vals : FMap W64) (succ : Option (Nat × W64)) (late : Option Late) : State :=
  match i.d with
  | none => s
  | some dst =>
    ((i.markEmpty s).addOp { agent := i.agent, core := i.core, ctx := i.ctx, poff := poffOf i.entry i.pc,
                             kind := .load (tyOf i.ty) dst i.eff (i.spread vals) succ late }).2

/-- An access raises the acknowledgement counter; its late cause comes with the acknowledgement (R33, R342). -/
def Iss.raiseAck (i : Iss) (s : State) (late : Option Late) : State :=
  s.modAgent i.agent (fun ag => { ag with ack := ag.ack + 1, ackLate := ag.ackLate ++ late.toList })

/-- Issue stalls while the acknowledgement counter is 65,535 (R33). -/
def ackFull (i : Iss) (s : State) : Bool := (i.state s).ack == 65535

/-! Global loads and stores -/

/-- Reads the lanes of a load through a path, ascending: values, and the lanes that failed. -/
def Iss.readLanes (i : Iss) (path : Path) (hint n : Nat) (las : FMap W64) (pas : FMap Nat) (s : State) :
    State × FMap Nat × List LaneFail :=
  las.foldl (fun (acc : State × FMap Nat × List LaneFail) la =>
    let (s, vals, bad) := acc
    match s.pathRead i.core path i.ctx (i.state s).uid (i.state s) (FMap.at 0 pas la.1) n hint with
    | (s, .error (c, r), _) => (s, vals ++ [(la.1, 0)], bad ++ [(la.1, la.2, c, r)])
    | (s, .ok v, none) => (s, vals ++ [(la.1, v)], bad)
    | (s, .ok v, some r) => (s, vals ++ [(la.1, v)], bad ++ [(la.1, la.2, Cause.race, r)])) (s, [], [])

/-- A load of every active lane through a path (R194, R195, R197). -/
def loadBody (path : Path) (hint : Nat) (i : Iss) (s : State) (las : FMap W64) : Res State :=
  if las.isEmpty then .ok s
  else
    let n := tySize i.ty
    match s.translateLanes i.core i.ctx { r := true } .load las n with
    | (s, .error t) => .error (.trapAt s t)
    | (s, .ok pas) =>
      let (s, vals, bad) := i.readLanes path hint n las pas s
      .ok (i.startLoad s (vals.map (fun lv => (lv.1, extendTy i.ty lv.2))) none (i.late .load i.dstNames bad))

/-- The lines that a set of writes covers wholly. -/
def coveredLines (pas : FMap Nat) (n : Nat) : List Nat :=
  let mask (line : Nat) : W64 := pas.foldl (fun m p => if p.2 / 64 = line then m ||| byteMask (p.2 % 64) n else m) 0
  ((pas.map (fun p => p.2 / 64)).eraseDups).filter (fun l => mask l == allLanes 64)

/-- The lanes whose access the home refuses (R277): each is an event of the midnight record (R340). All lanes are one access (R83), so
where one is refused no byte is written (R342). -/
def Iss.refusedLanes (i : Iss) (s : State) (write : Bool) (las : FMap W64) (pas : FMap Nat) : State × List LaneFail × List Nat :=
  let bad := las.filter (fun la => !s.homePasses i.ctx (FMap.at 0 pas la.1) write)
  (bad.foldl (fun s la => s.ownerEvent i.ctx (FMap.at 0 pas la.1)) s, bad.map (fun la => (la.1, la.2, Cause.owner, 2)), bad.map Prod.fst)

/-- The races of a store's lanes, ascending: all lanes are one access (R83), so each is checked against the stamps before it (R348). -/
def Iss.raceLanes (i : Iss) (n : Nat) (las : FMap W64) (pas : FMap Nat) (s : State) : State × List LaneFail :=
  las.foldl (fun (acc : State × List LaneFail) la =>
    let pa := FMap.at 0 pas la.1
    match acc.1.raceCheck (i.state s).uid (i.state s) (pa / 64) (byteMask (pa % 64) n) with
    | (s, none) => (s, acc.2)
    | (s, some r) => (s, acc.2 ++ [(la.1, la.2, Cause.race, r)])) (s, [])

/-- A store of every active lane through a path (R194, R197): lanes ascending, acknowledged. -/
def storeBody (path : Path) (i : Iss) (s : State) (las : FMap W64) : Res State :=
  if las.isEmpty then .ok s
  else
    let n := tySize i.ty
    match s.translateLanes i.core i.ctx { w := true } .store las n with
    | (s, .error t) => .error (.trapAt s t)
    | (s, .ok pas) =>
      match i.refusedLanes s true las pas with
      | (s, [], _) =>
        let (s, races) := i.raceLanes n las pas s
        let (s, bad) := las.foldl (fun (acc : State × List LaneFail) la =>
          let (s, bad) := acc
          match s.pathWrite i.core path i.ctx (i.state s).uid (i.state s) (FMap.at 0 pas la.1) (leBytes n (i.vc s la.1).toNat) with
          | (s, .error (c, r)) => (s, bad ++ [(la.1, la.2, c, r)])
          | (s, .ok ()) => (s, bad)) (s, races)
        .ok (i.raiseAck ((coveredLines pas n).foldl State.unpoison s) (i.late .store [] bad))
      | (s, bad, _) => .ok (i.raiseAck s (i.late .store [] bad))

/-- The addresses of the active lanes (R191). -/
def Iss.addrs (i : Iss) (s : State) : FMap W64 := i.eachLane (i.addr s)

/-- The hint of an instruction (R78). -/
def Iss.hint (i : Iss) : Nat := i.f.ht.toNat

def ldBody (i : Iss) (s : State) : Res State := loadBody .ls i.hint i s (i.addrs s)
def stBody (i : Iss) (s : State) : Res State := storeBody .ls i s (i.addrs s)
def ackHooks : Hooks := { hold := ackFull }

/-- `ld` (R194). -/
def execLdShort (f : Short) (s : State) : Out := runShort {} 0x4A f ldBody s
def execLdExt (f : Ext) (s : State) : Out := runExt {} 0x4A f ldBody s
/-- `st` (R194). -/
def execStShort (f : Short) (s : State) : Out := runShort ackHooks 0x4B f stBody s
def execStExt (f : Ext) (s : State) : Out := runExt ackHooks 0x4B f stBody s

/-- `ldc` (R195): the cn path takes no hint. -/
def execLdc (f : Ext) (s : State) : Out := runExt {} 0x4E f (fun i s => loadBody .cn 0 i s (i.addrs s)) s

/-- The address of an element in the tile layout (R197). -/
def Iss.tileAddr (i : Iss) (s : State) (l : Nat) : W64 :=
  let e := tySize i.ty
  let r := (i.vb s l).toNat % 2 ^ 32
  let jb := (i.read s i.bRun.head? l).toNat % 2 ^ 32 * e
  i.va s l + BitVec.ofNat 64 ((r / 8 * i.f.imm.toNat + jb / 64) * 512 + r % 8 * 64 + ((jb / 16 % 4) ^^^ (r % 4)) * 16 + jb % 16)

/-- `ldt` (R197). -/
def execLdt (f : Ext) (s : State) : Out :=
  runExt {} 0x50 f (fun i s => loadBody .tl i.hint i s (i.eachLane (i.tileAddr s))) s
/-- `stt` (R197). -/
def execStt (f : Ext) (s : State) : Out :=
  runExt ackHooks 0x51 f (fun i s => storeBody .tl i s (i.eachLane (i.tileAddr s))) s

/-! The sampler (R196) -/

/-- A sampler descriptor. -/
structure Sampler where
  base : W64
  d : W64
  e : Nat
  ty : Nat
  deriving DecidableEq, Repr

def Sampler.pitch (p : Sampler) : Nat := (bits p.d 32 24).toNat
def Sampler.amode (p : Sampler) : Nat := (bits p.d 56 2).toNat

/-- The sampler that an instruction names. -/
def Iss.sampler (i : Iss) (s : State) : Sampler :=
  let q1 := match i.a with | some (.q n) => i.read s (some (.q (n + 1))) 0 | _ => 0
  { base := i.va s 0, d := q1, e := tySize i.ty, ty := i.ty }

/-- A texel coordinate fitted to the texture (R196): none outside a border texture. -/
def Sampler.fit (p : Sampler) (v : Int) (size : Nat) : Option Nat :=
  match p.amode with
  | 0 => some (max 0 (min (size - 1 : Int) v)).toNat
  | 1 => some (v % size).toNat
  | _ => if v < 0 || (size : Int) ≤ v then none else some v.toNat

/-- The address of a texel; none where it is outside a border texture. -/
def Sampler.texAddr (p : Sampler) (ij : Int × Int) : Option W64 :=
  match p.fit ij.1 ((bits p.d 0 16).toNat + 1), p.fit ij.2 ((bits p.d 16 16).toNat + 1) with
  | some i, some j => some (p.base + BitVec.ofNat 64 (j * p.pitch + i * p.e))
  | _, _ => none

/-- `Floor` of a finite f32 pattern, as an integer. -/
def floor32 (b : Nat) : Int :=
  match unpack .f32 b with
  | .fin n m e => roundInt .rdn n m e
  | _ => 0

/-- Whether an f32 pattern is a NaN or an infinity. -/
def notFinite32 (b : Nat) : Bool := decide (Fmt.f32.inf ≤ b % Fmt.f32.signBit)

/-- A coordinate less one half, its floor, its fraction and the fraction's complement (R196). -/
def bilinear (x : Nat) : Int × Nat × Nat :=
  let xs := fpSub .f32 .rne x 0x3F000000
  let i := floor32 xs
  let fx := match unpack .f32 xs with
    | .fin n m e => addVals .f32 .rne [some (.fin n m e), some (.fin (decide (0 < i)) i.natAbs 0)]
    | _ => 0
  (i, fx, fpSub .f32 .rne 0x3F800000 fx)

/-- The texels that a lane reads (R196). -/
def Sampler.texels (p : Sampler) (x y : Nat) : List (Int × Int) :=
  if notFinite32 x || notFinite32 y then []
  else if !p.d.getLsbD 58 then [(floor32 x, floor32 y)]
  else
    let i := (bilinear x).1
    let j := (bilinear y).1
    [(i, j), (i + 1, j), (i, j + 1), (i + 1, j + 1)]

/-- The filtered value of a lane (R196), before Flush. -/
def Sampler.filter (p : Sampler) (x y : Nat) (tex : Int × Int → Nat) : Nat :=
  if notFinite32 x || notFinite32 y then Fmt.f32.nan
  else if !p.d.getLsbD 58 then tex (floor32 x, floor32 y)
  else
    let (i, fx, gx) := bilinear x
    let (j, fy, gy) := bilinear y
    let a := rneAdd (rneMul (tex (i, j)) gx) (rneMul (tex (i + 1, j)) fx)
    let b := rneAdd (rneMul (tex (i, j + 1)) gx) (rneMul (tex (i + 1, j + 1)) fx)
    rneAdd (rneMul a gy) (rneMul b fy)

/-- The coordinates of a lane's point (R196). -/
def Iss.point (i : Iss) (s : State) (l : Nat) : Nat × Nat := ((i.vb s l).toNat % 2 ^ 32, (i.read s i.bRun.head? l).toNat % 2 ^ 32)

/-- The texels inside the texture that the active lanes read: lane and address. -/
def Iss.texelAddrs (i : Iss) (s : State) : List (Nat × W64) :=
  let p := i.sampler s
  i.lanes.flatMap (fun l => (p.texels (i.point s l).1 (i.point s l).2).filterMap (fun ij => (p.texAddr ij).map (fun a => (l, a))))

/-- Translates the texels that the lanes read, before any effect. -/
def Iss.texelPages (i : Iss) (s : State) (las : List (Nat × W64)) : State × List (W64 × Nat) × List LaneFail :=
  las.foldl (fun (acc : State × List (W64 × Nat) × List LaneFail) la =>
    let (s, pas, bad) := acc
    match s.translate i.core i.ctx la.2 { r := true } with
    | (s, .ok pa) => (s, (la.2, pa) :: pas, bad)
    | (s, .error (c, r)) => (s, pas, bad ++ [(la.1, la.2, c, r)])) (s, [], [])

/-- Reads the texels through the `sm` path: raw values by address, and the lanes that failed. -/
def Iss.texelReads (i : Iss) (s : State) (n : Nat) (pas : List (W64 × Nat)) (las : List (Nat × W64)) :
    State × List (W64 × Nat) × List LaneFail :=
  las.foldl (fun (acc : State × List (W64 × Nat) × List LaneFail) la =>
    let (s, vals, bad) := acc
    match s.pathRead i.core .sm i.ctx (i.state s).uid (i.state s) (((pas.find? (fun x => x.1 == la.2)).map Prod.snd).getD 0) n 0 with
    | (s, .ok v, _) => (s, (la.2, v) :: vals, bad)
    | (s, .error (c, r), _) => (s, vals, bad ++ [(la.1, la.2, c, r)])) (s, [], [])

/-- A texel as an f32 (R196): zero outside a border texture. -/
def Sampler.texel (p : Sampler) (vals : List (W64 × Nat)) (ij : Int × Int) : Nat :=
  match p.texAddr ij with
  | none => 0
  | some a => packVal .f32 .rne (unpack (fmtOf p.ty) (((vals.find? (fun x => x.1 == a)).map Prod.snd).getD 0))

/-- What a lane samples (R196): zero where one of its texels failed. -/
def Iss.sampled (i : Iss) (s : State) (vals : List (W64 × Nat)) (bad : List LaneFail) (l : Nat) : W64 :=
  if bad.any (fun f => f.1 == l) then 0
  else BitVec.ofNat 64 (flushIf .f32 i.ftz ((i.sampler s).filter (i.point s l).1 (i.point s l).2 ((i.sampler s).texel vals)))

/-- `smp` (R196). -/
def smpBody (i : Iss) (s : State) : Res State :=
  let p := i.sampler s
  if i.lanes.isEmpty then .ok s
  else if p.base.toNat % p.e ≠ 0 ∨ p.pitch % p.e ≠ 0 then .error (.trap (Trap.mem .align p.base (maskOf i.lanes) .load 0))
  else
    let las := i.texelAddrs s
    let (s1, pas, bad) := i.texelPages s las
    match laneTrap .load 0 bad with
    | some t => .error (.trapAt s1 t)
    | none =>
      let (s2, vals, bad) := i.texelReads s1 p.e pas las
      .ok (i.startLoad s2 (i.eachLane (i.sampled s vals bad)) none (i.late .load i.dstNames bad))

def execSmp (f : Ext) (s : State) : Out :=
  runExt { illegal := fun i s => !i.lanes.isEmpty && (bits (i.sampler s).d 59 5 != 0 || (i.sampler s).amode == 3) } 0x4F f smpBody s

/-- `pref` (R198): no access, no trap. -/
def prefLane (i : Iss) (s : State) (va : W64) : State :=
  match s.translate i.core i.ctx va { r := true } with
  | (s, .error _) => s
  | (s, .ok pa) =>
    let line := pa / 64
    if !s.homePasses i.ctx pa false || (FMap.find s.poison line).isSome || s.caches.any (fun l => l.isAt i.core .ls line) then s
    else
      let s := (s.recall line).l2Touch i.ctx pa false
      if i.hint = 3 then s
      else s.allocLine { core := i.core, path := .ls, line, ctx := i.ctx, data := Mem.readBytes s.mem (64 * line) 64 } i.hint

def execPref (f : Ext) (s : State) : Out :=
  runExt {} 0x52 f (fun i s => .ok ((i.addrs s).foldl (fun s la => prefLane i s la.2) s)) s

/-! CLM loads and stores -/

/-- A resolved access of a lane: its offset as given, its core, and the offset in the team's block there. -/
structure ClmAcc where
  lane : Nat
  off : W64
  core : Nat
  o : Nat
  deriving DecidableEq, Repr

/-- Resolves the offsets of lanes (R68, R69): the accesses, and the lanes that fail. -/
def resolveLanes (t : Team) (own n : Nat) (offs : FMap W64) : List ClmAcc × List LaneFail :=
  offs.foldl (fun (acc : List ClmAcc × List LaneFail) lo =>
    if lo.2.toNat % n ≠ 0 then (acc.1, acc.2 ++ [(lo.1, lo.2, Cause.align, 0)])
    else match t.resolve own lo.2 n with
      | some (core, o) => (acc.1 ++ [{ lane := lo.1, off := lo.2, core, o }], acc.2)
      | none => (acc.1, acc.2 ++ [(lo.1, lo.2, Cause.prot, 2)])) ([], [])

/-- The lanes of a store that meet a region without write enable (R71), filled or not; those that have to wait do so first. -/
def State.readOnlyLanes (s : State) (tid : Nat) (t : Team) (n : Nat) (accs : List ClmAcc) : List LaneFail :=
  (accs.filter (fun a => t.readOnlyAt a.core a.o n && s.clmGate tid t a.core a.o n true != .wait)).map (fun a => (a.lane, a.off, Cause.prot, 3))

/-- The untouched lines that accesses meet, with the lane, region and line of each (R71); a line that is being written back is not yet
asked for (R206). -/
def State.untouchedLines (s : State) (tid : Nat) (t : Team) (n : Nat) (accs : List ClmAcc) : List (Nat × Nat × Nat) :=
  accs.flatMap (fun a => (linesOf a.o n).filterMap (fun l =>
    if s.writingBack tid a.core l || !t.memberOn a.core then none else (t.untouched a.core l).map (fun x => (a.lane, x))))

/-- The lanes that need lines whose fill faults (R71, R345). -/
def State.fillFails (s : State) (t : Team) (lines : List (Nat × Nat × Nat)) : State × List LaneFail :=
  ((lines.map Prod.snd).eraseDups).foldl (fun (acc : State × List LaneFail) (rl : Nat × Nat) =>
    match FMap.find t.regions rl.1 with
    | none => acc
    | some r => match acc.1.fillRead t r rl.2 with
      | (s, .ok _) => (s, acc.2)
      | (s, .error (c, why)) =>
        (s, acc.2 ++ (lines.filter (fun x => x.2 == rl)).map (fun x => (x.1, r.lineAddr rl.2, c, why)))) (s, [])

/-- Failures in ascending order of lanes. -/
def byLane (fails : List (LaneFail × AccKind)) : List (LaneFail × AccKind) :=
  (List.range 64).flatMap (fun l => fails.filter (fun f => f.1.1 == l))

/-- What CLM accesses meet before they act: the cause that comes first among those of all lanes, `bad` being those found before, a fill's
of KIND 6 (R71, R340, R345); then the waits, fills and losses (R29, R194, R206, R231, R337). -/
def Iss.clmReady (i : Iss) (s : State) (t : Team) (store : Bool) (kind : AccKind) (n : Nat) (perLane : Bool) (accs : List ClmAcc)
    (bad : List LaneFail) : Res State :=
  let lines := s.untouchedLines i.team t n accs
  let (s, fills) := s.fillFails t lines
  let bad := bad ++ (if store then s.readOnlyLanes i.team t n accs else [])
  match kindTrap 0 (byLane (bad.map (fun f => (f, kind)) ++ fills.map (fun f => (f, AccKind.regionFill)))) with
  | some tr => .error (.trapAt s (if perLane then tr else { tr with lanes := none }))
  | none =>
    let gates := accs.map (fun a => (a, s.clmGate i.team t a.core a.o n store))
    if gates.any (fun g => g.2 == .wait) then .error (.wait s)
    else if !lines.isEmpty then .error (.wait ((lines.map Prod.snd).foldl (fun s rl => s.askFill i.team rl.1 rl.2) s))
    else
      let reads := !store || kind == .atomic || !perLane
      let lost := gates.filter (fun g => reads && (s.lostLine t g.1.core g.1.o n).isSome)
      match lost with
      | g :: _ => .error (.trapAt s { cause := .dataerr, addr := g.1.off, lanes := if perLane then some (maskOf (lost.map (fun g => g.1.lane))) else none })
      | [] => .ok s

/-- The part of Δ that stores into CLM have (R105): new dirty lines on the own core, and on the partner core. -/
def Iss.clmDelta (i : Iss) (s : State) (t : Team) (n : Nat) (accs : List ClmAcc) : Delta :=
  let lines (c : Nat) : Nat := (((accs.filter (fun a => a.core == c)).flatMap (fun a => s.newDirty t c a.o n)).eraseDups).length
  { lines := lines i.core, resv := [(partner i.core, lines (partner i.core))] }

/-- The resolved accesses of an `ldl` or `stl`. -/
def Iss.clmAccs (i : Iss) (s : State) (t : Team) : List ClmAcc × List LaneFail :=
  resolveLanes t i.core (tySize i.ty) (i.addrs s)

/-- `ldl` (R194). -/
def ldlBody (i : Iss) (s : State) : Res State :=
  match s.team? i.team with
  | none => .error (.fault .noAgent)
  | some t => do
    let n := tySize i.ty
    let (accs, bad) := i.clmAccs s t
    let s ← i.clmReady s t false .load n true accs bad
    if accs.isEmpty then pure s
    else pure (i.startLoad s (accs.map (fun a => (a.lane, extendTy i.ty (leNat (s.clmRead t a.core a.o n))))) none none)

/-- `stl` (R194): a store to the partner core's share is acknowledged. -/
def stlBody (i : Iss) (s : State) : Res State :=
  match s.team? i.team with
  | none => .error (.fault .noAgent)
  | some t => do
    let n := tySize i.ty
    let (accs, bad) := i.clmAccs s t
    let s ← i.clmReady s t true .store n true accs bad
    let s := accs.foldl (fun s a => s.clmStore i.team a.core a.o (leBytes n (i.vc s a.lane).toNat)) s
    pure (if accs.any (fun a => a.core != i.core) then i.raiseAck s none else s)

/-- The checks of `stl`. -/
def stlHooks : Hooks :=
  { hold := fun i s => ackFull i s && (match s.team? i.team with | some t => (i.clmAccs s t).1.any (fun a => a.core != i.core) | none => false)
    delta := fun i s => match s.team? i.team with | some t => i.clmDelta s t (tySize i.ty) (i.clmAccs s t).1 | none => {} }

def execLdlShort (f : Short) (s : State) : Out := runShort {} 0x4C f ldlBody s
def execLdlExt (f : Ext) (s : State) : Out := runExt {} 0x4C f ldlBody s
def execStlShort (f : Short) (s : State) : Out := runShort stlHooks 0x4D f stlBody s
def execStlExt (f : Ext) (s : State) : Out := runExt stlHooks 0x4D f stlBody s

/-! Atomics (R199 to R202) -/

/-- The CLM offset of a CLM-tagged address (R199). -/
def clmTag (a : W64) : Option W64 := if bits a 52 12 = 0xFFF ∧ bits a 20 32 = 0 then some ((bits a 0 20).setWidth 64) else none

/-- Where a lane of an atomic acts: in CLM, or at a physical address. -/
structure AtomLoc where
  lane : Nat
  va : W64
  clm : Option (Nat × Nat)
  pa : Nat
  deriving DecidableEq, Repr

/-- The CLM accesses of an atomic, and the lanes of them that fail. -/
def Iss.atomClm (i : Iss) (s : State) (t : Team) : List ClmAcc × List LaneFail :=
  resolveLanes t i.core (atomSize i.ty) (i.lanes.filterMap (fun l => (clmTag (i.va s l)).map (fun o => (l, o))))

/-- Whether an atomic has acquire and release ordering (R87). -/
def Iss.acquires (i : Iss) : Bool := i.f.xs == 1 || i.f.xs == 3 || i.f.xs == 4
def Iss.releases? (i : Iss) : Bool := i.f.xs == 2 || i.f.xs == 3 || i.f.xs == 4

/-- Reads, computes and writes at one location, with its epochs (R87, R89, R201, R347): the old value, or the refusal; `write` is off where
the access is refused (R342). -/
def Iss.atomLane (i : Iss) (e : W64) (write : Bool) (loc : AtomLoc) (s : State) : State × Except (Cause × Nat) Nat :=
  let n := atomSize i.ty
  let new (old : Nat) : Nat := atomNew i.f.sub.toNat i.ty old (i.vb s loc.lane).toNat (i.vc s loc.lane).toNat
  match loc.clm, s.team? i.team with
  | some (core, o), some t =>
    let old := leNat (s.clmRead t core o n)
    if !write then (s, .ok old)
    else
      let line := t.lineKey core o
      let s := s.acquireAt i.agent line (if i.acquires then some i.scope else none)
      ((s.clmStore i.team core o (leBytes n (new old))).releaseAt i.agent line (if i.releases? then some (i.scope, e) else none), .ok old)
  | _, _ =>
    let line := loc.pa / 64
    let s := s.dropLines (fun l => l.isAt i.core .ls line)
    if !s.homePasses i.ctx loc.pa true then (s.ownerEvent i.ctx loc.pa, .error (.owner, 2))
    else match s.homeRead i.ctx loc.pa n with
    | (s, .error x) => (s, .error x)
    | (s, .ok old) =>
      if !write then (s, .ok old)
      else match s.homeWrite i.ctx loc.pa (leBytes n (new old)) with
        | (s, .error x) => (s, .error x)
        | (s, .ok ()) =>
          ((s.observe i.agent i.acquires (s.repochAt line)).publish line (if i.releases? then e else (i.state s).relEpoch), .ok old)

/-- Whether the home refuses one lane of an atomic (R277, R349). -/
def Iss.atomRefused (i : Iss) (s : State) (loc : AtomLoc) : Bool :=
  loc.clm.isNone && (!s.homePasses i.ctx loc.pa true || (FMap.find s.poison (loc.pa / 64)).isSome)

/-- Translates the lanes of an atomic or reduction that has a global address, before any effect (R193, R194, R199). -/
def Iss.atomPages (i : Iss) (s : State) (glob : FMap W64) : State × FMap Nat × List LaneFail :=
  glob.foldl (fun (acc : State × FMap Nat × List LaneFail) la =>
    let (s, pas, bad) := acc
    if la.2.toNat % atomSize i.ty ≠ 0 then (s, pas, bad ++ [(la.1, la.2, Cause.align, 0)])
    else match s.translate i.core i.ctx la.2 { r := true, w := true } with
      | (s, .ok pa) => (s, pas ++ [(la.1, pa)], bad)
      | (s, .error (c, r)) => (s, pas, bad ++ [(la.1, la.2, c, r)])) (s, [], [])

/-- The effect of an `atom` whose lanes may act (R87, R90, R201). -/
def Iss.atomAct (i : Iss) (locs : List AtomLoc) (s : State) : State :=
  let n := atomSize i.ty
  let (e, s) := if i.f.xs = 0 then ((0 : W64), s) else s.closeRegion i.agent
  let write := !locs.any (i.atomRefused s)
  let (s, olds, late) := locs.foldl (fun (acc : State × FMap Nat × List LaneFail) loc =>
    let (s, olds, late) := acc
    match i.atomLane e write loc s with
    | (s, .ok old) => (s, olds ++ [(loc.lane, old)], late)
    | (s, .error (c, r)) => (s, olds, late ++ [(loc.lane, loc.va, c, r)])) (s, [], [])
  let s := if i.f.xs = 4 then s.scOrder i.agent i.scope e else s
  let s := if i.acquires && decide (2 ≤ i.scope) then s.invalidateL1 i.core else s
  let okLanes := (olds.filter (fun x => write && x.2 == (i.vc s x.1).toNat % 2 ^ (8 * n))).map (fun (x : Nat × Nat) => x.1)
  let k := i.f.imm.toNat % 8
  let okMask : W64 := if i.f.u then (if okLanes.isEmpty then 0 else i.eff) else maskOf okLanes
  let succ := if i.f.sub = 7 && k ≠ 0 && !i.seq then some (k, okMask) else none
  let vals := i.eachLane (fun l => match FMap.find olds l with | some v => extendTy i.ty v | none => 0)
  i.raiseAck (i.startLoad s vals succ (i.late .atomic i.dstNames late)) none

/-- `atom` (R87, R90, R201). -/
def atomBody (i : Iss) (s : State) : Res State :=
  if i.lanes.isEmpty then .ok s
  else match s.team? i.team with
    | none => .error (.fault .noAgent)
    | some t => do
      let n := atomSize i.ty
      let (accs, bad) := i.atomClm s t
      let (s, pas, gbad) := i.atomPages s (i.lanes.filterMap (fun l => if (clmTag (i.va s l)).isSome then none else some (l, i.va s l)))
      let s ← i.clmReady s t true .atomic n true accs (bad ++ gbad)
      pure (i.atomAct (i.lanes.map (fun l =>
        { lane := l, va := i.va s l, clm := (accs.find? (fun a => a.lane == l)).map (fun (a : ClmAcc) => (a.core, a.o)), pa := FMap.at 0 pas l })) s)

/-- Whether the accesses that a release orders are performed (R87, R203, R240). -/
def releaseHeld (i : Iss) (s : State) (scope : Nat) : Bool :=
  (i.state s).ack != 0 ||
  (scope == 6 && (match (if i.seq then none else s.group? i.gi) with | some g => g.logged != 0 | none => false))

/-- The checks of `atom`. -/
def atomHooks (sync : Bool) : Hooks :=
  { hold := fun i s => ackFull i s || (i.releases? && releaseHeld i s i.scope)
    delta := fun i s => match s.team? i.team with | some t => i.clmDelta s t (atomSize i.ty) (i.atomClm s t).1 | none => {}
    sync
    takes := fun i e => i.releases? && i.scope == 6 && e.discarded }

def execAtom (f : Ext) (s : State) : Out := runExt (atomHooks (f.xs != 0)) 0x53 f atomBody s

/-- A lane of a `red` joins those that a partial gathers: lanes of one instruction are one source (R342). -/
def RedSource.joins (x : RedSource) (xs : List RedSource) : List RedSource :=
  let same (y : RedSource) : Bool := y.uid == x.uid && y.cycle == x.cycle
  if xs.any same then xs.map (fun y => if same y then { y with lanes := y.lanes ||| x.lanes } else y) else xs ++ [x]

/-- Accepts one lane of a `red` into the update-only state of the core's L1 (R97); the home checks its partial when it is recalled
(R277). -/
def Iss.redLane (i : Iss) (lane pa : Nat) (b : W64) (s : State) : State :=
  let n := atomSize i.ty
  let op := i.f.sub.toNat
  let ty := tyOf i.ty
  let clash (p : Partial) : Bool := p.core == i.core && decide (p.addr < pa + n) && decide (pa < p.addr + atomSize p.ty.code) &&
    !(p.addr == pa && p.op == op && p.ty == ty)
  let s := if s.partials.any clash then s.recall (pa / 64) (· == i.core) else s
  let s := s.dropLines (fun l => l.isAt i.core .ls (pa / 64))
  let s := s.publish (pa / 64) (i.state s).relEpoch
  let same (p : Partial) : Bool := p.core == i.core && p.addr == pa
  let mine : RedSource := { uid := (i.state s).uid, cycle := s.now, va := i.va s lane, lanes := 1#64 <<< lane, poff := poffOf i.entry i.pc }
  if s.partials.any same then
    { s with partials := s.partials.map (fun p => if same p then
        { p with val := BitVec.ofNat 64 (atomNew (if op = 6 then 10 else op) i.ty p.val.toNat b.toNat 0), sources := mine.joins p.sources } else p) }
  else { s with partials := s.partials ++ [{ core := i.core, addr := pa, op, ty, val := BitVec.ofNat 64 (b.toNat % 2 ^ (8 * n)),
                                             ctx := i.ctx, sources := [mine] }] }

/-- `red` (R97, R202): a CLM-tagged address takes PROT. -/
def redBody (i : Iss) (s : State) : Res State :=
  if i.lanes.isEmpty then .ok s
  else
    let all := i.eachLane (i.va s)
    let tagged := all.filter (fun la => decide (la.2.toNat % atomSize i.ty = 0) && (clmTag la.2).isSome)
    let (s, pas, bad) := i.atomPages s (all.filter (fun la => !tagged.contains la))
    let bad := tagged.map (fun la => (la.1, la.2, Cause.prot, 5)) ++ bad
    match kindTrap 0 (byLane (bad.map (fun f => (f, AccKind.atomic)))) with
    | some tr => .error (.trapAt s tr)
    | none => .ok (i.raiseAck (pas.foldl (fun s p => i.redLane p.1 p.2 (i.vb s p.1) s) s) none)

def execRed (f : Ext) (s : State) : Out := runExt ackHooks 0x54 f redBody s

/-! Fences (R203, R204) -/

/-- Whether an agent has loads or value-returning atomics in flight. -/
def State.loadsOut (s : State) (a : Agent) : Bool :=
  s.ops.any (fun o => o.2.agent.base == a.base && (match o.2.kind with | .load _ _ _ _ _ _ => true | _ => false))

/-- `fence` (R88, R203). -/
def execFence (f : Ext) (s : State) : Out :=
  runExt { hold := fun i s => (i.f.sub != 1 && releaseHeld i s i.scope) || (i.f.sub != 2 && s.loadsOut i.agent), sync := true
           takes := fun i e => i.f.sub != 1 && i.scope == 6 && e.discarded } 0x55 f
    (fun i s =>
      let s := match i.f.sub.toNat with
        | 0 => s.fullFence i.agent i.scope | 1 => s.acquireFence i.agent i.scope | _ => s.releaseFence i.agent i.scope
      .ok (if i.f.sub ≠ 2 ∧ 2 ≤ i.scope then s.invalidateL1 i.core else s)) s

/-- Whether a path mask names a path (R204). -/
def pathNamed (mask : Nat) : Path → Bool
  | .ls => mask % 2 == 1 | .cn => mask / 2 % 2 == 1 | .sm => mask / 4 % 2 == 1 | .tl => mask / 8 % 2 == 1

/-- `pfence` (R98, R204); update-only lines stay. -/
def execPfence (f : Ext) (s : State) : Out :=
  runExt { hold := fun i s => (i.state s).ack != 0, sync := true } 0x56 f
    (fun i s => .ok (s.dropLines (fun l => l.core == i.core && pathNamed i.f.xs.toNat l.path))) s

/-! Mapped regions (R70 to R72, R205, R206) -/

/-- The core and block offset of a region to map, if no limit is broken (R70, R205). -/
def cmapPlace (t : Team) (own : Nat) (va ctl : W64) : Option (Nat × Nat) :=
  let lines := (bits ctl 20 13).toNat
  let off := (bits ctl 0 20).setWidth 64
  let idx := (bits ctl 40 4).toNat
  if bits ctl 44 20 ≠ 0 ∨ bits ctl 37 3 ≠ 0 ∨ bits ctl 33 3 ≠ 0 ∨ lines = 0 ∨ 4096 < lines ∨ bits ctl 0 6 ≠ 0 ∨ bits va 0 6 ≠ 0 then none
  else match t.resolve own off (64 * lines) with
    | none => none
    | some (core, o) =>
      if (FMap.find t.regions idx).isSome ||
        t.regions.any (fun r => r.2.core == core && decide (r.2.off < o + 64 * lines) && decide (o < r.2.off + 64 * r.2.lines)) then none
      else some (core, o)

/-- `cmap` (R205): PROT with REASON 6 where a limit is broken (R345). -/
def execCmap (f : Ext) (s : State) : Out :=
  runExt {} 0x57 f (fun i s =>
    match s.team? i.team with
    | none => .error (.fault .noAgent)
    | some t =>
      let va := i.va s 0
      let ctl := i.vb s 0
      match cmapPlace t i.core va ctl with
      | none => .error (.trap { cause := .prot, addr := va, detail := memDetail false .load 0 6 0 })
      | some (core, o) =>
        let lines := (bits ctl 20 13).toNat
        let covered (k : Nat) : Bool := decide (t.lineKey core o ≤ k) && decide (k < t.lineKey core o + lines)
        let r : Region := { core, off := o, lines, va, we := ctl.getLsbD 36 }
        .ok ({ s with dirty := s.dirty.filter (fun k => !covered k), copied := s.copied.filter (fun k => !covered k), lost := s.lost.filter (fun k => !covered k) }.modTeam i.team
          (fun t => { t with regions := FMap.put t.regions (bits ctl 40 4).toNat r }))) s

/-- The region that `cflush` or `cunmap` names. -/
def Iss.regionOf (i : Iss) (s : State) : Option Region :=
  (s.team? i.team).bind (fun t => FMap.find t.regions (i.vb s 0).toNat)

/-- The dirty lines of a region: block offset, address and dirty-byte mask. -/
def Region.dirtyLines (r : Region) : List (Nat × W64 × W64) :=
  (r.state.filter (fun l => l.2 != 0)).map (fun l => (r.off + 64 * l.1, r.va + BitVec.ofNat 64 (64 * l.1), l.2))

/-- The lines of a region that `cunmap` makes dirty (R72). -/
def State.unmapDirty (s : State) (t : Team) (r : Region) : List Nat :=
  ((List.range r.lines).map (fun l => t.lineKey r.core (r.off + 64 * l))).filter (fun k => !s.dirty.contains k)

/-- The checks of `cunmap` and `cflush`. -/
def writeBackHooks (unmap : Bool) : Hooks :=
  { hold := fun i s => match s.group? i.gi with | some g => g.copies == 255 | none => false
    delta := fun i s =>
      match s.team? i.team, i.regionOf s with
      | some t, some r =>
        let n := if unmap then (s.unmapDirty t r).length else 0
        { cls := .memory, charge := chargeOf 0 (dirtyBytes r.dirtyLines), lines := if r.core = i.core then n else 0,
          resv := if r.core = i.core then [] else [(r.core, n)] }
      | _, _ => { cls := .memory, charge := 32 } }

/-- `cflush` and `cunmap` (R72, R206): an index that holds no region is a copy of zero bytes. A line that `cflush` has still to write keeps its
dirty bytes (R345), so it counts in the save term until it is written (DEDUCED, log 114). -/
def writeBackBody (unmap : Bool) (i : Iss) (s : State) : Res State :=
  match s.team? i.team with
  | none => .error (.fault .noAgent)
  | some t =>
    let idx := (i.vb s 0).toNat
    let r? := FMap.find t.regions idx
    let ls := (r?.map Region.dirtyLines).getD []
    let core := (r?.map (fun (r : Region) => r.core)).getD i.core
    let s := match r? with
      | none => s
      | some r =>
        if unmap then
          { s with dirty := (s.unmapDirty t r).foldl NSet.add s.dirty }.modTeam i.team (fun t => { t with regions := FMap.del t.regions idx })
        else
          s.modTeam i.team (fun t => { t with regions := FMap.put t.regions idx { r with state := [], asked := [] } })
    .ok (s.issueOp { agent := i.agent, core := i.core, ctx := i.ctx, cls := .memory, charge := chargeOf 0 (dirtyBytes ls), counter := .copy,
                     poff := poffOf i.entry i.pc, kind := .writeBack i.team core ls (dirtyBytes ls) }).2

def execCunmap (f : Ext) (s : State) : Out := runExt (writeBackHooks true) 0x58 f (writeBackBody true) s
def execCflush (f : Ext) (s : State) : Out := runExt (writeBackHooks false) 0x59 f (writeBackBody false) s

/-! Barrier objects (R207, R208) -/

/-- The address of the object (R208). -/
def Iss.objAddr (i : Iss) (s : State) : W64 := i.va s 0 + i.f.imm.signExtend 64

/-- Resolves the object of an instruction (R68, R208): ALIGN, then PROT. -/
def Iss.object (i : Iss) (s : State) (store : Bool) : Res (Team × Nat × Nat) :=
  match s.team? i.team with
  | none => .error (.fault .noAgent)
  | some t =>
    let a := i.objAddr s
    let trap (c : Cause) (r : Nat) : Res (Team × Nat × Nat) :=
      .error (.trap { cause := c, addr := a, detail := memDetail false (if store then .store else .load) 0 r 0 })
    if a.toNat % 16 ≠ 0 then trap .align 0
    else match t.resolve i.core a 16 with
      | none => trap .prot 2
      | some (core, o) => .ok (t, core, o)

/-- Δ of a store to the object. -/
def objDelta (i : Iss) (s : State) : Delta :=
  match i.object s true with
  | .ok (t, core, o) => i.clmDelta s t 16 [{ lane := 0, off := 0, core, o }]
  | .error _ => {}

/-- One atomic change of the object (R208, R90), and the line that holds it. -/
def objStore (i : Iss) (s : State) (f : BarObj → BarObj) : Res (State × Nat) := do
  let (t, core, o) ← i.object s true
  let s ← i.clmReady s t true .store 16 false [{ lane := 0, off := i.objAddr s, core, o }] []
  pure (s.modBar i.team core o f, t.lineKey core o)

/-- `binit` (R208). -/
def execBinit (f : Ext) (s : State) : Out :=
  runExt { delta := objDelta } 0x5A f (fun i s => (objStore i s (fun b => b.init (i.vb s 0).toNat)).map Prod.fst) s

/-- An arrival of an agent at the line of its object: a release of team scope (R86, R89, R347). -/
def State.arrived (s : State) (a : Agent) (line : Nat) : State :=
  let (e, s) := s.closeRegion a
  s.releaseAt a line (some (1, e))

/-- The arrival of an `arrive` or `drain` (R89, R208). -/
def arriveBody (bytes : Iss → State → BitVec 40) (i : Iss) (s : State) : Res State := do
  let (s, line) ← objStore i s (fun b => b.arrive (bytes i s))
  pure (s.arrived i.agent line)

/-- `arrive` (R208). -/
def execArrive (f : Ext) (s : State) : Out :=
  runExt { delta := objDelta, sync := true } 0x5B f
    (arriveBody (fun i s => if i.f.xs = 1 then (i.vb s 0).setWidth 40 else 0)) s

/-- `drain` (R33, R208): it stalls until the acknowledgement counter is zero, then arrives. -/
def execDrain (f : Ext) (s : State) : Out :=
  runExt { hold := fun i s => (i.state s).ack != 0, delta := objDelta, sync := true } 0x5D f (arriveBody (fun _ _ => 0)) s

/-- The end of a `waitb`: an acquire of team scope (R86, R89, R347). -/
def State.waitbDone (s : State) (a : Agent) (line : Nat) : State := (s.closeRegion a).2.acquireAt a line (some 1)

/-- `waitb` (R13, R208): it parks while the phase equals its parity. -/
def execWaitb (f : Ext) (s : State) : Out :=
  runExt { sync := true } 0x5C f (fun i s => do
    let (t, core, o) ← i.object s false
    let s ← i.clmReady s t false .load 16 false [{ lane := 0, off := i.objAddr s, core, o }] []
    let parity := (i.vb s 0).getLsbD 0
    if (s.barObj t core o).phase != parity then pure (s.waitbDone i.agent (t.lineKey core o))
    else
      let ord := if i.f.s then s.safePoint i.core i.ctx (s.sptOf i.agent) (poffOf i.entry i.pc) else none
      let s := s.modAgent i.agent (fun ag => { ag with ord := ord.getD ag.ord })
      .error (.wait (s.modSlot i.agent (fun sl => { sl with park := .waitb (i.objAddr s) parity i.words, stall := none })))) s

/-- WAITB_WAKE (R13): the phase has flipped; the `waitb` is complete and the agent goes on after it. -/
def execWaitbWake (a : Agent) (s : State) : Out :=
  stepOut s (do
    let sl ← getSome (s.slot? a) "no such agent"
    let team := match a with | .group g _ => (s.group? g).map (fun (x : Group) => x.team) | .thread t => (s.thread? t).map (fun (x : Thread) => x.team)
    let t ← getSome (team.bind s.team?) "no team"
    let (obj, words, must) ← getSome (match sl.park with
      | .woken obj words => some (obj, words, none) | .waitb obj p words => some (obj, words, some p) | _ => none) "the agent is not parked on an object"
    let (core, o) ← getSome (t.resolve a.core obj 16) "no object"
    need (match must with | some p => (s.barObj t core o).phase != p | none => true) "the phase has not flipped"
    let s := s.waitbDone a (t.lineKey core o)
    let s := (s.modAgent a (fun ag => { ag with icnt := ag.icnt + 1 })).addUsage (s.ownerOf (s.ctxOf a)) 13 1
    pure (s.modSlot a (fun sl => { sl with park := .none, pc := sl.pc + BitVec.ofNat 64 (4 * words), lastIssue := s.now })))

/-! Pins and reclaim (R209, R210) -/

/-- What a full fence waits for (R203). -/
def fullHeld (i : Iss) (s : State) : Bool := (i.state s).ack != 0 || s.loadsOut i.agent

/-- Sets a pin register: the new name enters the CAM, then the old one leaves it (R209). -/
def Iss.setPin (i : Iss) (s : State) (name : W64) : State :=
  match s.group? i.gi with
  | none => s
  | some g =>
    let k := i.f.d.toNat % 8
    let old := FMap.at 0 g.pns k
    ((s.modGroup i.gi (fun g => { g with pns := FMap.put g.pns k name })).camAdd i.core i.ctx name).camRemove i.core i.ctx old

/-- Whether engines still make accesses on behalf of an agent (R83). -/
def State.enginesOut (s : State) (a : Agent) : Bool :=
  s.ops.any (fun o => o.2.agent.base == a.base && (match o.2.kind with
    | .copy _ _ _ | .kick _ _ _ | .entry _ _ _ _ _ _ | .gather _ _ _ _ _ _ | .scatter _ _ _ _ _ | .writeBack _ _ _ _ | .mapf _ _ _
    | .remote _ _ _ _ _ _ _ _ _ | .coll _ _ _ => !o.2.finished
    | _ => false))

/-- Whether accesses of a group that no counter of R33 counts are still to be performed: its engines' (R83), and its stores in a log buffer
(R239). -/
def State.accessesOut (s : State) (a : Agent) : Bool :=
  s.enginesOut a || (match a with | .group g _ => (s.group? g).any (fun gr => gr.logged != 0) | .thread _ => false)

/-- The name that the pin register of an instruction holds. -/
def Iss.oldPin (i : Iss) (s : State) : W64 := ((s.group? i.gi).map (fun (g : Group) => FMap.at 0 g.pns (i.f.d.toNat % 8))).getD 0

/-- `pin` (R209): a full fence of device scope; the removal of an old name waits as an `unpin` does. -/
def execPin (f : Ext) (s : State) : Out :=
  runExt { hold := fun i s => fullHeld i s || (i.oldPin s != 0 && s.accessesOut i.agent), sync := true } 0x5E f
    (fun i s => .ok (((i.setPin s (i.vb s 0)).fullFence i.agent 4).invalidateL1 i.core)) s

/-- `unpin` (R209): it takes effect once every earlier access of the group is performed. -/
def execUnpin (f : Ext) (s : State) : Out := runExt { hold := fun i s => fullHeld i s || s.accessesOut i.agent } 0x5F f (fun i s => .ok (i.setPin s 0)) s

/-- An instruction whose status comes later and which holds its slot until then (R221, R289): its destination is empty. -/
def Iss.holdFor (i : Iss) (s : State) (kind : OpKind) : State :=
  let (id, s) := (i.markEmpty s).addOp { agent := i.agent, core := i.core, ctx := i.ctx, poff := poffOf i.entry i.pc, kind }
  s.modSlot i.agent (fun sl => { sl with park := .hold id i.words })

/-- `reclaim` (R210): a full fence of device scope, with its place in the sc order at the search (R283), which PIN_SEARCH_COMPLETE ends. -/
def execReclaim (f : Ext) (s : State) : Out :=
  runCtl { hold := fullHeld, sync := true } 0x60 f (fun i s =>
    match i.d with
    | none => .ok (i.nextPc s)
    | some dst => .ok (i.holdFor s (.search (i.vb s 0) dst (i.vd s 0) none))) s

end Sys2Proof.Machine
end

