-- ==== Sys2Proof/Machine/Arrive.lean ====
section
/-! DEFINITION. What comes back to the agents: acknowledgements (R33, R342), refills and spills (R50, R330), fills of mapped regions
(R71, R345), and the ends of pin searches, re-searches and pushes (R210, R286 to R289). -/
namespace Sys2Proof.Machine

open Sys2Proof

/-- A long-latency result is written to its destination, which becomes full (R51); nothing where the agent has ended. -/
def State.fillReg (s : State) (a : Agent) (r : Reg) (vals : FMap W64) : State :=
  match a with
  | .group g _ => s.modGroup g (fun gr =>
    let gr := match r, vals with
      | .vec n p, _ :: _ => gr.writeVec n p s.now none vals
      | .q n, (_, v) :: _ => gr.setQ n { gr.q n with val := v }
      | _, _ => gr
    r.units.foldl (fun g u => g.setFull true u) gr)
  | .thread t => s.modThread t (fun th =>
    match r, vals with
    | .x n, (_, v) :: _ => th.setX n { val := v, full := true, ready := (th.x n).ready }
    | .x n, [] => th.setX n { th.x n with full := true }
    | _, _ => th)

/-- The success mask of a `cas` is written inside the effective mask and is full again (R201). -/
def State.fillMask (s : State) (a : Agent) (k : Nat) (eff v : W64) : State :=
  match a with
  | .group g _ => s.modGroup g (fun gr => let c := gr.m k; gr.setM k { c with val := mergeMask c.val eff v, full := true })
  | .thread _ => s

/-- An operation is no longer in flight; a charged one ends a stretch in which its core had charged work (R333). -/
def State.dropOp (s : State) (op : Nat) : State :=
  let s : State := match FMap.find s.ops op with
    | some (o : Op) => if o.cls = DrainClass.free then s else s.modCore o.core (fun (c : Core) => { c with lastCharged := s.now })
    | none => s
  { s with ops := FMap.del s.ops op }

/-- The data of a load or value-returning atomic arrives (R194, R201, R342). -/
def State.loadArrives (s : State) (op : Nat) (o : Op) (dst : Reg) (lanes : W64) (vals : FMap W64) (succ : Option (Nat × W64))
    (late : Option Late) : State :=
  let s := (s.fillReg o.agent dst vals).dropOp op
  let s := match succ with | some (k, v) => s.fillMask o.agent k lanes v | none => s
  match late with
  | some l => s.modAgent o.agent (fun ag => { ag with late := ag.late ++ [l] })
  | none => s

/-- Parts of remote stores and remote atomics of an agent that are unacknowledged (R33, R237): their acknowledgements come with their
replies. -/
def State.remoteStores (s : State) (a : Agent) : Nat :=
  (s.ops.filter (fun o => o.2.agent.base == a.base && !o.2.finished && (match o.2.kind with
    | .remote _ _ req _ _ _ _ _ _ => req.kind != .rld | _ => false))).length

/-- STORE_ACK (R33): an acknowledgement returns, with a late cause if one was detected. -/
def execStoreAck (a : Agent) (s : State) : Out :=
  stepOut s (do
    let ag ← getSome (s.agentState? a) "no such agent"
    need (decide (s.remoteStores a < ag.ack)) "no acknowledgement is outstanding"
    pure ((s.modAgent a (fun ag =>
      { ag with ack := ag.ack - 1, ackLate := ag.ackLate.drop 1, late := ag.late ++ ag.ackLate.take 1 })).endIfFatal a))

/-- REFILL_COMPLETE (R50, R330): the row is backed and full; where the read has failed (`ok` is false), the row is spilled again and lost,
and the instruction that needs it traps. -/
def execRefillComplete (op : OpReport) (s : State) : Out :=
  stepOut s (do
    let o ← getSome (FMap.find s.ops op.op) "no such operation"
    match o.kind, o.agent with
    | .refill n, .group g _ =>
      pure ((s.modGroup g (fun gr =>
        let r := gr.row n
        gr.setRow n (if op.ok then { r with full := true, refilling := false }
          else { r with backed := false, spilled := true, full := true, refilling := false, lost := true }))).dropOp op.op)
    | _, _ => .error (.idle "not a refill"))

/-- The event of a lost spill, stack entry or save item (R370). -/
def State.lostEvent (s : State) (ctx core item : Nat) : State := s.midnight 0x05 ctx core 2 (BitVec.ofNat 64 item) 0

/-- SPILL_WRITE (R26, R50, R330): a spilled row leaves the write buffer, or a stack entry below the top two is written (`row` - 256,
from the bottom); a refused write loses it. An entry is written once; a failure after that is of the read that brings it back. The row stays
spilled, as R50 has it: that R45's table makes a row of a completed spill unbacked is read as the state of a row whose copy is discarded
(DEDUCED, log 89). -/
def execSpillWrite (g row : Nat) (ok : Bool) (s : State) : Out :=
  stepOut s (do
    let gr ← getSome (s.group? g) "no such group"
    if row < 256 then do
      need ((gr.row row).spilled && (gr.row row).inBuffer) "the row is not in the write buffer"
      let s := s.modGroup g (fun gr => gr.setRow row { gr.row row with inBuffer := false, lost := !ok })
      let s := (rowLines gr.ctx g gr.width row).foldl (fun s l => s.areaWrite gr.ctx l) s
      pure (if ok then s else s.lostEvent gr.ctx (g / 64) row)
    else do
      let k := row - 256
      need (decide (k + 2 < gr.stack.length)) "the entry is held on the core"
      let at' := gr.stack.length - 1 - k
      let old ← getSome gr.stack[at']? "no such entry"
      need (!old.stored || (!ok && !old.lost)) "the entry is in the stack area"
      let s := s.modGroup g (fun gr => { gr with stack := gr.stack.mapIdx (fun j e => if j = at' then { e with stored := true, lost := !ok } else e) })
      let s := s.areaWrite gr.ctx (areaLine gr.ctx g (640 + k / 4))
      pure (if ok then s else s.lostEvent gr.ctx (g / 64) k))

/-- Fills an untouched line of a region (R71): its bytes, or the cause, its REASON and address. -/
def State.fillNow (s : State) (tid region line : Nat) : State × Option (Cause × Nat × W64) :=
  match s.team? tid with
  | none => (s, some (.page, 4, 0))
  | some t =>
    match FMap.find t.regions region with
    | none => (s, none)
    | some r =>
      if (FMap.find r.state line).isSome then (s, none)
      else match s.fillRead t r line with
        | (s, .error (c, why)) => (s, some (c, why, r.lineAddr line))
        | (s, .ok v) =>
          let o := r.off + 64 * line
          (((s.shadowLine tid t r.core (o / 64)).clmPut tid t r.core o (leBytes 64 v)).modTeam tid (fun t =>
            { t with regions := FMap.update t.regions region (fun r => { r with state := FMap.put r.state line 0, asked := NSet.del r.asked line }) }), none)

/-- REGION_FILL_COMPLETE (R71): the line is clean, and accesses that wait proceed. A fill that fails now is asked for again, and
faults, with the access that needs it (R345). -/
def execRegionFillComplete (team region line : Nat) (s : State) : Out :=
  stepOut s (do
    let t ← getSome (s.team? team) "no such team"
    let r ← getSome (FMap.find t.regions region) "no such region"
    need (r.asked.contains line) "the line is not being filled"
    match s.fillNow team region line with
    | (s, none) => pure s
    | (s, some _) => pure (s.modTeam team (fun t =>
        { t with regions := FMap.update t.regions region (fun r => { r with asked := NSet.del r.asked line }) })))

/-! Pins and reclaim -/

/-- A name is freed (R287, R288): it is pushed, and it leaves the deferred list if it is there. -/
def State.freeName (s : State) (ctx : Nat) (x : W64) : State × PushResult :=
  match s.pushFreed ctx x with
  | (s, .ok) =>
    let (s, l) := s.deferList ctx
    (match slotWith l x with | some i => s.undefer ctx i x | none => s, .ok)
  | r => r

/-- The slot that an instruction holds goes on: after it, or at it. -/
def Slot.unhold (sl : Slot) (op : Nat) (after : Bool) : Slot :=
  match sl.park with
  | .hold o words => if o = op then { sl with park := .none, pc := if after then sl.pc + BitVec.ofNat 64 (4 * words) else sl.pc } else sl
  | _ => sl

/-- The path that an instruction holds goes on, wherever it is (R27). -/
def Group.unhold (g : Group) (op : Nat) (after : Bool) : Group := g.mapSlots (fun (sl : Slot) => sl.unhold op after)

/-- The status of a `reclaim` or `spawn` fills its destination, and its slot goes on after it (R210, R221). -/
def State.statusDone (s : State) (op : Nat) (o : Op) (dst : Reg) (status : W64) : State :=
  let s := (s.fillReg o.agent dst [(0, status)]).dropOp op
  match o.agent with | .group g _ => s.modGroup g (fun gr => gr.unhold op true) | .thread _ => s

/-- The status of a `reclaim` (R210). -/
def State.reclaimDone (s : State) (op : Nat) (o : Op) (dst : Reg) (status : Nat) : State := s.statusDone op o dst (BitVec.ofNat 64 status)

/-- A halt takes a waiting `reclaim` or `spawn` back as not issued (R104, R289): its destination is full with the value it had, and its
slot is at it. -/
def State.takeBack (s : State) (op : Nat) (o : Op) (dst : Reg) (old : W64) : State :=
  let s := (s.fillReg o.agent dst [(0, old)]).dropOp op
  match o.agent with | .group g _ => s.modGroup g (fun gr => gr.unhold op false) | .thread _ => s

/-- PIN_SEARCH_COMPLETE (R210, R283, R287, R289, R361): the search takes its place in the sc order as a full fence, and the name is pushed,
deferred or refused; a push onto a full ring waits. -/
def execPinSearchComplete (op : Nat) (s : State) : Out :=
  stepOut s (do
    let o ← getSome (FMap.find s.ops op) "no such operation"
    match o.kind with
    | .search name dst old none =>
      let s := (s.fullFence o.agent 4).invalidateL1 o.core
      if name = 0 then pure (s.reclaimDone op o dst 0)
      else if s.pinFound o.ctx name then
        let (s, l) := s.deferList o.ctx
        if (slotWith l name).isSome then pure (s.reclaimDone op o dst 1)
        else match s.deferName o.ctx name with
          | (s, true) => pure (s.reclaimDone op o dst 1)
          | (s, false) => pure ((s.deffull o.ctx 0).reclaimDone op o dst 2)
      else match s.freeName o.ctx name with
        | (s, .ok) => pure (s.reclaimDone op o dst 0)
        | (s, .bad) => pure (s.reclaimDone op o dst 2)
        | (s, .full) =>
          let (s, l) := s.deferList o.ctx
          if (s.core o.core).phase == .running then pure (s.modOp op (fun o => { o with kind := .search name dst old (some (slotWith l name).isSome) }))
          else pure (s.takeBack op o dst old)
    | _ => .error (.idle "no search is in progress"))

/-- RESEARCH (R288): the first queued re-search. A name in the list that no pin holds is freed; a push onto a full ring waits in the
reclaim engine. -/
def execResearch (s : State) : Out :=
  match s.hub.rehunts with
  | [] => .next s
  | (ctx, x) :: rest =>
    let s := s.modHub (fun h => { h with rehunts := rest })
    let (s, l) := s.deferList ctx
    if (slotWith l x).isNone || s.pinFound ctx x then .next s
    else match s.freeName ctx x with
      | (s, .full) => .next (s.modHub (fun h => { h with pushes := if h.pushes.contains (ctx, x) then h.pushes else h.pushes ++ [(ctx, x)] }))
      | (s, _) => .next s

/-- FREED_RING_PUSH (R287 to R289): a push that waited on a full ring is made: a re-search's, while its name is still in the list and no pin
holds it, or else the oldest waiting `reclaim`'s. A name that the list held at its search, and that a re-search has freed meanwhile, is not
pushed again. -/
def execFreedRingPush (ctx : Nat) (s : State) : Out :=
  match s.hub.pushes.find? (fun p => p.1 == ctx) with
  | some p =>
    let done (s : State) : State := s.modHub (fun h => { h with pushes := h.pushes.erase p })
    let (s, l) := s.deferList ctx
    if (slotWith l p.2).isNone || s.pinFound ctx p.2 then .next (done s)
    else match s.freeName ctx p.2 with
      | (_, .full) => .next s
      | (s, _) => .next (done s)
  | none =>
    match s.ops.find? (fun o => o.2.ctx == ctx && (match o.2.kind with | .search _ _ _ w => w.isSome | _ => false)) with
    | some (op, o) =>
      match o.kind with
      | .search name dst _ w =>
        let (s, l) := s.deferList ctx
        if w == some true && (slotWith l name).isNone then .next (s.reclaimDone op o dst 0)
        else match s.freeName ctx name with
        | (_, .full) => .next s
        | (s, .ok) => .next (s.reclaimDone op o dst 0)
        | (s, .bad) => .next (s.reclaimDone op o dst 2)
      | _ => .next s
    | none => .next s

end Sys2Proof.Machine
end

