-- ==== Sys2Proof/Machine/Engine.lean ====
section
/-! DEFINITION. The accesses of the copy, request and gather engines (R71, R74, R75, R214, R216, R231), parking and errors
(R343, R344, R350), and retirement in issue order (R213). -/
namespace Sys2Proof.Machine

open Sys2Proof

/-- What a write adds to the save term of a core, or credits as already there (R105): the core and the ticks that leave the
reservation. -/
structure Credit where
  core : Nat := 0
  ticks : Nat := 0
  deriving DecidableEq, Repr

/-- Why an engine's next access does not happen now: it waits; it waits, but the rename stage has begun its part, which the step keeps (R49,
R50); its target core is saved (R113); it fails. `win` marks a write to the window space. -/
inductive EngStop where
  | wait
  | moved (c : Credit)
  | saved
  | fail (c : Cause) (reason : Nat) (addr : W64) (kind : AccKind) (win : Bool)
  deriving DecidableEq, Repr

/-- Whom an engine works for: the context, the issuing core, the team; the number of the copy or entry that it runs, 0 for anything else; the
cores on which it owes a reservation (R113). -/
structure Eng where
  ctx : Nat
  core : Nat
  team : Nat
  op : Nat := 0
  owed : List Nat := []
  deriving DecidableEq, Repr

/-- A window address resolved (R74): CLM, a lane byte of a row, a byte of a bank element. -/
inductive WinPlace where
  | clm (core off : Nat)
  | row (g n lo : Nat)
  | bank (core b i n lo : Nat)
  deriving DecidableEq, Repr

/-- The first address of the window space (R74). -/
def windowBase : Nat := 0xE000000000000

/-- Whether a window access to a core of the context parks (R113): one for which it still owes its reservation, or one that is being vacated.
R113 speaks of a vacated pair; the model counts it as vacated from its halt on, so that nothing adds to its E (R104), but for the accesses of
cores that drain with it (DEDUCED, log 112). -/
def State.windowShut (s : State) (e : Eng) (core : Nat) : Bool :=
  let ph := (s.core core).phase
  e.owed.contains core || (ph != .running && ((s.core e.core).phase == .running || ph != .draining))

/-- Resolves and checks a window address for an engine (R74, R75, R113). -/
def State.window (s : State) (e : Eng) (a : W64) (kind : AccKind) (win : Bool) : Except EngStop WinPlace :=
  let o := a.toNat - windowBase
  let fail (r : Nat) : Except EngStop WinPlace := .error (.fail .window r a kind win)
  if a.toNat < windowBase || 160 * 2 ^ 24 ≤ o then fail 3
  else
    let c := o / 2 ^ 24
    let off := o % 2 ^ 24
    match s.ctx? e.ctx with
    | none => fail 1
    | some cx =>
      if !cx.pairs.contains (c / 2) then (if cx.savedPairs.contains (c / 2) then .error .saved else fail 1)
      else if s.windowShut e c then .error .saved
      else if off < clmBytes then .ok (.clm c off)
      else if 0x400000 ≤ off && off < 0x800000 then
        let g := 64 * c + (off - 0x400000) / 0x10000
        let lo := off % 0x10000
        match s.group? g with
        | none => fail 2
        | some gr =>
          if gr.ctx ≠ e.ctx then fail 2
          else if 640 * gr.width ≤ lo then fail 3 else .ok (.row g (lo / (4 * gr.width)) (lo % (4 * gr.width)))
      else if 0x800000 ≤ off && off < 0x840000 then
        let b := off - 0x800000
        .ok (.bank c (b / 0x4000) (b / 256 % 64) (b / 4 % 64) (b % 4))
      else fail 3

/-- The bytes of a row, lane by lane. -/
def Row.bytes (r : Row) (w : Nat) : List Byte := (List.range w).flatMap (fun l => leBytes 4 (r.lane l).toNat)

/-- The team, and the offset in its block, that a core-absolute CLM offset belongs to. -/
def State.blockAt (s : State) (core off : Nat) : Option (Nat × Team × Nat) :=
  (s.teams.find? (fun t => t.2.cores.contains core && t.2.baseOn core ≤ off && off < t.2.baseOn core + t.2.clmSize)).map
    (fun (t : Nat × Team) => (t.1, t.2, off - t.2.baseOn core))

/-- An engine's access to a range within one line of a block: it fills an untouched line first (R71), waits for a write-back, the operand
guard or a core with no started member, and stops at a region without write enable and at a lost line, with its offset (R337). Of the causes
of a fill and of the missing write enable the first in the order of R340 is taken. -/
def State.engGate (s : State) (tid : Nat) (t : Team) (core o n : Nat) (store : Bool) (a : W64) (win : Bool) : State × Except EngStop Unit :=
  let kind : AccKind := if store then .engWrite else .engRead
  let stop (g : ClmGate) : Except EngStop Unit := match g with
    | .ok => .ok ()
    | .wait | .fill _ _ => .error .wait
    | .readOnly => .error (.fail .prot 3 a kind win)
    | .lost off => .error (.fail .dataerr 2 (BitVec.ofNat 64 off) kind win)
  match s.clmGate tid t core o n store with
  | .fill r l => match s.fillNow tid r l with
    | (s, none) => (s, stop (s.clmGate tid ((s.team? tid).getD t) core o n store))
    | (s, some (c, why, va)) =>
      (s, .error (if store && t.readOnlyAt core o n && decide (Cause.prot.rank < c.rank) then .fail .prot 3 a kind win else .fail c why va .regionFill win))
  | g => (s, stop g)

/-- Reads a run of bytes within one 64-byte line of a space (R71, R75, R214). -/
def State.engRead (s : State) (e : Eng) (sp : Space) (a : W64) (n : Nat) : State × Except EngStop (List Byte) :=
  match sp with
  | .g => match s.translate e.core e.ctx a { r := true } with
    | (s, .error (c, r)) => (s, .error (.fail c r a .engRead false))
    | (s, .ok pa) => match s.homeRead e.ctx pa n with
      | (s, .error (c, r)) => (s, .error (.fail c r a .engRead false))
      | (s, .ok v) => (s, .ok (leBytes n v))
  | .l => match s.team? e.team with
    | none => (s, .error .wait)
    | some t => match t.resolve t.core a n with
      | none => (s, .error (.fail .prot 2 a .engRead false))
      | some (core, o) => match s.engGate e.team t core o n false a false with
        | (s, .error x) => (s, .error x)
        | (s, .ok ()) => (s, .ok (s.clmRead t core o n))
  | .w => match s.window e a .engRead false with
    | .error x => (s, .error x)
    | .ok (.clm core off) => match s.blockAt core off with
      | none => (s, .ok (Mem.readBytes s.clm (clmBytes * core + off) n))
      | some (tid, t, o) => match s.engGate tid t core o n false a false with
        | (s, .error x) => (s, .error x)
        | (s, .ok ()) => (s, .ok (s.clmRead t core o n))
    | .ok (.row g k lo) => match s.group? g with
      | none => (s, .error .wait)
      | some gr =>
        let r := gr.row k
        if !r.full then (s, .error .wait)
        else if r.lost then (s, .error (.fail .dataerr 2 a .engRead false))
        else (s, .ok ((r.bytes gr.width).drop lo |>.take n))
    | .ok (.bank core b i k lo) =>
      if !s.bankFull core b then (s, .error .wait)
      else if s.lost.contains (1000000 + 16 * core + b) then (s, .error (.fail .dataerr 2 (BitVec.ofNat 64 b) .engRead false))
      else (s, .ok (((List.range 16).flatMap (fun j => leBytes 4 (s.bankElem core b i (k + j)).toNat)).drop lo |>.take n))

/-- Writes a run of bytes within one line of a block (R69, R105). -/
def State.engClmWrite (s : State) (tid : Nat) (t : Team) (core o : Nat) (bs : List Byte) (fresh : Bool) : State × Credit :=
  let new := (s.newDirty t core o bs.length).length
  (s.clmStore tid core o bs, { core, ticks := if new ≠ 0 then new else if fresh then 1 else 0 })

/-- Writes bytes of a window row (R46, R49, R50, R52, R75): it is renamed as the group's own writes are, a partial write of a spilled row
after a refill; `last` sets it full. Each piece that lands, of at most 64 bytes, is a write of its own: a copy over all of a longer row is a
partial write of it (DESIGN CHOICE, log 43). -/
def State.winRowWrite (s : State) (g k lo : Nat) (bs : List Byte) (last : Bool) (a : W64) : State × Except EngStop Credit :=
  match s.group? g with
  | none => (s, .error .wait)
  | some gr =>
    let r := gr.row k
    let need := if r.backed then 0 else gr.width / 16
    let part := !(lo == 0 && bs.length == 4 * gr.width)
    let credit : Credit := { core := g / 64, ticks := need }
    if r.refilling then (s, .error .wait)
    else if r.spilled && r.lost && part then (s, .error (.fail .dataerr 2 a .engWrite true))
    else
      let (rows, ok) := s.roomFor g need [k]
      let s := s.spillAll rows
      if !ok then (s, .error (.moved {}))
      else if r.spilled && part then (s.startRefill (.group g .pc0) g k, .error (.moved credit))
      else
        let all := patchBytes (r.bytes gr.width) lo bs
        let touched := (List.range gr.width).filter (fun l => decide (lo < 4 * l + 4) && decide (4 * l < lo + bs.length))
        let vals : FMap W32 := touched.map (fun l => (l, BitVec.ofNat 32 (leNat ((all.drop (4 * l)).take 4))))
        (s.modGroup g (fun gr =>
          let r := gr.row k
          gr.setRow k { r.write gr.width s.now vals with full := r.full || last }), .ok credit)

/-- Writes a run of bytes within one 64-byte line of a space; `fresh` marks the operation's first bytes in the line, `last` its last
in the row. -/
def State.engWrite (s : State) (e : Eng) (sp : Space) (a : W64) (bs : List Byte) (fresh last : Bool) : State × Except EngStop Credit :=
  let n := bs.length
  match sp with
  | .g => match s.translate e.core e.ctx a { w := true } with
    | (s, .error (c, r)) => (s, .error (.fail c r a .engWrite false))
    | (s, .ok pa) => match s.homeWrite e.ctx pa bs with
      | (s, .error (c, r)) => (s, .error (.fail c r a .engWrite false))
      | (s, .ok ()) => (if e.op = 0 then s else s.rewrote e.op pa n, .ok {})
  | .l => match s.team? e.team with
    | none => (s, .error .wait)
    | some t => match t.resolve t.core a n with
      | none => (s, .error (.fail .prot 2 a .engWrite false))
      | some (core, o) => match s.engGate e.team t core o n true a false with
        | (s, .error x) => (s, .error x)
        | (s, .ok ()) => let (s, c) := s.engClmWrite e.team t core o bs fresh; (s, .ok c)
  | .w => match s.window e a .engWrite true with
    | .error x => (s, .error x)
    | .ok (.clm core off) => match s.blockAt core off with
      | none => ({ s with clm := Mem.writeBytes s.clm (clmBytes * core + off) bs }, .ok {})
      | some (tid, t, o) => match s.engGate tid t core o n true a true with
        | (s, .error x) => (s, .error x)
        | (s, .ok ()) => let (s, c) := s.engClmWrite tid t core o bs fresh; (s, .ok c)
    | .ok (.row g k lo) => s.winRowWrite g k lo bs last a
    | .ok (.bank core b i k lo) =>
      if !s.bankFull core b then (s, .error .wait)
      else
        let old := (List.range 16).flatMap (fun j => leBytes 4 (s.bankElem core b i (k + j)).toNat)
        let new := patchBytes old lo bs
        (((List.range 16).filter (fun j => decide (lo < 4 * j + 4) && decide (4 * j < lo + n))).foldl (fun s j =>
          s.setBankElem core b i (k + j) (BitVec.ofNat 32 (leNat ((new.drop (4 * j)).take 4)))) s,
          .ok { core, ticks := if fresh then 1 else 0 })

/-- Ticks leave an operation's reservation (R105). -/
def Op.credit (o : Op) (c : Credit) : Op :=
  if c.ticks = 0 then o else { o with resv := FMap.update o.resv c.core (fun n => n - c.ticks) }

/-! Transfers -/

/-- Reads `n` bytes from an address upward, line by line: those below the first access that stops. -/
def State.readSpan (s : State) (e : Eng) (sp : Space) (a : W64) : Nat → Nat → State × List Byte × Option EngStop
  | 0, _ => (s, [], none)
  | fuel + 1, n =>
    let k := min n (64 - a.toNat % 64)
    if k = 0 then (s, [], none)
    else match s.engRead e sp a k with
      | (s, .error x) => (s, [], some x)
      | (s, .ok bs) =>
        let (s, more, stop) := s.readSpan e sp (a + BitVec.ofNat 64 k) fuel (n - k)
        (s, bs ++ more, stop)

/-- The bytes of the next piece of a transfer: up to the next line of a window, or 64 bytes up to a word boundary, so that no aligned word is
written in two steps (R93, R214). -/
def Xfer.pieceLen (x : Xfer) : Nat :=
  let d := (x.dst + BitVec.ofNat 64 x.landed).toNat
  min (x.size - x.landed) (if x.dsp == .w then 64 - d % 64 else 64 - d % 4)

/-- Bytes up to the end of the source word in which the byte at an offset of a transfer lies; 0 at its start (R93). -/
def Xfer.wordRest (x : Xfer) (off : Nat) : Nat :=
  min (x.size - off) ((4 - (x.src + BitVec.ofNat 64 off).toNat % 4) % 4)

/-- Whether the ranges of a transfer overlap as given addresses in one space (R214). -/
def Xfer.overlaps (x : Xfer) : Bool :=
  x.ssp == x.dsp && decide (x.src.toNat < x.dst.toNat + x.size) && decide (x.dst.toNat < x.src.toNat + x.size)

/-- A transfer as it starts: where its ranges overlap it takes its source bytes as they stand now (R214). -/
def Xfer.begin (x : Xfer) (s : State) (e : Eng) : Xfer :=
  if !x.overlaps then x
  else
    let line (k : Nat) : FMap Byte :=
      let n := min 64 (x.size - k)
      match (s.readSpan e x.ssp (x.src + BitVec.ofNat 64 k) 3 n).2.1 with
      | bs => bs.mapIdx (fun j b => (k + j, b))
    { x with snapshot := (List.range ((x.size + 63) / 64)).flatMap (fun k => line (64 * k)) }

/-- Whether the next `k` bytes end what a transfer carries for a window row (R52). -/
def State.rowEnd (s : State) (e : Eng) (x : Xfer) (k : Nat) : Bool :=
  x.dsp == .w && (match s.window e (x.dst + BitVec.ofNat 64 x.landed) .engWrite true with
    | .ok (.row g _ lo) =>
      x.landed + k == x.size || lo + k == 4 * ((s.group? g).map (fun (gr : Group) => gr.width)).getD 16
    | _ => false)

/-- Writes bytes at the place that a transfer has come to, line by line: the operation and transfer after those that landed. -/
def State.writeSpan (s : State) (e : Eng) (o : Op) (x : Xfer) : Nat → List Byte → State × Op × Xfer × Option EngStop
  | 0, _ => (s, o, x, none)
  | fuel + 1, bs =>
    let dst := x.dst + BitVec.ofNat 64 x.landed
    let k := min bs.length (64 - dst.toNat % 64)
    if k = 0 then (s, o, x, none)
    else match s.engWrite e x.dsp dst (bs.take k) (x.landed == 0 || dst.toNat % 64 == 0) (s.rowEnd e x k) with
      | (s, .error (.moved c)) => (s, o.credit c, x, some (.moved c))
      | (s, .error stop) => (s, o, x, some stop)
      | (s, .ok c) => s.writeSpan e (o.credit c) { x with landed := x.landed + k } fuel (bs.drop k)

/-- The bytes of a piece that can land where its source could be read for `got` bytes: all, or those below the fault up to a word boundary of
the destination. -/
def Xfer.landable (x : Xfer) (k got : Nat) (stop : Option EngStop) : Nat :=
  if k ≤ got then k
  else match stop with
    | some (.fail _ _ _ _ _) | some .saved => got - min got ((x.dst + BitVec.ofNat 64 (x.landed + got)).toNat % 4)
    | _ => 0

/-- Source bytes that the next `k` bytes would overwrite before they are read, as offset and length (R214): those that could not be read at
issue. -/
def Xfer.ahead (x : Xfer) (k : Nat) : Nat × Nat :=
  let from' := x.landed + (x.dst.toNat - x.src.toNat)
  let gone := ((List.range k).takeWhile (fun j => (FMap.find x.snapshot (from' + j)).isSome)).length
  (from' + gone, min (k - gone) (x.size - (from' + gone)))

/-- Takes the source bytes that the next `k` bytes would overwrite (R214), or says why they cannot be read. -/
def State.keepAhead (s : State) (e : Eng) (x : Xfer) (k : Nat) : State × Xfer × Option EngStop :=
  if !x.overlaps || decide (x.dst.toNat ≤ x.src.toNat) then (s, x, none)
  else
    let (off, n) := x.ahead k
    let (s, bs, stop) := s.readSpan e x.ssp (x.src + BitVec.ofNat 64 off) 3 n
    (s, { x with snapshot := (bs.mapIdx (fun j b => (off + j, b))).foldl (fun m y => FMap.put m y.1 y.2) x.snapshot }, stop)

/-- Lands the next piece of a transfer: it is read, then written (R93, R214). Bytes of a source word that is read in part are kept. -/
def State.landPiece (s : State) (e : Eng) (o : Op) (x : Xfer) : State × Op × Xfer × Option EngStop :=
  let k := x.pieceLen
  match s.keepAhead e x k with
  | (s, x, some stop) => (s, o, x, some stop)
  | (s, x, none) =>
  if k = 0 then (s, o, x, none)
  else
    let span := k + x.wordRest (x.landed + k)
    let kept (j : Nat) : Option Byte := FMap.find x.snapshot (x.landed + j)
    let lead := ((List.range span).takeWhile (fun j => (kept j).isSome)).length
    let (s, raw, stop) := s.readSpan e x.ssp (x.src + BitVec.ofNat 64 (x.landed + lead)) 3 (span - lead)
    let byte (j : Nat) : Byte := (kept j).getD (raw.getD (j - lead) 0)
    let got := lead + raw.length
    let n := x.landable k got stop
    let (s, o, x', wstop) := s.writeSpan e o x 3 ((List.range n).map byte)
    let rest := (List.range (min (x'.wordRest x'.landed) (x.landed + got - x'.landed))).map (fun j => x'.landed + j)
    let snapshot := rest.foldl (fun m j => if (FMap.find m j).isSome then m else FMap.put m j (byte (j - x.landed)))
      (x.snapshot.filter (fun b => decide (x'.landed ≤ b.1)))
    (s, o, { x' with snapshot }, wstop.orElse (fun _ => if n = k then none else stop))

/-- The engine context of an operation. -/
def State.engOf (s : State) (o : Op) : Eng :=
  let team := match o.agent with
    | .group g _ => ((s.group? g).map (fun (gr : Group) => gr.team)).getD 0
    | .thread t => ((s.thread? t).map (fun (th : Thread) => th.team)).getD 0
  { ctx := o.ctx, core := o.core, team, owed := o.owed.map Prod.fst }

/-- The engine context of a copy or entry with a number. -/
def State.engFor (s : State) (id : Nat) (o : Op) : Eng := { s.engOf o with op := id }

/-- The transfer of a copy or entry. -/
def OpKind.xfer? : OpKind → Option Xfer
  | .copy x _ _ => some x
  | .entry _ _ x _ _ _ => some x
  | _ => none

/-- A copy or entry with its transfer replaced. -/
def OpKind.setXfer (k : OpKind) (x : Xfer) : OpKind :=
  match k with
  | .copy _ o y => .copy x o y
  | .entry a b _ c d e => .entry a b x c d e
  | k => k

/-- The charge of a transfer with its progress (R102): one tick for each 64 bytes left, rounded up, and 32 until retirement. R102 does not say
when a tick falls where the size or the pieces are no multiple of 64 (DESIGN CHOICE, log 116). -/
def Xfer.charge (x : Xfer) : Nat := 32 + (x.size - x.landed + 63) / 64

/-! Retirement in issue order (R213) -/

/-- Bytes or elements that an operation has completed. -/
def OpKind.done : OpKind → Nat
  | .copy x _ _ => x.landed
  | .entry _ _ x _ _ _ => x.landed
  | .gather _ _ _ _ _ got => got.length
  | .scatter _ _ _ _ n => n
  | .writeBack _ _ lines total => total - dirtyBytes lines
  | .coll _ _ b => b.landed + b.got.foldl (fun n g => n + g.2) 0
  | _ => 0

/-- The ENGINE code of an operation (R341). -/
def OpKind.engine : OpKind → Nat
  | .copy _ _ _ | .writeBack _ _ _ _ => 1
  | .kick _ _ _ | .entry _ _ _ _ _ _ => 2
  | .gather _ _ _ _ _ _ => 3
  | .scatter _ _ _ _ _ => 4
  | .coll _ _ _ => 5
  | .mapf _ _ _ => 7
  | _ => 0

/-- The number of a counter in a held error. -/
def Counter.code : Counter → Nat
  | .copy => 0 | .gather => 1 | .fabric => 2 | _ => 3

/-- DETAIL of a COPYERR (R351). -/
def copyErrDetail (engine status done : Nat) : W64 := BitVec.ofNat 64 (engine * 2 ^ 57 + status * 2 ^ 32 + done % 2 ^ 32)

/-- A bucket retires (R242): its status goes to its lane of D, which is full once the last bucket of its instruction has. -/
def State.bucketDone (s : State) (a : Agent) (first : Nat) (dst : Reg) (b : Bucket) : State :=
  match a, dst with
  | .group g _, .vec n p =>
    let more := s.ops.any (fun o => o.2.agent.base == a.base && (match o.2.kind with | .coll f _ _ => f == first | _ => false))
    s.modGroup g (fun gr =>
      let gr := gr.writeVec n p s.now none [(b.lane, BitVec.ofNat 64 b.status)]
      if more then gr else gr.setFull true (.row n))
  | _, _ => s

/-- An operation retires: its counter falls, its charge is credited, and its error is held for the group (R213, R350). -/
def State.retireOp (s : State) (id : Nat) (o : Op) : State :=
  let s := (s.dropOp id).dropCounter o.agent o.counter
  let s := match o.kind with | .coll first dst b => s.bucketDone o.agent first dst b | _ => s
  match o.error, o.agent with
  | some st, .group g _ =>
    let e : HeldError :=
      { cause := .copyerr, counter := o.counter.code, seq := o.seq, addr := o.errAddr, lanes := none,
        detail := copyErrDetail o.errEng st o.kind.done, ipoff := o.poff, dst := none }
    s.modGroup g (fun gr => { gr with errors := gr.errors ++ [e] })
  | _, _ => s

/-- Retires the finished operations of a counter from the oldest on. -/
def State.retireReady (s : State) (a : Agent) (c : Counter) : Nat → State
  | 0 => s
  | fuel + 1 =>
    match s.ops.find? (fun p => p.2.counter == c && p.2.agent.base == a.base) with
    | some (id, o) => if o.finished then (s.retireOp id o).retireReady a c fuel else s
    | none => s

/-- An operation's work is done: it retires, and what is left of its reservations is credited (R105), once every older one of its counter has
(R213). -/
def State.finishOp (s : State) (id : Nat) : State :=
  match FMap.find s.ops id with
  | none => s
  | some o =>
    if o.counter = .none then s.dropOp id
    else (s.modOp id (fun o => { o with finished := true, parked := none })).retireReady o.agent o.counter 256

/-- What the end of an operation changes in its team's CLM: the offset and value of an entry's STATUS (R217), and the update of its object
(R208, R218). -/
structure Ending where
  status : Option (Nat × Nat) := none
  obj : Option W64 := none
  n : Nat
  err : Bool := false
  arr : Bool := false
  deriving DecidableEq, Repr

/-- The end of a copy or an entry. -/
def OpKind.endsWith (k : OpKind) (status : Nat) : Ending :=
  match k with
  | .copy x obj _ => { obj, n := x.size, err := status != 1 }
  | .entry _ off x obj arr _ => { status := some (off, status), obj := obj.map (BitVec.ofNat 64), n := x.size, err := status != 1, arr }
  | _ => { n := 0 }

/-- The place of an object that can be reached (R208, R218). A copy of 0 bytes checks nothing (R214): an object of it that is misaligned or
outside the block stays as it is (DESIGN CHOICE, log 90). -/
def Team.objectAt (t : Team) (obj : W64) : Option (Nat × Nat) := if obj.toNat % 16 ≠ 0 then none else t.resolve t.core obj 16

/-- Why an engine's update of a range of its team's block does not happen now (R71, R95, R231), if it does not; an object is read as well
(R337). -/
def State.updateGate (s : State) (e : Eng) (place : Option (Nat × Nat)) (n : Nat) (reads : Bool) : State × Option EngStop :=
  match s.team? e.team, place with
  | some t, some (core, o) =>
    match s.engGate e.team t core o n true (BitVec.ofNat 64 o) false with
    | (s, .error x) => (s, some x)
    | (s, .ok ()) => (s, if reads then (s.lostLine t core o n).map (fun l => .fail .dataerr 2 (BitVec.ofNat 64 (64 * l)) .engWrite false) else none)
  | _, _ => (s, none)

/-- Whether the core of an operation services faults: a halted core does not (R336). -/
def State.serves (s : State) (core : Nat) : Bool := (s.core core).phase == .running

/-- Whether an operation retires as soon as its work is done. -/
def State.retiresNow (s : State) (id : Nat) : Bool :=
  (FMap.find s.ops id).any (fun o => o.counter == .none ||
    (s.ops.find? (fun p => p.2.counter == o.counter && p.2.agent.base == o.agent.base)).any (fun p => p.1 == id))

/-- Whether the lines that the end of an operation makes dirty fit (R104): the spec has no charge for them, so the end waits until they do;
once the core has halted they count against the operation's own charge (DESIGN CHOICE, log 113). -/
def State.endFits (s : State) (e : Eng) (t : Team) (places : List (Nat × Nat × Nat)) : Bool :=
  let new := (places.flatMap (fun p => (s.newDirty t p.1 p.2.1 p.2.2).map (fun l => (p.1, l)))).eraseDups
  let s' := if s.retiresNow e.op then s.dropOp e.op else s
  !s.serves e.core || new.all (fun c => decide (s'.estimate c.1 + (new.filter (fun x => x.1 == c.1)).length ≤ s.boundCore e.ctx))

/-- The end of an operation is written: STATUS, then the object, in one atomic update that acts as an `arrive` of the issuing group (R90,
R218). Nothing is written where a part of it has to wait, nor, unless `force` is set, where a part of it faults; with `force` a part that
faults is left out (DESIGN CHOICE, log 90). -/
def State.putEnd (s : State) (a : Agent) (e : Eng) (x : Ending) (force : Bool) : State × Option EngStop :=
  match s.team? e.team with
  | none => (s, none)
  | some t =>
    let st := x.status.bind (fun sv => t.resolve t.core (BitVec.ofNat 64 (sv.1 + 0x16)) 2)
    let ob := x.obj.bind t.objectAt
    let (s, stStop) := s.updateGate e st 2 false
    let (s, obStop) := s.updateGate e ob 16 true
    let places := (if stStop.isNone then st.toList.map (fun p => (p.1, p.2, 2)) else []) ++ (if obStop.isNone then ob.toList.map (fun p => (p.1, p.2, 16)) else [])
    if stStop == some .wait || obStop == some .wait || !s.endFits e t places then (s, some .wait)
    else if !force && (stStop.isSome || obStop.isSome) then (s, stStop.orElse (fun _ => obStop))
    else
      let s := match st, x.status, stStop with
        | some (core, o), some (_, v), none => s.clmStore e.team core o (leBytes 2 v)
        | _, _, _ => s
      match ob, obStop with
      | some (core, o), none => ((s.modBar e.team core o (fun b => b.complete x.n x.err x.arr)).arrived a (t.lineKey core o), none)
      | _, _ => (s, none)

/-- The kick of an entry retires when every entry has completed or been refused (R218). -/
def State.kickDone (s : State) (kick : Nat) : State :=
  match FMap.find s.ops kick with
  | some o => match o.kind with
    | .kick _ count started =>
      if started = count && !s.ops.any (fun p => match p.2.kind with | .entry k _ _ _ _ _ => k == kick | _ => false) then s.finishOp kick
      else s
    | _ => s
  | none => s

/-- The values that a gather's destination gets (R118, R216). -/
def gatherVals (spread : List Nat) (got : FMap W64) : FMap W64 :=
  if spread.isEmpty then got else match got with | (_, v) :: _ => spread.map (fun l => (l, v)) | [] => []

/-- The lines of a write-back that is not finished keep their dirty bytes in the region that still holds them (R345). -/
def State.keepLines (s : State) (tid core : Nat) (lines : List (Nat × W64 × W64)) : State :=
  lines.foldl (fun (s : State) l => match (s.team? tid).bind (fun t => t.regionAt core l.1) with
    | some (i, r) => s.modTeam tid (fun t => { t with regions := FMap.put t.regions i (r.markDirty ((l.1 - r.off) / 64) l.2.2) })
    | none => s) s

/-- An operation that ends with its error status (R344, R350, R351): landed bytes stay, a named object is updated with ERR, an entry's STATUS
is written, the unfinished lanes of a gather read 0. It goes on ending while CLM has to be waited for. -/
def State.endOp (s : State) (id : Nat) : State :=
  match FMap.find s.ops id with
  | none => s
  | some o =>
    let wait (s : State) : State := s.modOp id (fun o => { o with ending := true, parked := none, resuming := false })
    let put (s : State) : State × Option EngStop := s.putEnd o.agent (s.engFor id o) (o.kind.endsWith (o.error.getD 1)) true
    match o.kind with
    | .copy _ _ _ => match put s with
      | (s, some _) => wait s
      | (s, none) => s.finishOp id
    | .entry kick _ _ _ _ _ => match put s with
      | (s, some _) => wait s
      | (s, none) => (s.dropOp id).kickDone kick
    | .gather _ _ dst spread addrs got =>
      (s.fillReg o.agent dst (gatherVals spread (addrs.map (fun la => (la.1, (FMap.find got la.1).getD 0))))).finishOp id
    | .writeBack tid core lines _ => (s.keepLines tid core lines).finishOp id
    | _ => s.finishOp id

/-- What the step under way of a bucket has written goes back to what stood there (R358): after statuses 2 to 5 every element holds its input or
a value that a completed step left (DEDUCED, log 119). -/
def State.undoStep (s : State) (o : Op) (b : Bucket) : State :=
  b.undo.foldl (fun s u => match s.translate o.core o.ctx u.1 { w := true } with
    | (s, .ok pa) => (s.homeWrite o.ctx pa u.2).1
    | (s, .error _) => s) s

/-- Ends an operation with an error. -/
def State.endWithError (s : State) (id status : Nat) (addr : W64) (engine : Nat) : State :=
  match FMap.find s.ops id with
  | none => s
  | some o =>
    match o.kind with
    | .coll first dst b =>
      ((s.undoStep o b).modOp id (fun o =>
        { o with charge := 0, kind := .coll first dst { b with status := if b.status < 2 then 2 else b.status, undo := [] } })).finishOp id
    | .kick list _ started => (s.modOp id (fun o => { o with parked := none, kind := .kick list started started })).kickDone id
    | _ => (s.modOp id (fun o => { o with error := some status, errAddr := addr, errEng := engine })).endOp id

/-- ENGINE PARK (R343): the operation stops at 32 ticks, and its group takes the cause at its next boundary, in slot 0, or in slot 1
where slot 0 is free. In a vacate the fault is not serviced (R336), and a group whose fixed
state was lost takes nothing any more (R337). A fatal group's operation is cancelled (R346). A kick that parks on the
read of its next entry has no charge (R218), so it takes none (DEDUCED, log 92). -/
def State.parkOp (s : State) (id : Nat) (o : Op) (c : Cause) (reason : Nat) (addr : W64) (kind : AccKind) (win : Bool) : State :=
  let engine := if win then 6 else o.kind.engine
  let detail := memDetail true kind engine reason (BitVec.ofNat 32 o.kind.done)
  let quiet := !s.serves o.core
  let s := s.modOp id (fun o => { o with charge := if o.cls = .free then 0 else 32, resuming := false, parked := some { cause := c, addr, detail, quiet } })
  match o.agent with
  | .thread _ => s
  | .group g _ =>
    match s.group? g with
    | none => s
    | some gr =>
      if gr.fatal then s.endWithError id 9 addr engine
      else if quiet || gr.lost then s
      else
        let slot : SlotId := if gr.s0.status = .free && gr.s1.status ≠ .free then .pc1 else .pc0
        s.takeTrap (.group g slot) { cause := c, addr, lanes := some 0, detail } (some id)

/-- Whether a core runs for a context (R113). -/
def State.holdsCore (s : State) (ctx core : Nat) : Bool :=
  (s.core core).phase == .running && (match s.ctx? ctx with | some cx => cx.pairs.contains (core / 2) | none => false)

/-- A resumed operation goes on once its charge, and the reservations that it owes on cores restored since (R105, R113), pass the check
(R344): none until then. -/
def State.readmit (s : State) (id : Nat) (o : Op) : Option (State × Op) :=
  let back := o.owed.filter (fun r => s.holdsCore o.ctx r.1)
  if !o.resuming && back.isEmpty then some (s, o)
  else
    let work := if o.resuming then o.kind.workLeft else o.charge
    let d : Delta := { cls := o.cls, charge := work - o.charge, resv := back }
    if !s.serves o.core || (s.duskFails o.core o.ctx d).isSome then none
    else
      let o' := { o with resuming := false, charge := if o.cls = .free then 0 else work,
                         owed := o.owed.filter (fun r => !s.holdsCore o.ctx r.1),
                         resv := back.foldl (fun m r => FMap.put m r.1 (FMap.at 0 m r.1 + r.2)) o.resv }
      some (s.modOp id (fun _ => o'), o')

/-- An operation that can go on: in flight, not parked, ending or finished, its charge regained. -/
def State.running (s : State) (id : Nat) : Res (State × Op) := do
  let o ← getSome (FMap.find s.ops id) "no such operation"
  need (o.parked.isNone && !o.ending && !o.finished) "the operation is parked, ending or finished"
  getSome (s.readmit id o) "the operation's charge does not fit yet"

/-- An operation that ends with its error tries again (R344, R350). -/
def State.endAgain (s : State) (id : Nat) : Option State :=
  match FMap.find s.ops id with
  | some o => if o.ending && s.serves o.core then some (s.endOp id) else none
  | none => none

/-! Gathers and scatters (R216) -/

/-- Reads the elements of a gather, lane by lane, from where it stands. -/
def State.gatherOn (s : State) (e : Eng) (sp : Space) (ty : Nat) (got : FMap W64) : FMap W64 → State × FMap W64 × Option EngStop
  | [] => (s, got, none)
  | (l, a) :: rest =>
    if (FMap.find got l).isSome then s.gatherOn e sp ty got rest
    else match s.engRead e sp a (tySize ty) with
      | (s, .error x) => (s, got, some x)
      | (s, .ok bs) => s.gatherOn e sp ty (FMap.put got l (extendTy ty (leNat bs))) rest

/-- The row that a window address names. -/
def State.rowAt (s : State) (e : Eng) (a : W64) : Option (Nat × Nat) :=
  match s.window e a .engWrite true with | .ok (.row g k _) => some (g, k) | _ => none

/-- Writes elements of a scatter, lane by lane, from where it stands; `stopRow` ends it after an element that ends a window row (R52). -/
def State.scatterOn (s : State) (e : Eng) (o : Op) (sp : Space) (ty : Nat) (data : FMap W64) (stopRow : Bool) (n : Nat) :
    FMap W64 → State × Op × Nat × Option EngStop
  | [] => (s, o, n, none)
  | (l, a) :: rest =>
    let row := if sp == .w then s.rowAt e a else none
    let last := row.isSome && !rest.any (fun x => s.rowAt e x.2 == row)
    match s.engWrite e sp a (leBytes (tySize ty) (FMap.at 0 data l).toNat) true last with
    | (s, .error (.moved c)) => (s, o.credit c, n, some (.moved c))
    | (s, .error x) => (s, o, n, some x)
    | (s, .ok c) =>
      if stopRow && last then (s, o.credit c, n + 1, none)
      else s.scatterOn e (o.credit c) sp ty data stopRow (n + 1) rest

/-- A line of a region has been written back: it is no longer dirty, unless it has been unmapped meanwhile (R72, log 114). -/
def State.lineBack (s : State) (t : Team) (core o : Nat) : State :=
  match t.regionAt core o with
  | some (_, r) => if (FMap.find r.state ((o - r.off) / 64)).isNone then { s with dirty := NSet.del s.dirty (t.lineKey core o) } else s
  | none => s

/-- The next line of a write-back (R72): exactly the bytes of its mask go to its address. -/
def State.backLine (s : State) (e : Eng) (t : Team) (core : Nat) (l : Nat × W64 × W64) : State × Option EngStop :=
  let fail (c : Cause) (r : Nat) : EngStop := .fail c r l.2.1 .regionBack false
  if (s.lostLine t core l.1 64).isSome then (s, some (.fail .dataerr 2 (BitVec.ofNat 64 l.1) .regionBack false))
  else match s.translate e.core e.ctx l.2.1 { w := true } with
  | (s, .error (c, r)) => (s, some (fail c r))
  | (s, .ok pa) =>
    if !s.homePasses e.ctx pa true then (s.ownerEvent e.ctx pa, some (fail .owner 2))
    else
      let s := (s.recall (pa / 64)).l2Touch e.ctx pa true
      let bs := s.clmRead t core l.1 64
      let mem := (lanesOf 64 l.2.2).foldl (fun m k => Mem.write m (pa + k) (bs.getD k 0)) s.mem
      (if l.2.2 == allLanes 64 then { s with mem }.unpoison (pa / 64) else { s with mem }, none)

/-- Runs the next part of an operation's work: the state and operation after what it could do, and why it stopped, if it did. -/
def State.advance (s : State) (id : Nat) (o : Op) : State × Op × Option EngStop :=
  let e := s.engFor id o
  match o.kind with
  | .gather sp ty dst spread addrs got =>
    let (s, got, stop) := s.gatherOn e sp ty.code got addrs
    (s, { o with kind := .gather sp ty dst spread addrs got, charge := 32 + (addrs.length - got.length) }, stop)
  | .scatter sp ty addrs data n =>
    let (s, o, n, stop) := s.scatterOn e o sp ty.code data false n (addrs.drop n)
    (s, { o with kind := .scatter sp ty addrs data n, charge := 32 + (addrs.length - n) }, stop)
  | .writeBack tid core (l :: rest) total =>
    (match s.team? tid with
    | none => (s, o, some .wait)
    | some t => match s.backLine e t core l with
      | (s, some x) => (s, o, some x)
      | (s, none) => (s.lineBack t core l.1, { o with kind := .writeBack tid core rest total, charge := chargeOf 0 (dirtyBytes rest) }, none))
  | .kick list count started =>
    if count ≤ started then (s, o, some .wait)
    else (match s.engRead e .l (BitVec.ofNat 64 (list + 32 * started)) 32 with
    | (s, .error x) => (s, o, some x)
    | (s, .ok _) => (s, o, none))
  | k => match k.xfer? with
    | some x =>
      if x.landed = x.size then
        match s.putEnd o.agent e (k.endsWith 1) false with
        | (s', some stop) => (s', o, some stop)
        | (_, none) => (s, o, some .wait)
      else
        let (s, o, x, stop) := s.landPiece e o x
        (s, { o with kind := k.setXfer x, charge := x.charge }, stop)
    | none => (s, o, some .wait)

/-- Whether a stop keeps what the rename stage has begun. -/
def begun : Option EngStop → Bool
  | some (.moved _) => true
  | _ => false

/-- COPY_BYTES_LANDED (R102): the next 64-byte piece of a copy, entry or write-back lands, or as much of it as lies below a fault. The
bytes that end a window row land by WINDOW_WRITE_LAND. -/
def execCopyBytesLanded (op : Nat) (s : State) : Out :=
  stepOut s (do
    let (s, o) ← s.running op
    match o.kind with
    | .copy x _ _ | .entry _ _ x _ _ _ => do
      need (!s.rowEnd (s.engFor op o) x x.pieceLen) "the piece ends a window row"
      need (x.landed != x.size) "every byte has landed"
    | .writeBack _ _ (_ :: _) _ => pure ()
    | _ => .error (.idle "no bytes are left to land")
    let (s', o', stop) := s.advance op o
    need (o'.kind != o.kind || begun stop) "the next access waits or fails"
    pure (s'.modOp op (fun _ => o')))

/-- WINDOW_WRITE_LAND (R52): the last bytes of a window write land in a row, which becomes full. -/
def execWindowWriteLand (op : Nat) (s : State) : Out :=
  stepOut s (do
    let (s, o) ← s.running op
    let e := s.engFor op o
    match o.kind with
    | .scatter sp ty addrs data n => do
      need (sp == .w) "not a window write"
      let (s, o, n', stop) := s.scatterOn e o sp ty.code data true n (addrs.drop n)
      need ((stop.isNone && n' != n) || begun stop) "the next access waits or fails"
      pure (s.modOp op (fun _ => { o with kind := .scatter sp ty addrs data n', charge := 32 + (addrs.length - n') }))
    | k => do
      let x ← getSome k.xfer? "not a transfer"
      need (s.rowEnd e x x.pieceLen) "the piece does not end a window row"
      let (s', o', stop) := s.advance op o
      need (o'.kind != o.kind || begun stop) "the next access waits or fails"
      pure (s'.modOp op (fun _ => o')))

/-- COPY_RETIRE (R208, R213, R214): the last byte has landed, the object is counted down, and the copy retires in order; a copy that ends
with an error tries again. -/
def execCopyRetire (op : Nat) (s : State) : Out :=
  match s.endAgain op with
  | some s => .next s
  | none =>
    stepOut s (do
      let (s, o) ← s.running op
      match o.kind with
      | .copy x _ _ => do
        need (x.landed == x.size) "bytes are still to land"
        match s.putEnd o.agent (s.engFor op o) (o.kind.endsWith 1) false with
        | (s, none) => pure (s.finishOp op)
        | _ => .error (.idle "the object cannot be updated now")
      | .writeBack _ _ [] _ => pure (s.finishOp op)
      | _ => .error (.idle "not a copy whose bytes have landed"))

/-- LOAD_DATA_ARRIVAL (R51, R194, R201, R216): the data of a load, sample, value-returning atomic or gather arrives. -/
def execLoadDataArrival (op : Nat) (s : State) : Out :=
  stepOut s (do
    let o ← getSome (FMap.find s.ops op) "no such operation"
    match o.kind with
    | .load _ dst lanes vals succ late => pure (s.loadArrives op o dst lanes vals succ late)
    | .gather _ _ _ _ addrs got0 => do
      let (s, o) ← s.running op
      need (got0.length != addrs.length || addrs.isEmpty) "the data has arrived"
      let (s, o, stop) := s.advance op o
      need stop.isNone "the next access waits or fails"
      match o.kind with
      | .gather _ _ dst spread _ got => pure ((s.modOp op (fun _ => o)).fillReg o.agent dst (gatherVals spread got))
      | _ => pure s
    | _ => .error (.idle "nothing arrives for the operation"))

/-- GATHER_RETIRE (R213, R216): a gather whose data has arrived, or a scatter, which writes its elements, completes and retires in
order. -/
def execGatherRetire (op : Nat) (s : State) : Out :=
  stepOut s (do
    let (s, o) ← s.running op
    match o.kind with
    | .gather _ _ _ _ addrs got => do
      need (got.length == addrs.length) "the data has not arrived"
      pure (s.finishOp op)
    | .scatter _ _ _ _ _ => do
      let (s, o, stop) := s.advance op o
      need (stop.isNone || begun stop) "the next access waits or fails"
      pure (if stop.isNone then (s.modOp op (fun _ => o)).finishOp op else s.modOp op (fun _ => o))
    | _ => .error (.idle "not a gather or scatter"))

/-- A line whose write-back faults in a vacate (R345): it is dirty in its region again, and its write-back goes on with the next line. -/
def State.skipLine (s : State) (id tid core : Nat) (l : Nat × W64 × W64) (rest : List (Nat × W64 × W64)) (total : Nat) : State :=
  (s.keepLines tid core [l]).modOp id (fun o => { o with kind := .writeBack tid core rest total, charge := chargeOf 0 (dirtyBytes rest) })

/-- ENGINE_FAULT_PARK (R113, R343): the next access of an operation takes PAGE, PROT or OWNER, or reaches a saved core: what
completes below it is done, and the operation parks. -/
def execEngineFaultPark (op : Nat) (s : State) : Out :=
  stepOut s (do
    let (s, o) ← s.running op
    let (s, o, stop) := s.advance op o
    let s := s.modOp op (fun _ => o)
    match stop with
    | some .saved =>
      pure (s.modOp op (fun o => { o with charge := 32, resuming := false, parked := some { cause := .window, addr := 0, detail := 0, quiet := true } }))
    | some (.fail c r a k w) => do
      need (c == .page || c == .prot || c == .owner) "the access does not park"
      match o.kind, s.serves o.core with
      | .writeBack tid core (l :: rest) total, false =>
        if ((s.team? tid).bind (fun (t : Team) => t.regionAt core l.1)).isSome then pure (s.skipLine op tid core l rest total)
        else pure (s.parkOp op o c r a k w)
      | _, _ => pure (s.parkOp op o c r a k w)
    | _ => .error (.idle "the next access does not fault"))

/-- The address that an error's record holds (R351): the first destination byte that was not moved. -/
def OpKind.errAddr (k : OpKind) (fail : W64) : W64 :=
  match k.xfer? with
  | some x => x.dst + BitVec.ofNat 64 x.landed
  | none => fail

/-- ENGINE_ERROR_RETIRE (R343, R350): WINDOW or DATAERR stops an operation, which retires with an error. -/
def execEngineErrorRetire (op : Nat) (s : State) : Out :=
  stepOut s (do
    let (s, o) ← s.running op
    let (s, o, stop) := s.advance op o
    let s := s.modOp op (fun _ => o)
    match stop with
    | some (.fail c _ a _ w) => do
      need (c == .window || c == .dataerr) "the access parks"
      pure (s.endWithError op (if c == .window then 6 else 7) (o.kind.errAddr a) (if w then 6 else o.kind.engine))
    | _ => .error (.idle "the next access does not fail"))

end Sys2Proof.Machine
end

