-- ==== Sys2Proof/Machine/Async.lean ====
section
/-! DEFINITION. Copies, gathers, scatters, request lists, waits, `empty` and `spawn`: opcodes 0x61 to 0x67 (R213 to R221). -/
namespace Sys2Proof.Machine

open Sys2Proof

/-- A space code (R213). -/
def spaceOf (n : Nat) : Space := match n with | 0 => .g | 1 => .l | _ => .w

/-- Ticks reserved for `n` bytes written into CLM or the window space (R105). -/
def resvTicks (n : Nat) : Nat := (n + 63) / 64 + 1

/-- The reservation of a transfer on the core that holds its destination (R105). -/
def State.resvAll (s : State) (ctx : Nat) (t : Team) (sp : Space) (dst : W64) (n : Nat) : FMap Nat :=
  if n = 0 then []
  else match sp with
    | .g => []
    | .l => match t.resolve t.core dst n with | some (core, _) => [(core, resvTicks n)] | none => []
    | .w =>
      let core := (dst.toNat - windowBase) / 2 ^ 24
      if windowBase ≤ dst.toNat && (match s.ctx? ctx with | some cx => cx.pairs.contains (core / 2) || cx.savedPairs.contains (core / 2) | none => false)
      then [(core, resvTicks n)] else []

/-- The part of a reservation that is taken now: that on cores that run (R105); on the others it is owed until they are restored (R113). -/
def State.resvNow (s : State) (ctx : Nat) (r : FMap Nat) : FMap Nat := r.filter (fun x => s.holdsCore ctx x.1)

/-- The part of a reservation that is owed (R113). -/
def State.resvOwed (s : State) (ctx : Nat) (r : FMap Nat) : FMap Nat := r.filter (fun x => !s.holdsCore ctx x.1)

/-- The transfer of a `cpy` (R213, R214). -/
def Iss.xfer (i : Iss) (s : State) : Xfer :=
  let xs := i.f.xs.toNat
  let off (lo : Nat) : W64 := if i.f.sub = 0 then (bits i.f.imm lo 10).signExtend 64 * 16 else 0
  { ssp := spaceOf (xs / 4 % 4), src := i.vb s 0 + off 0, dsp := spaceOf (xs % 4), dst := i.va s 0 + off 10, size := (i.vc s 0).toNat }

/-- The check of one range of a copy at issue (R68, R75, R214). -/
def copyRange (s : State) (i : Iss) (t : Team) (sp : Space) (a : W64) (n : Nat) (kind : AccKind) : Option (Cause × Trap) :=
  let trap (c : Cause) (r : Nat) : Option (Cause × Trap) := some (c, { cause := c, addr := a, detail := memDetail false kind (if sp == .w && kind == .engWrite then 6 else 1) r 0 })
  if n = 0 then none
  else match sp with
    | .g => none
    | .l => if (t.resolve t.core a n).isNone then trap .prot 2 else none
    | .w => match s.window { ctx := i.ctx, core := i.core, team := i.team } a kind (kind == .engWrite) with
      | .error (.fail c r _ _ _) => trap c r
      | _ => none

/-- The check of the object of a copy (R214). -/
def copyObject (t : Team) (obj : W64) : Option (Cause × Trap) :=
  let trap (c : Cause) (r : Nat) : Option (Cause × Trap) := some (c, { cause := c, addr := obj, detail := memDetail false .engWrite 1 r 0 })
  if obj.toNat % 16 ≠ 0 then trap .align 0 else if (t.resolve t.core obj 16).isNone then trap .prot 2 else none

/-- The first of several causes in the order of R340. -/
def firstCause (cs : List (Option (Cause × Trap))) : Option Trap :=
  ((cs.filterMap id).foldl (fun (best : Option (Cause × Trap)) c =>
    match best with | some b => if c.1.rank < b.1.rank then some c else best | none => some c) none).map Prod.snd

/-- The checks of an instruction that raises the copy counter (R213). -/
def copyHold (i : Iss) (s : State) : Bool := match s.group? i.gi with | some g => g.copies == 255 | none => false

/-- The checks of `cpy` (R102, R105, R213). -/
def cpyHooks : Hooks :=
  { hold := copyHold
    delta := fun i s =>
      let x := i.xfer s
      if 2 ^ 32 ≤ x.size then {}
      else match s.team? i.team with
        | some t => { cls := .memory, charge := chargeOf 0 x.size, resv := s.resvNow i.ctx (s.resvAll i.ctx t x.dsp x.dst x.size) }
        | none => {} }

/-- `cpy` (R214); with `yields`, `cpy.y` (R215). -/
def cpyBody (yields : Bool) (i : Iss) (s : State) : Res State :=
  match s.team? i.team with
  | none => .error (.fault .noAgent)
  | some t =>
    let x := i.xfer s
    if 2 ^ 32 ≤ x.size then
      .error (.trap { cause := .copyerr, addr := x.dst, detail := copyErrDetail 1 0xA 0, ipoff := poffOf i.entry i.pc })
    else
      let obj : Option W64 := i.d.map (fun r => i.read s (some r) 0)
      match firstCause [copyRange s i t x.dsp x.dst x.size .engWrite, copyRange s i t x.ssp x.src x.size .engRead, if x.size = 0 then none else obj.bind (copyObject t)] with
      | some tr => .error (.trap tr)
      | none =>
        let target := i.pc + (i.f.imm.signExtend 64 <<< 2)
        let r := s.resvAll i.ctx t x.dsp x.dst x.size
        let x := x.begin s { ctx := i.ctx, core := i.core, team := i.team }
        let (id, s) := s.issueOp
          { agent := i.agent, core := i.core, ctx := i.ctx, cls := .memory, charge := x.charge, counter := .copy,
            resv := s.resvNow i.ctx r, owed := s.resvOwed i.ctx r, poff := poffOf i.entry i.pc,
            kind := .copy x obj (match i.agent with | .group _ sl => if yields then some (sl, target) else none | .thread _ => none) }
        let seq := ((FMap.find s.ops id).map (fun (o : Op) => o.seq)).getD 0
        .ok (if yields then s.modSlot i.agent (fun sl => { sl with park := .cpyY id seq target }) else s)

def execCpy (f : Ext) (s : State) : Out := runExt cpyHooks 0x61 f (cpyBody false) s
def execCpyY (f : Ext) (s : State) : Out := runExt cpyHooks 0x61 f (cpyBody true) s

/-- CPY_Y_REACTIVATE (R215, R350): the copy has retired; the slot resumes at its label, where the error of a copy that the wait covers
is taken. -/
def execCpyYReactivate (a : Agent) (s : State) : Out :=
  stepOut s (do
    let sl ← getSome (s.slot? a) "no such agent"
    match sl.park, a with
    | .cpyY op seq target, .group g _ => do
      need (sl.status == .live) "the slot is trapped"
      need (FMap.find s.ops op).isNone "the copy has not retired"
      let gr ← getSome (s.group? g) "no such group"
      let e := gr.errors.find? (fun e => e.counter == 0 && e.seq ≤ seq)
      let s := s.modGroup g (fun gr => match e with | some e => { gr with errors := gr.errors.erase e } | none => gr)
      pure (s.modSlot a (fun sl => { sl with pc := target, park := .none, owes := e }))
    | _, _ => .error (.idle "the slot has not yielded to a copy"))

/-! Gathers and scatters (R216) -/

/-- The space of a gather or scatter. -/
def Iss.space (i : Iss) : Space := spaceOf i.f.xs.toNat

/-- The address of a lane (R216): the index scaled by the element size. -/
def Iss.gthAddr (i : Iss) (s : State) (l : Nat) : W64 :=
  i.va s l + ((i.vb s l).setWidth 32).signExtend 64 * BitVec.ofNat 64 (tySize i.f.ty.toNat) + i.f.imm.signExtend 64

/-- The lanes that fail at issue (R69, R216): misaligned, or a CLM offset outside the block. -/
def gthFails (t : Team) (sp : Space) (n : Nat) (las : FMap W64) : List (Nat × W64 × Cause × Nat) :=
  las.filterMap (fun la =>
    if la.2.toNat % n ≠ 0 then some (la.1, la.2, Cause.align, 0)
    else if sp == .l && (t.resolve t.core la.2 n).isNone then some (la.1, la.2, Cause.prot, 2) else none)

/-- The reservations of a scatter: one tick for each active lane, on the core that holds its destination (R105). -/
def Iss.sctResv (i : Iss) (s : State) : FMap Nat :=
  match s.team? i.team with
  | none => []
  | some t => (i.eachLane (i.gthAddr s)).foldl (fun m la =>
      match s.resvAll i.ctx t i.space la.2 (tySize i.f.ty.toNat) with
      | (core, _) :: _ => FMap.put m core (FMap.at 0 m core + 1)
      | [] => m) []

/-- The checks of `gth` and `sct` (R213, R216). -/
def gthHooks (scatter : Bool) : Hooks :=
  { hold := fun i s => !i.lanes.isEmpty && (match s.group? i.gi with | some g => g.gathers == 255 | none => false)
    delta := fun i s =>
      if i.lanes.isEmpty then {}
      else { cls := .memory, charge := 32 + i.lanes.length, resv := if scatter then s.resvNow i.ctx (i.sctResv s) else [] } }

/-- `gth` and `sct` (R216). -/
def gthBody (scatter : Bool) (i : Iss) (s : State) : Res State :=
  if i.lanes.isEmpty then .ok s
  else match s.team? i.team with
    | none => .error (.fault .noAgent)
    | some t =>
      let las := i.eachLane (i.gthAddr s)
      match laneTrap (if scatter then .engWrite else .engRead) (if scatter then 4 else 3) (gthFails t i.space (tySize i.f.ty.toNat) las) with
      | some tr => .error (.trap tr)
      | none =>
        let kind : OpKind := if scatter then .scatter i.space (tyOf i.f.ty.toNat) las (i.eachLane (i.vc s)) 0
          else .gather i.space (tyOf i.f.ty.toNat) (i.d.getD (.vec 0 .word)) (if i.f.u then lanesOf i.width i.eff else []) las []
        let r := if scatter then i.sctResv s else []
        let s := if scatter then s else i.markEmpty s
        .ok (s.issueOp { agent := i.agent, core := i.core, ctx := i.ctx, cls := .memory, charge := 32 + i.lanes.length, counter := .gather,
                         resv := s.resvNow i.ctx r, owed := s.resvOwed i.ctx r, poff := poffOf i.entry i.pc, kind }).2

def execGth (f : Ext) (s : State) : Out := runExt (gthHooks false) 0x62 f (gthBody false) s
def execSct (f : Ext) (s : State) : Out := runExt (gthHooks true) 0x63 f (gthBody true) s

/-! Request lists (R217, R218) -/

/-- The STATUS of a kick that is refused at issue (R218). -/
def kickRefusal (t : Team) (a b : W64) : Option Nat :=
  let count := (bits b 0 16).toNat
  if bits a 20 44 ≠ 0 ∨ bits b 16 48 ≠ 0 ∨ 4096 < count ∨ bits a 0 5 ≠ 0 then some 4
  else if count ≠ 0 ∧ (t.resolve t.core a (32 * count)).isNone then some 8 else none

/-- `kick` (R218). -/
def execKick (f : Ext) (s : State) : Out :=
  runExt { hold := copyHold } 0x64 f (fun i s =>
    match s.team? i.team with
    | none => .error (.fault .noAgent)
    | some t =>
      match kickRefusal t (i.va s 0) (i.vb s 0) with
      | some st => .error (.trap { cause := .copyerr, addr := i.va s 0, detail := copyErrDetail 2 st 0, ipoff := poffOf i.entry i.pc })
      | none =>
        let (id, s) := s.issueOp { agent := i.agent, core := i.core, ctx := i.ctx, counter := .copy, poff := poffOf i.entry i.pc,
                                   kind := .kick (i.va s 0).toNat (bits (i.vb s 0) 0 16).toNat 0 }
        .ok (s.kickDone id)) s

/-- A request-list entry as the engine reads it (R217). -/
structure ListEntry where
  src : W64
  dst : W64
  w2 : W64
  w3 : W64
  deriving DecidableEq, Repr

/-- The words of an entry. -/
def ListEntry.ofBytes (bs : List Byte) : ListEntry :=
  let w (k : Nat) : W64 := BitVec.ofNat 64 (leNat ((bs.drop (8 * k)).take 8))
  { src := w 0, dst := w 1, w2 := w 2, w3 := w 3 }

def ListEntry.size (x : ListEntry) : Nat := (bits x.w2 0 32).toNat
def ListEntry.ssp (x : ListEntry) : Nat := (bits x.w2 34 2).toNat
def ListEntry.dsp (x : ListEntry) : Nat := (bits x.w2 32 2).toNat
def ListEntry.arr (x : ListEntry) : Bool := x.w2.getLsbD 37
def ListEntry.obj (x : ListEntry) : Nat := (bits x.w3 0 20).toNat

/-- The object of an entry that can be reached (R218). -/
def ListEntry.object (x : ListEntry) (t : Team) : Option Nat :=
  if x.w2.getLsbD 36 && x.obj % 16 == 0 && (t.resolve t.core (BitVec.ofNat 64 x.obj) 16).isSome then some x.obj else none

/-- The lowest code of the conditions that an entry breaks (R218, R351). -/
def ListEntry.refusal (x : ListEntry) (t : Team) : Option Nat :=
  let outside (sp : Nat) (a : W64) : Bool := sp == 1 && x.size != 0 && (t.resolve t.core a x.size).isNone
  if x.size % 16 ≠ 0 then some 2
  else if bits x.w2 38 10 ≠ 0 ∨ bits x.w3 20 44 ≠ 0 ∨ x.ssp = 3 ∨ x.dsp = 3 ∨ (x.w2.getLsbD 36 ∧ x.obj % 16 ≠ 0) then some 4
  else if (x.w2.getLsbD 36 && (x.object t).isNone) || outside x.ssp x.src || outside x.dsp x.dst then some 8 else none

/-- The transfer of an entry. -/
def ListEntry.xfer (x : ListEntry) : Xfer := { ssp := spaceOf x.ssp, src := x.src, dsp := spaceOf x.dsp, dst := x.dst, size := x.size }

/-- A kick has taken up its next entry. -/
def State.entryTaken (s : State) (kick : Nat) : State :=
  s.modOp kick (fun o => { o with kind := match o.kind with | .kick l c n => .kick l c (n + 1) | k => k })

/-- An entry is refused with a status (R108, R218): it ends with no byte moved, once its STATUS and object can be written. -/
def State.refuseEntry (s : State) (kick : Nat) (o : Op) (off : Nat) (x : ListEntry) (t : Team) (status : Nat) : State :=
  let (id, s) := (s.entryTaken kick).addOp { agent := o.agent, core := o.core, ctx := o.ctx, poff := o.poff, error := some status, ending := true,
                                             kind := .entry kick off x.xfer (x.object t) x.arr 0 }
  s.endOp id

/-- The next entry of a kick, read whole (R218): the list offset, the entry, the team; none while it waits or faults. -/
def State.nextEntry (s : State) (o : Op) : Res (State × Nat × ListEntry × Team) := do
  match o.kind with
  | .kick list count started => do
    need (started < count) "every entry has started"
    let e := s.engOf o
    let t ← getSome (s.team? e.team) "no team"
    let off := list + 32 * started
    match s.engRead e .l (BitVec.ofNat 64 off) 32 with
    | (s, .ok bs) => pure (s, off, ListEntry.ofBytes bs, t)
    | (_, .error _) => .error (.idle "the entry cannot be read now")
  | _ => .error (.idle "not a kick")

/-- The part of Δ of an entry (R105, R218). -/
def State.entryDelta (s : State) (o : Op) (t : Team) (x : ListEntry) : Delta :=
  { cls := .memory, charge := chargeOf 0 x.size, resv := s.resvNow o.ctx (s.resvAll o.ctx t (spaceOf x.dsp) x.dst x.size) }

/-- Entries of a kick in flight. -/
def State.entriesOf (s : State) (kick : Nat) : Nat :=
  (s.ops.filter (fun p => match p.2.kind with | .entry k _ _ _ _ _ => k == kick | _ => false)).length

/-- REQUEST_ENTRY_START (R108, R217, R218): the next entry is read, and refused, or started once its charge and reservation fit. -/
def execRequestEntryStart (kick : Nat) (s : State) : Out :=
  stepOut s (do
    let (s, o) ← s.running kick
    need (s.serves o.core) "the core is halted"
    need (s.entriesOf kick < 8) "eight entries are in flight"
    let (s, off, x, t) ← s.nextEntry o
    match x.refusal t with
    | some st => pure (s.refuseEntry kick o off x t st)
    | none => do
      let d := s.entryDelta o t x
      need (s.duskFails o.core o.ctx d).isNone "the entry does not fit"
      let r := s.resvAll o.ctx t (spaceOf x.dsp) x.dst x.size
      pure ((s.addOp { agent := o.agent, core := o.core, ctx := o.ctx, cls := .memory, charge := d.charge, resv := d.resv, owed := s.resvOwed o.ctx r,
                       poff := o.poff, kind := .entry kick off (x.xfer.begin s (s.engOf o)) (x.object t) x.arr 0 }).2.entryTaken kick))

/-- REQUEST_ENTRY_COMPLETE (R90, R218): the bytes have landed; STATUS is written, the object is updated, and the kick may retire. An entry
that ends with an error tries again. -/
def execRequestEntryComplete (op : Nat) (s : State) : Out :=
  match s.endAgain op with
  | some s => .next s
  | none =>
    stepOut s (do
      let (s, o) ← s.running op
      match o.kind with
      | .entry kick _ x _ _ _ => do
        need (x.landed == x.size) "bytes are still to land"
        match s.putEnd o.agent (s.engFor op o) (o.kind.endsWith 1) false with
        | (s, none) => pure ((s.dropOp op).kickDone kick)
        | _ => .error (.idle "its STATUS or object cannot be written now")
      | _ => .error (.idle "not an entry"))

/-! Waiting and marking -/

/-- The counter that `waitc` names (R219). -/
def waitCounter (sub : Nat) : Counter := match sub with | 0 => .copy | 1 => .gather | 2 => .fabric | _ => .matrix

/-- The bound of a `waitc`. -/
def Iss.waitBound (i : Iss) : Nat := i.f.imm.toNat % 256

/-- `waitc` (R219): it takes the error of an operation that its condition covers (R239, R350), and `waitc.fabric` that of a discarded store
(R357). -/
def execWaitc (f : Ext) (s : State) : Out :=
  runExt
    { hold := fun i s =>
        if i.seq then (match s.thread? i.gi with | some t => i.waitBound < t.matCount | none => false)
        else match s.group? i.gi with | some g => i.waitBound < g.counter (waitCounter i.f.sub.toNat) | none => false
      takes := fun i e => e.counter == i.f.sub.toNat && (e.discarded || (match s.group? i.gi with
        | some g => decide (e.seq + i.waitBound < g.issuedIn (waitCounter i.f.sub.toNat)) | none => false)) }
    0x65 f (fun _ s => .ok s) s

/-- The rows that `empty` covers (R38, R220): all eight of a tile. -/
def Iss.emptyRows (i : Iss) (s : State) : List Nat :=
  match i.d with
  | some (.vec n _) => if viewKind ((s.decEnv i.agent).view i.f.vs.toNat) = 1 then (List.range 8).map (fun k => n + k) else rowsOf i.d.toList
  | _ => []

/-- `empty` and `empty.full` (R220). -/
def execEmpty (f : Ext) (s : State) : Out :=
  runExt
    { hold := fun i s => match s.group? i.gi with | some g => (i.emptyRows s).any (fun n => (g.row n).refilling) | none => false }
    0x66 f (fun i s => .ok (s.modGroup i.gi (fun g => (i.emptyRows s).foldl (fun g n =>
      let r := g.row n
      if i.f.xs = 1 then g.setRow n { r with full := true }
      else if r.spilled then g.setRow n { full := false, ready := r.ready }
      else g.setRow n { r with full := false }) g))) s

/-! Spawning (R35, R221) -/

/-- `spawn` (R221): its record's address is checked, and its status comes with SPAWN_ENQUEUE. A launch with fewer than two units reads no
record. -/
def execSpawn (f : Ext) (s : State) : Out :=
  runCtl {} 0x67 f (fun i s =>
    let a := i.vb s 0
    let hold (s : State) : Res State :=
      match i.d with
      | some dst => .ok (i.holdFor s (.spawn i.launch a dst (i.vd s 0)))
      | none => .ok (i.nextPc s)
    if a.toNat % 32 ≠ 0 then .error (.trap { cause := .align, addr := a, detail := memDetail false .load 0 0 0 })
    else if !(FMap.find s.launches i.launch).any (fun L => 2 ≤ L.units) then hold s
    else match s.translate i.core i.ctx a { r := true } with
      | (s, .error (c, r)) => .error (.trapAt s { cause := c, addr := a, detail := memDetail false .load 0 r 0 })
      | (s, .ok _) => hold s) s

/-- SPAWN_ENQUEUE (R35, R221, R262): the acknowledgements are in and the queue has room; the record is read, half the units
move, and the child waits behind the queue's earlier requests. A record that cannot be read makes no child, and its cause is held for the reader of the status. -/
def execSpawnEnqueue (op : Nat) (s : State) : Out :=
  stepOut s (do
    let o ← getSome (FMap.find s.ops op) "no such operation"
    match o.kind with
    | .spawn launch a dst _ => do
      need (((s.agentState? o.agent).map (fun ag => ag.ack)).getD 0 == 0) "acknowledgements are outstanding"
      let s := (s.closeRegion o.agent).2
      let done (s : State) (st : W64) : State := s.statusDone op o dst st
      match FMap.find s.launches launch with
      | none => pure (done s 1)
      | some L =>
        if L.units < 2 then pure (done s 1)
        else do
          let q := FMap.at {} s.queues L.queue
          need (q.ringCount + q.children.length < 2 ^ q.log2n) "the queue has no room"
          match s.hubWords o.ctx a 4 with
          | (s, .ok [desc, args, teams, _]) =>
            let half := L.units / 2
            let s := s.modLaunch launch (fun L => { L with units := L.units - half })
            let s := s.modQueue L.queue (fun q =>
              { q with children := q.children ++ [(q.ringCount, { desc, args, teams, phase := L.record.phase }, half, L.rootQueue)] })
            pure (done s 0)
          | (s, .error (c, r)) =>
            let late : Late := { cause := c, addr := a, lanes := 1, detail := memDetail false .load 0 r o.poff, dsts := [dst] }
            pure (done (s.modAgent o.agent (fun ag => { ag with late := ag.late ++ [late] })) 1)
          | (s, _) => pure (done s 1)
    | _ => .error (.idle "not a spawn"))

end Sys2Proof.Machine
end

