-- ==== Sys2Proof/Machine/Compact.lean ====
section
/-! DEFINITION. The compactor (R31). -/
namespace Sys2Proof.Machine

open Sys2Proof

/-- Bytes of CLM of a core that no block takes. -/
def State.clmFree (s : State) (core : Nat) : Nat := (s.clmUsed core).foldl (fun n b => n - b.2) clmBytes

/-- Whether a core cannot give a block although enough CLM is free there in total (R31). -/
def State.clmShort (s : State) (core size : Nat) : Bool := decide (size ≤ s.clmFree core) && (allocClm (s.clmUsed core) 8 size).isNone

/-- Whether the launch in a context's admission slot asks for a block that a core cannot give although enough CLM is free there in total (R31):
the next team, or, of a launch whose teams are placed together (R28), the one that follows those that find room. -/
def State.clmWantedBy (s : State) (c : Context) (core : Nat) : Bool :=
  match c.slot.bind (fun l => (FMap.find s.launches l).map (fun L => (l, L))) with
  | none => false
  | some (l, L) => match L.desc with
    | none => false
    | some d =>
      let n := (bits L.record.teams 0 33).toNat
      if d.prog ≠ 0 then decide (L.nextTeam < n) && s.clmShort core (clmBlock d.clm)
      else decide (n ≤ maxTeams) && (s.placeLaunch L l d (c.pairs.filter s.pairRuns) n 0).isNone &&
        (s.placeMost L l d (c.pairs.filter s.pairRuns) n 0).clmShort core (clmBlock d.clm)

/-- Whether a launch waits for CLM on a core that only a compaction can give (R31, R266). -/
def State.clmWanted (s : State) (core : Nat) : Bool := s.ctxs.any (fun c => c.2.pairs.contains (core / 2) && s.clmWantedBy c.2 core)

/-- The keys of the lines of a block at a base on a core. -/
def blockLine (core base size k : Nat) : Bool := k / 6144 == core && base / 64 ≤ k % 6144 && k % 6144 < (base + size) / 64

/-- The bytes of a team's block on a core, at another base there; what stood at that base is gone. -/
def State.copyBlock (s : State) (t : Team) (core target : Nat) : State :=
  let old := t.key core 0
  let new := clmBytes * core + target
  { s with clm := (s.clm.filter (fun x => old ≤ x.1 && x.1 < old + t.clmSize)).foldl (fun m x => Mem.write m (x.1 - old + new) x.2)
                    (Mem.clear s.clm new t.clmSize) }

/-- COMPACT_START (R31): where a request cannot be met, the compactor copies a live block, on the cores where the request waits, to the
block that the allocator gives (R30); later stores go to both (`State.clmPut`).
DESIGN CHOICE (log 95): which team's block is moved is the agenda's. -/
def execCompactStart (team : Nat) (s : State) : Out :=
  stepOut s (do
    let t ← getSome (s.team? team) "no such team"
    need (!t.cfix) "the team's blocks are fixed"
    need (s.compactions.all (fun c => c.team != team)) "the team's block is being moved"
    let cores := t.cores.filter s.clmWanted
    need (!cores.isEmpty) "no request waits for CLM on the team's cores"
    let cs ← getSome (cores.mapM (fun c => (allocClm (s.clmUsed c) 8 t.clmSize).map (fun b => (c, b)))) "no free block"
    pure (cs.foldl (fun (s : State) cb =>
      { s.copyBlock t cb.1 cb.2 with compactions := s.compactions ++ [{ team, core := cb.1, target := cb.2 }] }) s))

/-- Whether a range of window space meets a team's block (R74). -/
def Team.windowMeets (t : Team) (sp : Space) (a : W64) (n : Nat) : Bool :=
  let lo := a.toNat - windowBase
  sp == .w && decide (windowBase ≤ a.toNat) && t.cores.any (fun c =>
    decide (lo < c * 2 ^ 24 + t.baseOn c + t.clmSize) && decide (c * 2 ^ 24 + t.baseOn c < lo + n))

/-- Whether an operation in flight addresses a team's block (R31): a copy, request list, gather, scatter, write-back or matrix operation of
the team, or one of another team at the block's window addresses. -/
def State.clmBusy (s : State) (team : Nat) (t : Team) : Bool :=
  s.ops.any (fun o =>
    let mine := match o.2.agent with
      | .group g _ => (s.group? g).any (fun (gr : Group) => gr.team == team)
      | .thread k => (s.thread? k).any (fun (th : Thread) => th.team == team)
    match o.2.kind with
    | .copy x _ _ | .entry _ _ x _ _ _ => mine || t.windowMeets x.ssp x.src x.size || t.windowMeets x.dsp x.dst x.size
    | .gather sp ty _ _ addrs _ | .scatter sp ty addrs _ _ => mine || addrs.any (fun a => t.windowMeets sp a.2 (tySize ty.code))
    | .kick _ _ _ | .matrix _ => mine
    | .writeBack tm _ _ _ => tm == team
    | _ => false)

/-- The bookkeeping of a block's lines at its new base: dirty and lost lines, the panel shadow, and the releases at its locations (R89). -/
def State.moveLines (s : State) (t : Team) (c : Compaction) : State :=
  let old := t.baseOn c.core
  let from' (k : Nat) : Bool := blockLine c.core old t.clmSize k
  let moves (k : Nat) : Nat := k - old / 64 + c.target / 64
  let shift (l : List Nat) : List Nat := (l.filter from').foldl (fun l k => NSet.add l (moves k)) (l.filter (fun k => !from' k))
  { s with dirty := shift s.dirty
           copied := shift s.copied
           lost := shift s.lost
           shadow := (s.shadow.filter (fun x => from' x.1)).foldl (fun m x => FMap.put m (moves x.1) x.2) (s.shadow.filter (fun x => !from' x.1))
           marks := (s.marks.filter (fun x => from' x.1)).foldl (fun m x => FMap.put m (moves x.1) x.2) (s.marks.filter (fun x => !from' x.1))
           clm := Mem.clear s.clm (t.key c.core 0) t.clmSize }

/-- COMPACT_SWAP (R31): at an instruction boundary with no operation on the block in flight, the base is swapped. -/
def execCompactSwap (team : Nat) (s : State) : Out :=
  stepOut s (do
    let t ← getSome (s.team? team) "no such team"
    let mine := s.compactions.filter (fun c => c.team == team)
    need (!mine.isEmpty) "the team's block is not being moved"
    need (!s.clmBusy team t) "an operation addressing the block is in flight"
    let base (core old : Nat) : Nat := ((mine.find? (fun c => c.core == core)).map (fun (c : Compaction) => c.target)).getD old
    let s := (mine.foldl (fun s c => s.moveLines t c) s).modTeam team (fun t =>
      { t with clmBase0 := base t.core t.clmBase0, clmBase1 := base (partner t.core) t.clmBase1 })
    pure { s with compactions := s.compactions.filter (fun c => c.team != team) })

end Sys2Proof.Machine
end

