-- ==== Sys2Proof/Decode.lean ====
section
/-! DEFINITION. Decoding of instruction words (R114, R115, R117, R119, R121, R131), total on any words and bytes, rejecting
with the check code of R330; then the encoder, from the same tables. -/
namespace Sys2Proof

open Sys2Proof.Machine

/-- What decoding gives: an instruction and its length in words, an ILLEGAL with its check code, or too few words. -/
inductive Decoded where
  | ok (i : Instr) (words : Nat)
  | illegal (check : Nat)
  | truncated
  deriving DecidableEq, Repr

/-- The length in words that word 0 gives (R115). -/
def lengthOf (w0 : W32) : Nat :=
  match (bits w0 30 2).toNat with | 0 => 1 | 3 => 5 | _ => 3

/-- The opcode field (R117). -/
abbrev opOf (w0 : W32) : Nat := (bits w0 21 7).toNat

/-- Whether word 0 has the short form (R115). -/
abbrev isShort (w0 : W32) : Bool := !w0.getLsbD 30

/-- Whether a literal follows (R115). -/
abbrev hasLit (w0 : W32) : Bool := w0.getLsbD 31

/-- The literal of two words, low half first (R114). -/
abbrev litOf (lo hi : W32) : W64 := hi ++ lo

/-- The fields of a short form (R119). -/
def shortFields (w0 : W32) (lit : Option W64) : Short :=
  { u := w0.getLsbD 29, s := w0.getLsbD 28, d := bits w0 15 6, a := bits w0 9 6, la := w0.getLsbD 8, b := bits w0 2 6,
    lb := w0.getLsbD 1, p := w0.getLsbD 0, lit }

/-- The fields of an extended form (R121). -/
def extFields (w0 w1 w2 : W32) (lit : Option W64) : Ext :=
  { u := w0.getLsbD 29, s := w0.getLsbD 28, d := bits w0 13 8, a := bits w0 5 8, la := w0.getLsbD 4, sub := bits w0 0 4,
    b := bits w1 24 8, lb := w1.getLsbD 23, c := bits w1 15 8, lc := w1.getLsbD 14, fa := w1.getLsbD 13,
    fb := w1.getLsbD 12, fc := w1.getLsbD 11, pm := bits w1 8 3, pn := w1.getLsbD 7, ty := bits w1 2 5, rm := bits w1 0 2,
    imm := bits w2 12 20, sc := bits w2 9 3, ht := bits w2 6 3, vs := bits w2 4 2, xs := bits w2 0 4, lit }

/-- The form, opcode and fields in a list of words (R115). -/
def encIn (ws : List W32) : Option Enc :=
  match ws with
  | [] => none
  | w0 :: rest =>
    match isShort w0, hasLit w0, rest with
    | true, false, _ => some (.short (opOf w0) (shortFields w0 none))
    | true, true, l0 :: l1 :: _ => some (.short (opOf w0) (shortFields w0 (some (litOf l0 l1))))
    | false, false, w1 :: w2 :: _ => some (.ext (opOf w0) (extFields w0 w1 w2 none))
    | false, true, w1 :: w2 :: l0 :: l1 :: _ => some (.ext (opOf w0) (extFields w0 w1 w2 (some (litOf l0 l1))))
    | _, _, _ => none

/-- The length in words of a form and its literal (R115). -/
def Machine.Enc.words : Enc → Nat
  | .short _ f => if f.lit.isSome then 3 else 1
  | .ext _ f => if f.lit.isSome then 5 else 3

/-- Decodes the instruction at the head of a list of words, by the checks of R131 in their order. -/
def decode (env : DecEnv) (ws : List W32) : Decoded :=
  match encIn ws with
  | none => .truncated
  | some (.short op f) =>
    match checkFields env op true (shortExt env.seq op f) with
    | some c => .illegal c
    | none => match ofShort op f with | some i => .ok i (Enc.short op f).words | none => .illegal 1
  | some (.ext op f) =>
    match checkFields env op false f with
    | some c => .illegal c
    | none => match ofExt op f with | some i => .ok i (Enc.ext op f).words | none => .illegal 1

/-- The little-endian words in a list of bytes (R114); bytes after the last whole word are left out. -/
def wordsOf : List Byte → List W32
  | b0 :: b1 :: b2 :: b3 :: rest => (b3 ++ b2 ++ b1 ++ b0) :: wordsOf rest
  | _ => []

/-- The bytes of words, least significant first (R114). -/
def bytesOf : List W32 → List Byte
  | [] => []
  | w :: ws => bits w 0 8 :: bits w 8 8 :: bits w 16 8 :: bits w 24 8 :: bytesOf ws

/-- Decodes the instruction at the head of a list of bytes, and the bytes after it. -/
def decodeBytes (env : DecEnv) (bs : List Byte) : Decoded × List Byte :=
  match decode env (wordsOf bs) with
  | .ok i n => (.ok i n, bs.drop (4 * n))
  | d => (d, bs)

/-- The words of a short form (R119). -/
def shortWords (op : BitVec 7) (f : Short) : List W32 :=
  let w0 : W32 := BitVec.ofBool f.lit.isSome ++ BitVec.ofBool false ++ BitVec.ofBool f.u ++ BitVec.ofBool f.s ++ op ++ f.d ++
    f.a ++ BitVec.ofBool f.la ++ f.b ++ BitVec.ofBool f.lb ++ BitVec.ofBool f.p
  w0 :: match f.lit with | some l => [bits l 0 32, bits l 32 32] | none => []

/-- The words of an extended form (R121). -/
def extWords (op : BitVec 7) (f : Ext) : List W32 :=
  let w0 : W32 := BitVec.ofBool f.lit.isSome ++ BitVec.ofBool true ++ BitVec.ofBool f.u ++ BitVec.ofBool f.s ++ op ++ f.d ++
    f.a ++ BitVec.ofBool f.la ++ f.sub
  let w1 : W32 := f.b ++ BitVec.ofBool f.lb ++ f.c ++ BitVec.ofBool f.lc ++ BitVec.ofBool f.fa ++ BitVec.ofBool f.fb ++
    BitVec.ofBool f.fc ++ f.pm ++ BitVec.ofBool f.pn ++ f.ty ++ f.rm
  let w2 : W32 := f.imm ++ f.sc ++ f.ht ++ f.vs ++ f.xs
  w0 :: w1 :: w2 :: match f.lit with | some l => [bits l 0 32, bits l 32 32] | none => []

/-- The words of an instruction; none for the part's steps, which have no words. -/
def encode (i : Instr) : List W32 :=
  match encOf i with
  | some (.short op f) => shortWords (BitVec.ofNat 7 op) f
  | some (.ext op f) => extWords (BitVec.ofNat 7 op) f
  | none => []

/-- `n` bytes of a number, least significant first. -/
def natBytes : Nat → Nat → List Byte
  | 0, _ => []
  | n + 1, v => BitVec.ofNat 8 v :: natBytes n (v / 256)

/-- The instruction that the decoder reads, in group code of width 16 with every view through vw0, or in sequencer code where
group code has no such instruction, from an instruction whose bits are `w`, numbered as the opcode table numbers them. The
table's word order is the memory order (R114). -/
def decodeTableWord (nbits w : Nat) : Option Instr :=
  let bs := natBytes 20 (w % 2 ^ nbits)
  match (decodeBytes {} bs).1, (decodeBytes { seq := true } bs).1 with
  | .ok i _, _ => some i
  | _, .ok i _ => some i
  | _, _ => none

end Sys2Proof
end

