-- ==== Sys2Proof/Machine/Fetch.lean ====
section
/-! DEFINITION. Which agent issues next (R21 to R24, R253, R267), and instruction fetch (R114 to R116, R131, R278, R341). -/
namespace Sys2Proof.Machine

open Sys2Proof

/-- Whether a slot holds a path that can issue: it is live, and not parked, yielded or napping (R267). -/
def Slot.canIssue (sl : Slot) : Bool := sl.status == .live && sl.park == .none

/-- Whether an agent can try to issue: its core runs, the L2 serves contexts (R80), and its slot can issue. -/
def State.canIssue (s : State) (a : Agent) : Bool :=
  (s.core a.core).phase == .running && !s.clockStopped a.core && s.hub.l2mode != .dawn &&
  (match s.slot? a with | some sl => sl.canIssue | none => false) &&
  (match a with | .thread t => (match s.thread? t with | some th => !th.ended | none => false) | _ => true)

/-- Whether an agent is the handler slot of a group. -/
def Agent.isHandler : Agent → Bool
  | .group _ .handler => true
  | _ => false

/-- The better of two candidates: handler slots first, then the least recently issued (R267). -/
def betterCandidate (x y : Agent × Nat) : Agent × Nat :=
  if x.1.isHandler && !y.1.isHandler then x else if y.1.isHandler && !x.1.isHandler then y else if y.2 < x.2 then y else x

/-- The slots of a group that can hold a path, in the order in which the model takes equally recent ones. -/
def slotAgents (g : Nat) : List Agent := [Agent.group g .handler, .group g .pc0, .group g .pc1]

/-- The cycle of an agent's last issue (R267). -/
def State.lastIssue (s : State) (a : Agent) : Nat := ((s.slot? a).map (fun (sl : Slot) => sl.lastIssue)).getD 0

/-- All slots and threads that can issue, with the cycle of their last issue. -/
def State.candidates (s : State) : List (Agent × Nat) :=
  ((s.groups.flatMap (fun g => slotAgents g.1) ++ s.threads.map (fun t => Agent.thread t.1)).filter s.canIssue).map (fun a => (a, s.lastIssue a))

/-- The bytes of an instruction cache line, filled through the L2 if it is absent (R116). -/
def State.fetchLine (s : State) (core ctx line : Nat) : State × Except (Cause × Nat) (List Byte) :=
  match FMap.find s.icache (core * 2 ^ 40 + line) with
  | some bs => (s, .ok bs)
  | none =>
    match s.homeRead ctx (64 * line) 64 with
    | (s, .error e) => (s, .error e)
    | (s, .ok v) => ({ s with icache := FMap.put s.icache (core * 2 ^ 40 + line) (leBytes 64 v) }, .ok (leBytes 64 v))

/-- One instruction word at a virtual address: the word, or the trap of the fetch, of KIND 3 (R341). -/
def State.fetchWord (s : State) (core ctx : Nat) (va : W64) : State × Except Trap W32 :=
  let fail (c : Cause) (r : Nat) : Trap := { cause := c, addr := va, lanes := none, detail := memDetail false .fetch 0 r 0 }
  if va.toNat % 4 ≠ 0 then (s, .error (fail .align 0))
  else match s.translate core ctx va { x := true } with
    | (s, .error (c, r)) => (s, .error (fail c r))
    | (s, .ok pa) =>
      match s.fetchLine core ctx (pa / 64) with
      | (s, .error (c, r)) => (s, .error (fail c r))
      | (s, .ok bs) => (s, .ok (BitVec.ofNat 32 (leNat ((bs.drop (pa % 64)).take 4))))

/-- `n` words from an address upward (R114). -/
def State.fetchWords (s : State) (core ctx : Nat) (va : W64) : Nat → State × Except Trap (List W32)
  | 0 => (s, .ok [])
  | n + 1 =>
    match s.fetchWord core ctx va with
    | (s, .error t) => (s, .error t)
    | (s, .ok w) =>
      match s.fetchWords core ctx (va + 4) n with
      | (s, .error t) => (s, .error t)
      | (s, .ok ws) => (s, .ok (w :: ws))

/-- The opcode and U of an instruction that has words. -/
def opAndU (i : Instr) : Option (Nat × Bool) :=
  match encOf i with
  | some (.short op f) => some (op, f.u)
  | some (.ext op f) => some (op, f.u)
  | none => none

/-- Whether port A takes a group's instruction (R22). -/
def takesPortA (i : Instr) : Bool := match opAndU i with | some (op, u) => 0x10 ≤ op && op ≤ 0x49 && !u | none => false

/-- The first cycle from now on in which the port that takes an instruction is free for an agent (R21 to R23, R253). -/
def State.portFree (s : State) (a : Agent) (i : Instr) : Nat :=
  let c := s.core a.core
  match a with
  | .thread _ => max s.now c.seqFree
  | .group g _ => c.portFrom (g / 16 % 4) (takesPortA i) (s.halfOf g) s.now

/-- The instruction words at an agent's PC as they decode, with the state that the fetch leaves and the length in words that word 0 gives,
0 where it is not fetched (R114 to R116, R131). -/
def State.decodeAt (s : State) (a : Agent) (pc : W64) : State × Nat × Except Trap Instr :=
  match s.fetchWord a.core (s.ctxOf a) pc with
  | (s, .error t) => (s, 0, .error t)
  | (s1, .ok w0) =>
    match s1.fetchWords a.core (s.ctxOf a) (pc + 4) (lengthOf w0 - 1) with
    | (s, .error t) => (s, lengthOf w0, .error t)
    | (s, .ok ws) =>
      match decode (s.decEnv a) (w0 :: ws) with
      | .ok i _ => (s, lengthOf w0, .ok i)
      | .illegal c => (s, lengthOf w0, .error (Trap.illegal c))
      | .truncated => (s, lengthOf w0, .error (Trap.illegal 1))

/-! Top-down counters (R312) -/

/-- Whether a live slot could use a port of its quarter: its next instruction takes that port, or has not been fetched. -/
def State.couldUse (s : State) (portA : Bool) (a : Agent) : Bool :=
  match s.slot? a with
  | some sl => sl.status == .live && (match (s.decodeAt a sl.pc).2.2 with | .ok i => takesPortA i == portA | .error _ => true)
  | none => false

/-- The leaf of a slot in which a quarter's port issues nothing (R312): empty, or the wait of the slot that the order of R267 would choose
among all live ones. Fetching takes no time in the model (log 2): an instruction that cannot be fetched counts as front end. -/
def State.idleLeaf (s : State) (core q : Nat) (portA : Bool) : Nat :=
  let live := ((s.groups.filter (fun g => g.1 / 16 == 4 * core + q)).flatMap (fun g => slotAgents g.1)).filter (s.couldUse portA)
  match live.map (fun a => (a, s.lastIssue a)) with
  | [] => 0x10
  | c :: cs =>
    let a := (cs.foldl betterCandidate c).1
    match s.slot? a with
    | some sl =>
      if sl.park != .none then 0x14
      else match (s.decodeAt a sl.pc).2.2 with | .ok _ => sl.leaf | .error _ => 0x11
    | none => 0x10

/-- Counts the slots of one port of a quarter from now to a cycle: those of its issued operations, then idle ones. -/
def State.countPort (s : State) (core q : Nat) (portA : Bool) (t : Nat) : State :=
  let segs := FMap.at [] (s.core core).slots (2 * q + (if portA then 1 else 0))
  let (s, from1) := segs.foldl (fun (acc : State × Nat) g =>
    let e := min g.2 t
    (acc.1.countLeaf core q g.1 (e - acc.2), max acc.2 e)) (s, s.now)
  s.countLeaf core q (s.idleLeaf core q portA) (t - from1)

/-- Whether a core's matrix unit is busy (R307): an operation has started and has not completed, and the die's clock runs. -/
def State.matrixBusy (s : State) (core : Nat) : Bool :=
  !s.clockStopped core && s.ops.any (fun o => o.2.core == core && (match o.2.kind with | .matrix m => m.started && !o.2.finished | _ => false))

/-- Usage counters 0, 1 and 14 grow by what ticks add (R307): the time of every held pair, for the lender too where another owner's context
holds it, and the time of every busy matrix unit. -/
def State.accrue (s : State) (d : Nat) : State :=
  if d = 0 then s
  else
    let s := s.hub.slices.foldl (fun s (x : Nat × W64) =>
      let ctx := sliceCtx x.2
      let lender := (bits x.2 32 6).toNat
      if ctx = 0 then s
      else
        let s := s.addUsage (s.ownerOf ctx) 0 d
        if x.2.getLsbD 63 && lender != s.ownerOf ctx then s.addUsage lender 14 d else s) s
    ((s.cores.map Prod.fst).filter s.matrixBusy).foldl (fun s core =>
      match s.hub.slices.find? (fun x => x.1 == core / 2) with
      | some x => s.addUsage (s.ownerOf (sliceCtx x.2)) 1 d
      | none => s) s

/-- Time passes up to a cycle: usage grows (R307), and every slot of every port counts in one leaf (R312). -/
def State.elapse (s : State) (t : Nat) : State :=
  let watched := s.cores.filter (fun c => c.2.counters.any (fun b => b.2.ctrs.any (fun k => k.2.since.isSome)))
  let s' := watched.foldl (fun s c => (List.range 8).foldl (fun s k => s.countPort c.1 (k / 2) (k % 2 == 1) t) s) s
  { s'.accrue (t * 5 / 6 - s.ticks) with now := max s.now t }

/-- What a fetch gives: the state in which an instruction issues, or the outcome of the step where none does. -/
inductive Fetched where
  | run (s : State) (i : Instr)
  | done (o : Out)
  deriving Repr

/-- The trap of a fetch or of decoding, taken with the length of the instruction where word 0 gave it (R115, R131). -/
def State.fetchTrap (s : State) (a : Agent) (len : Nat) (t : Trap) : Out :=
  .next ((s.modSlot a (fun sl => { sl with tlen := len })).takeTrap a t)

/-- An instruction tries to issue in this cycle (R106). -/
def State.tries (s : State) : State := { s with checked := s.now + 1 }

/-- Fetches and decodes the instruction of an agent that issues (R114 to R116, R131). -/
def State.fetch (s : State) (a : Agent) : Fetched :=
  match s.canIssue a, s.slot? a with
  | true, some sl =>
    match ({ s.elapse (max s.now sl.notBefore) with cur := a }).decodeAt a sl.pc with
    | (s, n, .error t) => .done (s.tries.fetchTrap a n t)
    | (s, _, .ok i) => .run ((s.elapse (s.portFree a i)).tries) i
  | _, _ => .done (.next s)

/-- The cycle in which an agent could issue (R21 to R23), and the place of its port in the order of R106 within its core: the sequencer,
then port B and port A of each quarter. A fetch that traps takes no port. -/
def State.issueAt (s : State) (a : Agent) : Nat × Nat :=
  let t := max s.now (((s.slot? a).map (fun (sl : Slot) => sl.notBefore)).getD 0)
  let pc := ((s.slot? a).map (fun (sl : Slot) => sl.pc)).getD 0
  let rank (portA : Bool) : Nat := 9 * a.core + (match a with | .thread _ => 0 | .group g _ => 1 + 2 * (g / 16 % 4) + (if portA then 1 else 0))
  match ({ s with now := t }).decodeAt a pc with
  | (s, _, .ok i) => (s.portFree a i, rank (takesPortA i))
  | _ => (t, rank false)

/-- The better of two candidates with the cycles in which they could issue and their ports: the earlier; in one cycle the first in the
order of R106; on one port that of R267. -/
def earlier (x y : (Nat × Nat) × Agent × Nat) : (Nat × Nat) × Agent × Nat :=
  if x.1.1 < y.1.1 || (x.1.1 == y.1.1 && x.1.2 < y.1.2) then x
  else if x.1 == y.1 then (x.1, betterCandidate x.2 y.2) else y

/-- The candidates with the cycles in which they could issue and their ports. -/
def State.contenders (s : State) : List ((Nat × Nat) × Agent × Nat) := s.candidates.map (fun c => (s.issueAt c.1, c))

/-- The fetch of a slot's next instruction takes until a cycle (log 1): until then it has not been fetched (R312). -/
def Slot.fetchesUntil (sl : Slot) (t : Nat) : Slot := { sl with notBefore := max sl.notBefore t, leaf := 0x11 }

/-- The fetch of an agent's next instruction takes until a cycle (log 1). -/
def State.delay (s : State) (a : Agent) (t : Nat) : State := s.modSlot a (fun sl => sl.fetchesUntil t)

/-- The fetches of all other agents take longer than the cycle in which an agent can issue. -/
def State.delayOthers (s : State) (a : Agent) : State :=
  let t := (s.issueAt a).1 + 1
  (s.candidates.filter (fun c => c.1 != a)).foldl (fun s c => s.delay c.1 t) s

/-- The agent for which a table word decodes: a group of width 16, or a sequencer thread where group code has no such
instruction. -/
def tableAgent (nbits w : Nat) : Agent :=
  match decode {} (wordsOf (natBytes 20 (w % 2 ^ nbits))) with
  | .ok _ _ => .group 0 .pc0
  | _ => .thread 0

/-- The context, team, group or thread, page table and code that let an agent run the bytes of `w` from an address (log 7):
context 1 owns frames 1 (its tables) and 2 (the code), and maps the first 16 GiB with one page. -/
def State.placeProgram (s : State) (a : Agent) (bs : List Byte) : State :=
  let code := 0x20000
  let slot : Slot := { status := .live, pc := 0x20000, mask := allLanes 16 }
  let mem := Mem.writeBytes s.mem code bs
  let mem := Mem.write64 (Mem.write64 mem 0x10000 0x11001) 0x11000 0x1F
  let mem := Mem.writeNat (Mem.writeNat mem 0x7FFF000002 2 0x8001) 0x7FFF000004 2 0x8001
  let s := { s with
    mem
    tlb := s.tlb.filter (fun t => t.ctx != 1)
    partials := s.partials.filter (fun p => !(p.addr / 65536 == 1 || p.addr / 65536 == 2))
    poison := s.poison.filter (fun (p : Nat × Bool) => p.1 / 1024 != 1 && p.1 / 1024 != 2)
    icache := FMap.del s.icache (code / 64)
    ctxs := FMap.put s.ctxs 1 { state := .resident, owner := 0, bound := 32000, troot := 0x10000, pairs := [0] }
    teams := FMap.put s.teams 0 { ctx := 1, launch := 0, index := 0, pair := 0, core := 0, started := [0], clmSize := 4096,
                                  nbanks := 16, thread := some 0, threadEnded := false }
    hub := { s.hub with l2mode := .shared, dawn := 6, stopped := NSet.del s.hub.stopped 0 }
    agenda := [.issue a] }
  let s := s.modCore 0 (fun c => { c with phase := .running })
  match a with
  | .group g _ => s.setGroup g { ctx := 1, team := 0, launch := 0, entry := 0x20000, s0 := slot }
  | .thread t => s.setThread t { ctx := 1, team := 0, launch := 0, entry := 0x20000, slot := { slot with mask := 1 } }

end Sys2Proof.Machine
end

