-- ==== Sys2Proof/Machine/Control.lean ====
section
/-! DEFINITION. Control and flow, opcodes 0x00 to 0x0F (R135 to R147), and the slots and reconvergence stack of a group (R25 to
R27). The top of the stack is the head of its list. -/
namespace Sys2Proof.Machine

open Sys2Proof

/-- The other PC slot. -/
def SlotId.other : SlotId → SlotId
  | .pc0 => .pc1
  | .pc1 => .pc0
  | .handler => .handler

/-- The stack above the topmost J entry, that entry, and the stack below it (R27). -/
def splitJ : List StackEntry → Option (List StackEntry × StackEntry × List StackEntry)
  | [] => none
  | e :: rest =>
    if e.kind = .join then some ([], e, rest)
    else match splitJ rest with
      | some (above, j, below) => some (e :: above, j, below)
      | none => none

/-- The lanes that have arrived at the topmost J, with P's mask `pm` (R27). -/
def Group.arrived (g : Group) (above : List StackEntry) (pm : W64) : W64 :=
  let w (sl : Slot) : W64 := if sl.status = .waiting then sl.mask else 0
  above.foldl (fun m e => if e.kind = .arrived then m ||| e.mask else m) (pm ||| w g.s0 ||| w g.s1)

/-- A PC as a stack entry holds it (R25). -/
def Group.poff (g : Group) (pc : W64) : W32 := poffOf g.entry pc

/-- The PC that a stack entry's POFF stands for (R25). -/
def Group.pcOf (g : Group) (poff : W32) : W64 := g.entry + (poff.signExtend 64 <<< 2)

/-- Sets the other slot aside (R27): a live path as a W entry, a waiting one as an A entry; a trapped slot counts as live (R326). -/
def Group.pushOther (g : Group) (i : SlotId) : Group :=
  let o := g.slotOf i.other
  let plain := o.status = .live ∧ o.park = .none ∧ o.owes = none
  match o.status with
  | .free => g
  | .waiting => { g with stack := { kind := .arrived, mask := o.mask } :: g.stack }.setSlot i.other {}
  | _ =>
    let e : StackEntry := { kind := .path, mask := o.mask, poff := g.poff o.pc, fmt := o.fmt.setWidth 30,
                            held := if plain then none else some o }
    { g with stack := e :: g.stack }.setSlot i.other {}

/-- While a slot is free and the top entry is no J entry, the entry is popped (R27). -/
def Group.refill (g : Group) : List StackEntry → Group
  | [] => { g with stack := [] }
  | e :: rest =>
    let free : Option SlotId := if g.s0.status = .free then some .pc0 else if g.s1.status = .free then some .pc1 else none
    match free, e.kind with
    | none, _ | _, .join => { g with stack := e :: rest }
    | some i, .path =>
      let sl := e.held.getD { status := .live, pc := g.pcOf e.poff, mask := e.mask, fmt := e.fmt.setWidth 32 }
      (g.setSlot i sl).refill rest
    | some i, .arrived =>
      let g' := if g.s0.status = .waiting then g.setSlot .pc0 { g.s0 with mask := g.s0.mask ||| e.mask }
        else if g.s1.status = .waiting then g.setSlot .pc1 { g.s1 with mask := g.s1.mask ||| e.mask }
        else g.setSlot i { status := .waiting, mask := e.mask }
      g'.refill rest
termination_by structural st => st

/-- The top two entries are held on the core: one that comes back from the stack area is no longer there (R26). -/
def Group.homeTop (g : Group) : Group :=
  { g with stack := g.stack.mapIdx (fun k e => if k < 2 then { e with stored := false } else e) }

/-- The rule "after any event" of R27. -/
def Group.settleSlots (g : Group) : Group := (g.refill g.stack).homeTop

/-- `mjoin` by the path in slot `i` with rejoin PC `t` (R27); the path falls through to `next`. -/
def Group.mjoin (g : Group) (i : SlotId) (t next : W64) : Group :=
  let p := g.slotOf i
  let g := g.pushOther i
  let j : StackEntry := { kind := .join, mask := p.mask, poff := g.poff t, fmt := p.fmt.setWidth 30 }
  ({ g with stack := j :: g.stack }.setSlot i { p with pc := next }).settleSlots

/-- `brd` by the path in slot `i` with branch mask `m` and target `t` (R27). -/
def Group.brd (g : Group) (i : SlotId) (m t next : W64) : Group :=
  let p := g.slotOf i
  let taken := p.mask &&& m
  let g := g.pushOther i
  let g :=
    if taken = p.mask then g.setSlot i { p with pc := t }
    else if taken = 0 then g.setSlot i { p with pc := next }
    else (g.setSlot i { p with pc := next, mask := p.mask &&& ~~~taken }).setSlot i.other
      { status := .live, pc := t, mask := taken, fmt := p.fmt }
  g.settleSlots

/-- `join` by the path in slot `i` (R27, R137): none where it does not match the topmost J. -/
def Group.join (g : Group) (i : SlotId) : Option Group :=
  let p := g.slotOf i
  match splitJ g.stack with
  | none => none
  | some (above, j, below) =>
    let arr := g.arrived above p.mask
    if arr &&& ~~~j.mask ≠ 0 then none
    else if arr = j.mask then
      let g := { g with stack := below }.setSlot i.other {}
      some (g.setSlot i { p with pc := g.pcOf j.poff, mask := j.mask, fmt := j.fmt.setWidth 32 }).settleSlots
    else
      let o := g.slotOf i.other
      let m := if o.status = .waiting then p.mask ||| o.mask else p.mask
      let g := if o.status = .waiting then g.setSlot i.other {} else g
      some (g.setSlot i { p with status := .waiting, mask := m }).settleSlots

/-- Drops topmost J entries whose mask is empty (R27). -/
def dropEmptyJ : Nat → List StackEntry → List StackEntry
  | 0, st => st
  | n + 1, st =>
    match splitJ st with
    | some (above, j, below) => if j.mask = 0 then dropEmptyJ n (above ++ below) else st
    | none => st

/-- `exit` by the path in slot `i` (R27): its lanes leave for good. -/
def Group.exitSlot (g : Group) (i : SlotId) : Group :=
  let p := g.slotOf i
  let g := g.setSlot i {}
  let st := g.stack.map (fun e => if e.kind = .join then { e with mask := e.mask &&& ~~~p.mask } else e)
  let g := { g with stack := dropEmptyJ st.length st }
  match splitJ g.stack with
  | none => g.settleSlots
  | some (above, j, below) =>
    let arr := g.arrived above 0
    if arr = j.mask ∧ arr ≠ 0 then
      let g := { g with stack := below }.setSlot i.other {}
      (g.setSlot i { status := .live, pc := g.pcOf j.poff, mask := j.mask, fmt := j.fmt.setWidth 32,
                     lastIssue := p.lastIssue }).settleSlots
    else g.settleSlots

/-- A stack entry below the top two that was lost and that the change from `old` to `new` brings back to the core (R26, R330): its
index from the bottom. -/
def lostReload (old new : List StackEntry) : Option Nat :=
  if new.length < old.length then
    ((List.range old.length).filter (fun k => new.length ≤ k + 2)).find? (fun k =>
      ((old.reverse[k]?).map (fun (e : StackEntry) => e.lost)).getD false)
  else none

/-- DIVSTK (R137, R330). -/
def divstk (g : Group) (noMatch : Bool) : Trap :=
  { cause := .divstk, detail := BitVec.ofNat 64 (g.stack.length * 65536 + if noMatch then 1 else 0) }

/-- The lines of the stack area that a change from `old` to `new` reads (R26, R76): those of the entries that come back to the core. -/
def stackReads (ctx place : Nat) (old new : List StackEntry) : List Nat :=
  let there (st : List StackEntry) (k : Nat) : Bool := ((st.reverse[k]?).map (fun (e : StackEntry) => e.stored)).getD false
  ((List.range old.length).filter (fun k => there old k && !there new k)).map (fun k => areaLine ctx place (640 + k / 4))

/-- Replaces the group after a change of its slots and stack, unless that has to reload a lost entry (R330). -/
def Iss.putFlow (i : Iss) (s : State) (old new : Group) : Res State :=
  match lostReload old.stack new.stack with
  | some k => .error (.trap { cause := .dataerr, detail := BitVec.ofNat 64 (2 ^ 32 + k) })
  | none => .ok ((stackReads i.ctx i.gi old.stack new.stack).foldl (fun s l => s.areaRead i.core i.ctx l) (s.setGroup i.gi new))

/-- The signed word offset in IMM (R126), as bytes. -/
def Iss.immOff (i : Iss) : W64 := i.f.imm.signExtend 64 <<< 2

/-- The target PC + 4 x IMM (R126). -/
def Iss.target (i : Iss) : W64 := i.pc + i.immOff

/-- The address of the next instruction in program order (R114). -/
def Iss.next (i : Iss) : W64 := i.pc + BitVec.ofNat 64 (4 * i.words)

/-- The slot that issues; slot 0 for a thread. -/
def Iss.slot (i : Iss) : SlotId := match i.agent with | .group _ sl => sl | .thread _ => .pc0

/-- Sets the PC of the issuing slot. -/
def Iss.jump (i : Iss) (s : State) (pc : W64) : State := s.modSlot i.agent (fun sl => { sl with pc })

/-- The mask that a mask operand holds; m0 is the slot's mask. -/
def Iss.maskOp (i : Iss) (s : State) (r : Option Reg) : W64 := i.read s r 0

/-- Whether a new entry fits on the stack: `push` entries beside the other slot's (R26, R137). -/
def Group.stackRoom (g : Group) (i : SlotId) (push : Nat) : Bool :=
  decide (g.stack.length + (if (g.slotOf i.other).status = .free then 0 else 1) + push ≤ 256)

/-- `nop` takes its issue slot (R135). -/
def nopBody (_ : Iss) (s : State) : Res State := .ok s

def execNopShort (f : Short) (s : State) : Out := runShort {} 0x00 f nopBody s

def execNopExt (f : Ext) (s : State) : Out := runExt {} 0x00 f nopBody s

/-- Whether `bra` is taken (R136). -/
def braTaken (i : Iss) (s : State) : Bool :=
  if i.f.sub = 0 then true
  else if i.seq then (if i.f.sub = 3 then i.va s 0 == 0 else i.va s 0 != 0)
  else
    let c := i.maskOp s i.a &&& i.smask
    match i.f.sub.toNat with | 1 => c != 0 | 2 => c == i.smask | _ => c == 0

/-- `bra` (R136). -/
def execBra (f : Ext) (s : State) : Out :=
  runCtl {} 0x01 f (fun i s => .ok (i.jump s (if braTaken i s then i.target else i.next))) s

/-- The divergent branch of `brd` and `brx` (R27, R137, R138, R326): in the handler slot it jumps or falls through whole. -/
def branchBody (i : Iss) (s : State) (m t : W64) : Res State :=
  if i.handler then .ok (i.jump s (if m &&& i.smask = i.smask then t else i.next))
  else match s.group? i.gi with
    | none => .error (.fault .noAgent)
    | some g =>
      if !g.stackRoom i.slot 0 then .error (.trap (divstk g false))
      else i.putFlow s g (g.brd i.slot m t i.next)

/-- A branch in the handler slot that would split its mask is ILLEGAL (R326). -/
def splitsHandler (i : Iss) (m : W64) : Bool := i.handler && m &&& i.smask != 0 && m &&& i.smask != i.smask

/-- `brd` (R137). -/
def execBrd (f : Ext) (s : State) : Out :=
  runCtl { illegal := fun i s => splitsHandler i (i.maskOp s i.a) } 0x02 f
    (fun i s => branchBody i s (i.maskOp s i.a) i.target) s

/-- The target of a lane of `brx` (R138). -/
def brxTarget (i : Iss) (s : State) (l : Nat) : W64 := i.entry + (((i.vb s l).setWidth 32).signExtend 64 <<< 2)

/-- The lanes of `brx` that go with the lowest lane, and their target (R138). -/
def brxTaken (i : Iss) (s : State) : W64 × W64 :=
  let ls := lanesOf i.width i.smask
  let t := brxTarget i s (ls.headD 0)
  (maskOf (ls.filter (fun l => brxTarget i s l == t)), t)

/-- `brx` (R138). -/
def execBrx (f : Ext) (s : State) : Out :=
  runCtl { illegal := fun i s => splitsHandler i (brxTaken i s).1 } 0x03 f
    (fun i s => branchBody i s (brxTaken i s).1 (brxTaken i s).2) s

/-- ALIGN taken by `call.ind` or `ret` for a misaligned target (R139, R341). -/
def alignTrap (target : W64) : Trap := { cause := .align, addr := target, detail := memDetail false .fetch 0 0 0 }

/-- Writes a link to D: it is ready for the slot's next instruction (R139). -/
def Iss.writeLink (i : Iss) (s : State) : State :=
  match i.d with
  | some r => i.writeTo s r [(0, i.next)] (some s.now)
  | none => s

/-- `call` (R139). -/
def execCall (f : Ext) (s : State) : Out :=
  runCtl {} 0x04 f (fun i s =>
    let t := if i.f.sub = 0 then i.target else i.vb s 0
    if i.f.sub = 1 ∧ bits t 0 2 ≠ 0 then .error (.trap (alignTrap t)) else .ok (i.jump (i.writeLink s) t)) s

/-- `ret` (R139). -/
def execRet (f : Ext) (s : State) : Out :=
  runCtl {} 0x05 f (fun i s =>
    let t := i.vb s 0
    if bits t 0 2 ≠ 0 then .error (.trap (alignTrap t)) else .ok (i.jump s t)) s

/-- `mjoin` (R137). -/
def execMjoin (f : Ext) (s : State) : Out :=
  runCtl { illegal := fun i _ => i.handler } 0x06 f (fun i s =>
    match s.group? i.gi with
    | none => .error (.fault .noAgent)
    | some g =>
      if !g.stackRoom i.slot 1 then .error (.trap (divstk g false))
      else i.putFlow s g (g.mjoin i.slot i.target i.next)) s

/-- `join` (R137). -/
def joinBody (i : Iss) (s : State) : Res State :=
  match s.group? i.gi with
  | none => .error (.fault .noAgent)
  | some g =>
    match g.join i.slot with
    | none => .error (.trap (divstk g true))
    | some g' => i.putFlow s g g'

def execJoinShort (f : Short) (s : State) : Out :=
  runIss { illegal := fun i _ => i.handler } 0x07 true true (shortExt (match s.cur with | .thread _ => true | _ => false) 0x07 f)
    joinBody s

def execJoinExt (f : Ext) (s : State) : Out := runCtl { illegal := fun i _ => i.handler } 0x07 f joinBody s

/-- `exit` (R140): in group code the lanes leave, and GROUP_END follows the last of them; a sequencer thread ends. -/
def exitBody (i : Iss) (s : State) : Res State :=
  if i.seq then .ok (s.endThread i.gi)
  else match s.group? i.gi with
    | none => .error (.fault .noAgent)
    | some g => i.putFlow s g (g.exitSlot i.slot)

/-- Whether `exit` waits (R32, R140): for the group's counters where it would leave the group without a lane, for a sequencer thread's
matrix counter and its acknowledgements. -/
def exitHeld (i : Iss) (s : State) : Bool :=
  if i.seq then (match s.thread? i.gi with | some t => t.matCount != 0 || t.agent.ack != 0 | none => false)
  else match s.group? i.gi with
    | some g => !i.handler && (g.exitSlot i.slot).empty && !g.quiet
    | none => false

/-- The checks of `exit` (R140, R239, R342, R350): it takes every held cause. -/
def exitHooks : Hooks :=
  { illegal := fun i _ => i.handler
    hold := exitHeld
    sync := true
    takes := fun _ _ => true }

def execExitShort (f : Short) (s : State) : Out :=
  runIss exitHooks 0x08 true true (shortExt (match s.cur with | .thread _ => true | _ => false) 0x08 f) exitBody s

def execExitExt (f : Ext) (s : State) : Out := runCtl exitHooks 0x08 f exitBody s

/-- `yield` (R141). -/
def yieldBody (i : Iss) (s : State) : Res State :=
  .ok (s.modSlot i.agent (fun sl => { sl with park := .yield (s.now + 33) }))

def execYieldShort (f : Short) (s : State) : Out := runShort {} 0x09 f yieldBody s

def execYieldExt (f : Ext) (s : State) : Out := runExt {} 0x09 f yieldBody s

/-- YIELD_EXPIRY (R141): the 32 cycles are over. -/
def execYieldExpiry (a : Agent) (s : State) : Out :=
  match (s.slot? a).map (fun (sl : Slot) => sl.park) with
  | some (.yield t) => .next ((s.elapse t).modSlot a (fun sl => { sl with park := .none }))
  | _ => .next s

/-- `setfmt` (R142). -/
def execSetfmt (f : Ext) (s : State) : Out :=
  runExt { illegal := fun i s => !fmtLegal ((i.vb s 0).setWidth 32) } 0x0A f
    (fun i s => .ok (s.modSlot i.agent (fun sl => { sl with fmt := (i.vb s 0).setWidth 32 }))) s

/-- `getfmt` (R142). -/
def execGetfmt (f : Ext) (s : State) : Out :=
  runExt {} 0x0B f (fun i s => .ok (i.writeD s (i.eachLane (fun _ => i.fmt.setWidth 64)))) s

/-- `trap n` (R143): it takes SWTRAP. -/
def execTrap (f : Ext) (s : State) : Out :=
  runExt {} 0x0C f (fun i _ => .error (.trap { cause := .swtrap, detail := (bits i.f.imm 0 16).setWidth 64 })) s

/-- `tret` (R144, R326). -/
def execTret (f : Ext) (s : State) : Out :=
  runCtl { illegal := fun i _ => !i.handler } 0x0D f (fun i s => .ok (s.trapReturn i.gi i.f.sub.toNat)) s

/-- GSTAT (R43). -/
def gstat (gi : Nat) (g : Group) : W64 :=
  (0 : BitVec 24) ++ BitVec.ofNat 8 (gi / 64) ++ (0 : BitVec 4) ++ BitVec.ofNat 12 g.borrow ++ BitVec.ofNat 4 (gi % 16) ++
  BitVec.ofNat 2 (gi / 16 % 4) ++ BitVec.ofBool g.half ++ BitVec.ofBool ((FMap.vals g.rows).any (fun (r : Row) => r.spilled)) ++
  (0 : BitVec 4) ++ BitVec.ofBool g.strict ++ BitVec.ofBool g.vpol ++ (0 : BitVec 1) ++ BitVec.ofBool g.relrd

/-- The context word (R145). -/
def ctxWord (s : State) (ctx : Nat) : W64 :=
  (0 : BitVec 42) ++ BitVec.ofNat 6 (((s.ctx? ctx).map (fun (c : Context) => c.owner)).getD 0) ++ (0 : BitVec 4) ++
  BitVec.ofNat 12 ctx

/-- The value of a special register in a lane (R145). -/
def sregValue (i : Iss) (s : State) (l : Nat) : W64 :=
  let ag := (s.agentState? i.agent).getD {}
  let vc := ag.vcyc s.now
  match i.f.imm.toNat % 256 with
  | 0x00 => BitVec.ofNat 64 l
  | 0x01 => match s.group? i.gi with | some g => gstat i.gi g | none => 0
  | 0x02 => match s.team? i.team with | some t => BitVec.ofNat 64 (t.baseOn i.core) | none => 0
  | 0x03 => ctxWord s i.ctx
  | 0x04 => BitVec.ofNat 64 i.width
  | 0x05 => BitVec.ofNat 64 i.core
  | 0x06 => BitVec.ofNat 64 (i.gi % 4)
  | 0x08 => vc
  | 0x09 => (bits vc 0 32).setWidth 64
  | 0x0A => ag.vShadow.setWidth 64
  | 0x0C => ag.icnt
  | 0x0D => (bits ag.icnt 0 32).setWidth 64
  | 0x0E => ag.iShadow.setWidth 64
  | _ => 0

/-- What a read of a special register does beside its value: `.lo` latches the high half (R147). -/
def sregLatch (i : Iss) (s : State) : State :=
  match i.f.imm.toNat % 256 with
  | 0x09 => s.modAgent i.agent (fun ag => { ag with vShadow := bits (ag.vcyc s.now) 32 32 })
  | 0x0D => s.modAgent i.agent (fun ag => { ag with iShadow := bits ag.icnt 32 32 })
  | _ => s

/-- `sreg` and `sreg.w` (R145): a write of GSTAT clears RELRD where bit 0 is 1. -/
def execSreg (f : Ext) (s : State) : Out :=
  runExt {} 0x0E f (fun i s =>
    if i.f.sub = 0 then .ok (sregLatch i (i.writeD s (i.eachLane (sregValue i s))))
    else if (i.vb s 0).getLsbD 0 then .ok (s.modGroup i.gi (fun g => { g with relrd := false })) else .ok s) s

/-- `nap` (R141). -/
def execNap (f : Ext) (s : State) : Out :=
  runExt {} 0x0F f (fun i s =>
    let n := min (i.vb s 0).toNat (2 ^ 20)
    if n = 0 then .ok s else .ok (s.modSlot i.agent (fun sl => { sl with park := .nap (s.now + n + 1) }))) s

/-- NAP_EXPIRY (R141). -/
def execNapExpiry (a : Agent) (s : State) : Out :=
  match (s.slot? a).map (fun (sl : Slot) => sl.park) with
  | some (.nap t) => .next ((s.elapse t).modSlot a (fun sl => { sl with park := .none }))
  | _ => .next s

end Sys2Proof.Machine
end

