-- ==== Sys2Proof/Machine/Fabric.lean ====
section
/-! DEFINITION. Remote operations (R235 to R240, R354 to R357), collectives (R241 to R244, R294 to R299, R358, R359), and the ports (R360). -/
namespace Sys2Proof.Machine

open Sys2Proof

/-! Where operations and groups are -/

/-- An operation of a context whose core is saved (R111), found in the save area. -/
def State.savedOp (s : State) (id : Nat) : Option Op :=
  s.ctxs.findSome? (fun c => c.2.image.findSome? (fun im => FMap.find im.ops id))

/-- Changes an operation in the save area. -/
def State.modSavedOp (s : State) (id : Nat) (f : Op → Op) : State :=
  { s with ctxs := s.ctxs.map (fun c =>
      (c.1, { c.2 with image := c.2.image.map (fun im => { im with ops := FMap.update im.ops id f }) })) }

/-- Changes the group with a number, on its core or in the save area. -/
def State.modUid (s : State) (uid : Nat) (f : Group → Group) : State :=
  let on (m : FMap Group) : FMap Group := m.map (fun g => if g.2.agent.uid == uid then (g.1, f g.2) else g)
  { s with groups := on s.groups
           ctxs := s.ctxs.map (fun c => (c.1, { c.2 with image := c.2.image.map (fun im => { im with groups := on im.groups }) })) }

/-- The group with a number, on its core or in the save area. -/
def State.groupByUid (s : State) (uid : Nat) : Option Group :=
  match s.groups.find? (fun g => g.2.agent.uid == uid) with
  | some g => some g.2
  | none => (s.ctxs.findSome? (fun c => c.2.image.findSome? (fun im => im.groups.find? (fun g => g.2.agent.uid == uid)))).map Prod.snd

/-- Sends a message. -/
def State.send (s : State) (m : NetMsg) : State := s.modHub (fun h => { h with outbox := h.outbox ++ [m] })

/-- This device's id (R292). -/
def State.devId (s : State) : Nat := s.hub.devid.toNat

/-- Link bytes of flits sent or received for an owner (R307); nothing crosses the link for the device's own id (R235). -/
def State.linkBytes (s : State) (ctx dev idx flits : Nat) : State :=
  if dev = s.devId then s else s.addUsage (s.ownerOf ctx) idx (64 * flits)

/-! Issue of remote operations -/

/-- The peer that a lane names (R235). -/
def Iss.peer (i : Iss) (s : State) (l : Nat) : Nat := (i.va s l).toNat % 512

/-- The peers of the active lanes, ascending (R235). -/
def Iss.peers (i : Iss) (s : State) : List Nat :=
  i.lanes.foldl (fun ps l => NSet.add ps (i.peer s l)) []

/-- The target address of a lane (R235). -/
def Iss.remVa (i : Iss) (s : State) (l : Nat) : W64 := i.vb s l + (if i.op = 0x78 then 0 else i.f.imm.signExtend 64)

/-- Bytes of each lane's access (R237, R238). -/
def Iss.remSize (i : Iss) : Nat := if i.op = 0x78 then atomSize i.f.ty.toNat else tySize i.f.ty.toNat

/-- The kind of a remote opcode. -/
def Iss.remKind (i : Iss) : RemoteKind := if i.op = 0x76 then .rld else if i.op = 0x77 then .rst else .ratom

/-- Lines of a list of lanes: the packets of a part (R235). -/
def lanesLines (ls : List RemoteLane) : Nat := (ls.foldl (fun m l => NSet.add m (l.va.toNat / 64)) []).length

/-- Lines of a group's remote stores in flight, each of which the target may log (R239). -/
def State.storesOut (s : State) (a : Agent) : Nat :=
  s.ops.foldl (fun n o => match o.2.kind with
    | .remote _ _ req _ _ _ _ _ _ => if req.kind == .rst && o.2.agent.base == a.base && !o.2.finished then n + lanesLines req.lanes else n
    | _ => n) 0

/-- Whether a remote store or atomic stalls on the logged count (R352), which never passes 65,535: an `rst` keeps room for every line that
the group's stores in flight and its own lanes may add. -/
def Iss.logFull (i : Iss) (s : State) (g : Group) : Bool :=
  decide (65535 ≤ g.logged) || (i.op == 0x77 && decide (65535 < g.logged + s.storesOut i.agent + i.lanes.length))

/-- The checks of the remote operations (R33, R235, R239, R240, R252, R352). -/
def remoteHooks : Hooks :=
  { hold := fun i s =>
      let d := (i.peers s).length
      d != 0 && (match s.group? i.gi with
        | some g =>
          decide (255 < g.fabric + d) || (i.op != 0x76 && (decide (65535 < g.agent.ack + d) || i.logFull s g)) ||
          (decide (2 ≤ i.remOrder) && (g.agent.ack != 0 || g.logged != 0))
        | none => false)
    delta := fun i s => let d := (i.peers s).length; if d = 0 then {} else { cls := .fabric, charge := 2048 * d }
    takes := fun i e => decide (2 ≤ i.remOrder) && !i.lanes.isEmpty && e.discarded
    sync := false }

/-- What one lane sends: its operand, and the comparand of `cas`. -/
def Iss.remLane (i : Iss) (s : State) (l : Nat) : RemoteLane :=
  let c := i.vc s l
  let cas : Bool := i.op == 0x78 && i.f.xs == 7
  { lane := l, va := i.remVa s l, data := if cas then c >>> 32 else c, cmp := if cas then c &&& 0xFFFFFFFF else 0 }

/-- The plane of a line (R293). -/
def rawPlane (va : W64) : Nat := (bits va 6 4 ^^^ bits va 10 4).toNat

/-- The plane of a line with the ports that are up (R293, R360). -/
def planeOf (up : List Nat) (va : W64) : Option Nat :=
  ((List.range 16).map (fun k => (rawPlane va + k) % 16)).find? (fun q => up.contains q)

/-- The planes on which the packets of lanes for a peer travel as they are sent (R293, R360); the hub's loop has all of them. -/
def State.planesFor (s : State) (peer : Nat) (ls : List RemoteLane) : List Nat :=
  ls.filterMap (fun l => if peer = s.devId then some (rawPlane l.va) else planeOf s.hub.portsUp l.va)

/-- One part issues (R33, R235, R293): its request is sent; it raises the counters. It is a release where its ordering is one, or, an
atomic, where a release fence stands before it (R89). -/
def Iss.issuePart (i : Iss) (first parts : Nat) (fgrp : BitVec 16) (peer : Nat) (s : State) : State :=
  let ls := (i.lanes.filter (fun l => i.peer s l == peer)).map (i.remLane s)
  let uid := (i.state s).uid
  let req : RemoteReq :=
    { id := s.nextId, kind := i.remKind, op := i.f.xs.toNat, ty := tyOf i.f.ty.toNat, ordering := i.remOrder, fromDev := s.devId,
      fromGroup := uid, fromPlace := i.gi, toDev := peer, fgrp, lanes := ls, planes := s.planesFor peer ls,
      rel := decide (2 ≤ i.remOrder) || (i.op == 0x78 && !(i.state s).rels.isEmpty) }
  let k := i.f.imm.toNat % 8
  let s := (s.issueOp { agent := i.agent, core := i.core, ctx := i.ctx, cls := .fabric, charge := 2048, counter := .fabric,
                        poff := poffOf i.entry i.pc,
                        kind := .remote first parts req i.d i.eff (if i.op = 0x78 ∧ i.f.xs = 7 ∧ k ≠ 0 then some k else none) none [] 0 }).2
  let s := if i.op = 0x76 then s else s.modAgent i.agent (fun ag => { ag with ack := ag.ack + 1 })
  (s.linkBytes i.ctx peer 3 (lanesLines ls * (if i.op = 0x76 then 1 else 2))).send (.request req)

/-- `rld`, `rst` and `ratom` issue (R235 to R240). -/
def remoteBody (i : Iss) (s : State) : Res State :=
  if i.lanes.isEmpty then .ok s
  else
    let bad := i.lanes.filterMap (fun l => if (i.remVa s l).toNat % i.remSize ≠ 0 then some (l, i.remVa s l, Cause.align, 0) else none)
    let kind : AccKind := if i.op = 0x76 then .load else if i.op = 0x77 then .store else .atomic
    match laneTrap kind 0 bad, s.group? i.gi with
    | some tr, _ => .error (.trap tr)
    | none, none => .error (.fault .noAgent)
    | none, some g =>
      let ps := i.peers s
      let fgrp := ((s.ctx? i.ctx).map (fun (c : Context) => c.fgrp)).getD 0
      let (e, s1) : W64 × State := if i.remOrder = 0 then (0, s) else s.closeRegion i.agent
      let s1 := if i.remOrder = 4 then s1.scOrder i.agent 6 e else s1
      let s1 := (i.dsts.flatMap Reg.units).foldl i.emptyUnit s1
      .ok (ps.foldl (fun (t : State) p => i.issuePart g.fabricSeq ps.length fgrp p t) s1)

def execRld (f : Ext) (s : State) : Out := runExt { remoteHooks with sync := f.xs != 0 } 0x76 f remoteBody s
def execRst (f : Ext) (s : State) : Out := runExt { remoteHooks with sync := f.xs != 0 } 0x77 f remoteBody s
def execRatom (f : Ext) (s : State) : Out := runExt { remoteHooks with sync := f.imm.toNat / 16 % 8 != 0 } 0x78 f remoteBody s

/-! At the target (R235, R239, R356, R357) -/

/-- The context of a fabric group (R235). -/
def State.ctxOfFgrp (s : State) (fgrp : BitVec 16) : Option Nat :=
  if fgrp = 0 then none else (s.ctxs.find? (fun c => c.2.fgrp == fgrp && c.2.state != .zeroing)).map Prod.fst

/-- The fault code of a cause (R354). -/
def remoteCode : Cause → Nat
  | .page => 1 | .prot => 2 | .owner => 3 | _ => 4

/-- The physical address of one lane's access at the target, or its cause (R235). -/
def State.remoteAddr (s : State) (ctx : Nat) (va : W64) (n : Nat) (nd : Need) : State × Except Cause Nat :=
  match s.translate hubCore ctx va nd with
  | (s, .error (c, _)) => (s, .error c)
  | (s, .ok pa) =>
    if nd.r then (match s.homeRead ctx pa n with | (s, .error (c, _)) => (s, .error c) | (s, .ok _) => (s, .ok pa))
    else if s.homePasses ctx pa true then (s, .ok pa)
    else (s.midnight 0x07 0 0xFF 2 (BitVec.ofNat 64 (pa / 65536)) (BitVec.ofNat 64 ctx), .error .owner)

/-- The addresses of a part's lanes, and the causes that lanes met. -/
def State.remoteAddrs (s : State) (ctx n : Nat) (nd : Need) (ls : List RemoteLane) : State × List (RemoteLane × Nat) × List Cause :=
  ls.foldl (fun (acc : State × List (RemoteLane × Nat) × List Cause) l =>
    let (s, ok, bad) := acc
    match s.remoteAddr ctx l.va n nd with
    | (s, .ok pa) => (s, ok ++ [(l, pa)], bad)
    | (s, .error c) => (s, ok, bad ++ [c])) (s, [], [])

/-- The cause that is first in the order of R340. -/
def firstRank (cs : List Cause) : Option Cause :=
  cs.foldl (fun (best : Option Cause) c => match best with
    | some b => if c.rank < b.rank then some c else best
    | none => some c) none

/-- The bytes of a log entry (R356). -/
def LogEntry.toBytes (e : LogEntry) : List Byte :=
  let who := e.ctx * 2 ^ 52 + e.sender * 2 ^ 43 + e.place * 2 ^ 29
  leBytes 8 e.va.toNat ++ leBytes 8 e.bmask.toNat ++ leBytes 8 who ++ leBytes 8 e.seq ++ e.data ++ List.replicate 32 0

/-- The lines of a store: address, mask and bytes; a later lane's bytes stand (R237). -/
def storeLines (n : Nat) (ls : List RemoteLane) : FMap (W64 × List Byte) :=
  ls.foldl (fun m l =>
    let line := l.va.toNat / 64
    let old := FMap.at ((0 : W64), List.replicate 64 (0 : Byte)) m line
    FMap.put m line (old.1 ||| byteMask (l.va.toNat % 64) n, patchBytes old.2 (l.va.toNat % 64) (leBytes n l.data.toNat))) []

/-- A free place of the log buffer (R356): the lowest. R356 does not say which place an entry takes (DESIGN CHOICE, log 118). -/
def Hub.freeSlot (h : Hub) : Nat := ((List.range 4096).find? (fun k => h.log.all (fun e => e.slot != k))).getD 0

/-- Enters a store into the log buffer, line by line (R356). -/
def State.logStore (s : State) (ctx n : Nat) (r : RemoteReq) : State :=
  (storeLines n r.lanes).foldl (fun s x =>
    let h := s.hub
    let e : LogEntry := { seq := h.logSeq, va := BitVec.ofNat 64 (64 * x.1), ctx, bmask := x.2.1, data := x.2.2, sender := r.fromDev,
                          senderGroup := r.fromGroup, place := r.fromPlace, slot := h.freeSlot, rel := r.rel }
    { s with hub := { h with log := h.log ++ [e], logSeq := h.logSeq + 1 }, mem := Mem.writeBytes s.mem (h.logbase.toNat + 128 * e.slot) e.toBytes }) s

/-- A request performed, logged or refused at the target (R237 to R239, R356, R357); a release publishes an epoch taken here (DEDUCED, log
59). -/
def State.serveRemote (s : State) (ctx : Nat) (r : RemoteReq) : State × RemoteReply :=
  let n := match r.kind with | .ratom => atomSize r.ty.code | _ => tySize r.ty.code
  let publish (s : State) (pas : List (RemoteLane × Nat)) : State :=
    if !r.rel then s
    else
      let (e, s) := s.epoch
      pas.foldl (fun s x => s.publish (x.2 / 64) e) s
  match r.kind with
  | .rld =>
    let (s, ok, bad) := s.remoteAddrs ctx n { r := true } r.lanes
    (match firstRank bad with
    | some c => (s, .fault (remoteCode c))
    | none =>
      let (s, vals) := ok.foldl (fun (acc : State × FMap W64) x =>
        match acc.1.homeRead ctx x.2 n with
        | (s, .ok v) => (s, acc.2 ++ [(x.1.lane, extendTy r.ty.code v)])
        | (s, .error _) => (s, acc.2)) (s, [])
      (s, .done vals 0))
  | .rst =>
    let held := s.hub.log.any (fun e => e.sender == r.fromDev && e.senderGroup == r.fromGroup)
    let (s, ok, bad) := s.remoteAddrs ctx n { w := true } r.lanes
    if held || !bad.isEmpty then
      let k := (storeLines n r.lanes).length
      if s.hub.log.length + k ≤ 4096 then (s.logStore ctx n r, .logged k) else (s, .fault 6)
    else (publish (ok.foldl (fun (s : State) x => (s.homeWrite ctx x.2 (leBytes n x.1.data.toNat)).1) s) ok, .done [] 0)
  | .ratom =>
    let (s, ok, bad) := s.remoteAddrs ctx n { r := true, w := true } r.lanes
    match firstRank bad with
    | some c => (s, .fault (remoteCode c))
    | none =>
      if ok.any (fun x => !s.homePasses ctx x.2 true) then (s, .fault 3)
      else
        let (s, vals, won) := ok.foldl (fun (acc : State × FMap W64 × List Nat) x =>
          let (s, vals, won) := acc
          let s := s.recall (x.2 / 64)
          let old := Mem.readNat s.mem x.2 n
          let s := (s.homeWriteBytes x.2 (leBytes n (atomNew r.op r.ty.code old x.1.data.toNat x.1.cmp.toNat))).l2Touch ctx x.2 true
          (s, vals ++ [(x.1.lane, extendTy r.ty.code old)], if r.op = 7 && old == x.1.cmp.toNat % 2 ^ (8 * n) then won ++ [x.1.lane] else won))
          (s, [], [])
        (publish s ok, .done vals (maskOf won))

/-- The planes of a remote operation's packets to a device (R293). -/
def NetMsg.planesTo (dev : Nat) : NetMsg → List Nat
  | .request r => if r.toDev = dev then r.planes else []
  | .reply d _ ps _ => if d = dev then ps else []
  | _ => []

/-- Whether a request or reply that the hub loops back is the next packet on each of its planes (R240, R293): packets of one plane arrive in
the order sent. -/
def State.nextOnPlanes (s : State) (m : NetMsg) : Bool :=
  s.hub.outbox.contains m &&
  (s.hub.outbox.takeWhile (· != m)).all (fun q => !(q.planesTo s.devId).any (m.planesTo s.devId).contains)

/-- REMOTE_REQUEST_RECEIVE (R235): a request for this device arrives, from a peer or through the hub, and is answered. -/
def execRemoteRequestReceive (r : RemoteReq) (s : State) : Out :=
  stepOut s (do
    need (r.toDev == s.devId) "the request is for another device"
    need (r.fromDev != s.devId || s.nextOnPlanes (.request r)) "no such request is next on its planes"
    let s := if r.fromDev = s.devId then s.modHub (fun h => { h with outbox := h.outbox.erase (.request r) }) else s
    match s.ctxOfFgrp r.fgrp with
    | none => pure (s.send (.reply r.fromDev r.id r.planes (.fault 5)))
    | some ctx =>
      let flits := lanesLines r.lanes
      let s := s.linkBytes ctx r.fromDev 4 (flits * (if r.kind == .rld then 1 else 2))
      let (s, rep) := s.serveRemote ctx r
      pure ((s.linkBytes ctx r.fromDev 3 (flits * (if r.kind == .rld then 2 else 1))).send (.reply r.fromDev r.id r.planes rep)))

/-! Replies (R237 to R240, R336, R354, R355) -/

/-- Whether an operation is a part of a remote instruction that has not retired. -/
def Op.isPart (o : Op) (a : Agent) (first : Nat) : Bool :=
  o.agent.base == a.base && !o.finished && (match o.kind with | .remote f _ _ _ _ _ _ _ _ => f == first | _ => false)

/-- The lowest lane of a mask. -/
def lowLane (m : W64) : Nat := (lanesOf 64 m).headD 64

/-- Holds an RFAULT for a group (R239, R354): one for each instruction, with the peer of its lowest faulting part and the address of its lowest
faulting lane; IPOFF is 0 (R328). -/
def State.holdRfault (s : State) (o : Op) (first parts code : Nat) (req : RemoteReq) (dst : Option Reg) : State :=
  match o.agent with
  | .thread _ => s
  | .group g _ =>
    let lanes := maskOf (req.lanes.map (fun (l : RemoteLane) => l.lane))
    let e : HeldError :=
      { cause := .rfault, counter := 2, seq := o.seq, addr := ((req.lanes.head?).map (fun (l : RemoteLane) => l.va)).getD 0, lanes := some lanes,
        detail := BitVec.ofNat 64 (req.toDev * 2 ^ 32 + code), ipoff := 0, dst }
    let same (x : HeldError) : Bool := x.cause == .rfault && x.counter == 2 && decide (first ≤ x.seq) && decide (x.seq < first + parts) && !x.discarded
    let join (x : HeldError) : HeldError :=
      let low := if x.seq < e.seq then x else e
      { low with lanes := some (x.lanes.getD 0 ||| lanes), addr := if lowLane (x.lanes.getD 0) < lowLane lanes then x.addr else e.addr }
    s.modGroup g (fun gr =>
      if gr.errors.any same then { gr with errors := gr.errors.map (fun x => if same x then join x else x) }
      else { gr with errors := gr.errors ++ [e] })

/-- The last part of a remote instruction has replied (R237, R238, R240): D and the success mask are written and full; an acquire
invalidates the core's L1, and the epochs that atomics and acquires of this device's memory read are observed (R89, R240). -/
def State.remoteWhole (s : State) (o : Op) (req : RemoteReq) (dst : Option Reg) (lanes : W64) (mask : Option Nat) (got : FMap W64) (ok : W64) : State :=
  let ls := lanesOf 64 lanes
  let vals : FMap W64 := match got with
    | [x] => ls.map (fun l => (l, x.2))
    | _ => got
  let okAll : W64 := match got with | [x] => if ok.getLsbD x.1 then lanes else 0 | _ => ok
  let s := match dst with | some d => s.fillReg o.agent d vals | none => s
  let s := match mask with | some k => s.fillMask o.agent k lanes okAll | none => s
  let s := if req.acquires then s.invalidateL1 o.core else s
  if req.toDev ≠ s.devId || !(req.acquires || req.kind == .ratom) then s
  else match s.ctxOfFgrp req.fgrp with
    | none => s
    | some ctx => req.lanes.foldl (fun s l => match s.translate hubCore ctx l.va { r := true } with
        | (s, .ok pa) => s.observe o.agent req.acquires (s.repochAt (pa / 64))
        | (s, .error _) => s) s

/-- A part is acknowledged (R237, R239): its charge is credited, its values join those of its instruction, and it retires in order. -/
def State.applyReply (s : State) (id : Nat) (o : Op) (rep : RemoteReply) : State :=
  match o.kind with
  | .remote first parts req dst lanes mask _ got ok =>
    let (vals, okb) : FMap W64 × W64 := match rep with
      | .done v k => (v, k)
      | _ => (req.lanes.map (fun (l : RemoteLane) => (l.lane, (0 : W64))), 0)
    let got := vals.foldl (fun m x => FMap.put m x.1 x.2) got
    let ok := ok ||| okb
    let s := match rep with | .fault code => s.holdRfault o first parts code req dst | _ => s
    let s := if req.kind == .rld then s else s.modAgent o.agent (fun ag => { ag with ack := ag.ack - 1 })
    let s := match rep, o.agent with
      | .logged n, .group g _ => s.modGroup g (fun gr =>
          { gr with logged := gr.logged + n, loggedAt := FMap.put gr.loggedAt req.toDev (FMap.at 0 gr.loggedAt req.toDev + n) })
      | _, _ => s
    let s := match s.ops.find? (fun p => p.1 != id && p.2.isPart o.agent first) with
      | some (other, _) => s.modOp other (fun p => { p with kind := match p.kind with
          | .remote f n r d l m rep _ _ => .remote f n r d l m rep got ok | k => k })
      | none => s.remoteWhole o req dst lanes mask got ok
    (s.modOp id (fun p => { p with charge := 0, parked := none })).finishOp id
  | _ => s

/-- The hub keeps the reply of a parked part (R336); the first that comes stands. -/
def Op.keepReply (o : Op) (rep : RemoteReply) : Op :=
  { o with kind := match o.kind with
      | .remote f n r d l m none got ok => .remote f n r d l m (some rep) got ok
      | k => k }

/-- Whether a remote part still awaits its reply. -/
def Op.awaits (o : Op) : Bool :=
  !o.finished && (match o.kind with | .remote _ _ _ _ _ _ none _ _ => true | _ => false)

/-- Ticks since an operation issued. -/
def State.ticksSince (s : State) (o : Op) : Nat := s.ticks - o.issuedAt * 5 / 6

/-- What a part retires with where its answer comes now: code 7 once CTIMEOUT has passed since its issue (R355). -/
def State.inTime (s : State) (o : Op) (rep : RemoteReply) : RemoteReply := if s.ticksSince o ≤ s.hub.ctimeout then rep else .fault 7

/-- An answer reaches a part, on its core or in the save area. -/
def State.replyTo (s : State) (id : Nat) (rep : RemoteReply) : State :=
  match FMap.find s.ops id with
  | some o =>
    if !o.awaits then s
    else if o.parked.isSome then s.modOp id (fun o => o.keepReply (s.inTime o rep)) else s.applyReply id o (s.inTime o rep)
  | none => s.modSavedOp id (fun o => if o.awaits then o.keepReply (s.inTime o rep) else o)

/-- Whether the hub loops a part's reply back: it is the next packet on each of its planes (R293). -/
def State.ownReply (s : State) (op : Nat) (req : RemoteReq) (r : RemoteReply) : Bool := s.nextOnPlanes (.reply s.devId op req.planes r)

/-- REMOTE_REPLY (R237, R293, R307, R336, R355): a reply or acknowledgement arrives; one for a part that has retired is discarded. -/
def execRemoteReply (op : Nat) (r : RemoteReply) (s : State) : Out :=
  stepOut s (do
    need (op < s.nextId) "no such part was sent"
    let part : Option (Op × RemoteReq) := match (FMap.find s.ops op).orElse (fun _ => s.savedOp op) with
      | some o => (match o.kind with | .remote _ _ req _ _ _ _ _ _ => some (o, req) | _ => none)
      | none => none
    match part with
    | some (o, req) => do
      need (req.toDev != s.devId || s.ownReply op req r) "the hub has not answered the part"
      let s := s.linkBytes o.ctx req.toDev 4 (lanesLines req.lanes * (if req.kind == .rld then 2 else 1))
      pure ((s.modHub (fun h => { h with outbox := h.outbox.erase (.reply s.devId op req.planes r) })).replyTo op r)
    | none => pure (s.modHub (fun h => { h with outbox := h.outbox.filter (fun m => match m with
        | .reply d k _ rep => !(d == s.devId && k == op && rep == r) | _ => true) })))

/-- REMOTE_TIMEOUT (R355): a part's reply has not come within CTIMEOUT of its issue. -/
def execRemoteTimeout (op : Nat) (s : State) : Out :=
  stepOut s (do
    let o ← getSome ((FMap.find s.ops op).orElse (fun _ => s.savedOp op)) "no such operation"
    need (o.awaits && decide (s.hub.ctimeout ≤ s.ticksSince o)) "the part has not timed out"
    pure (s.replyTo op (.fault 7)))

/-- REPLAY_NOTICE (R239, R354, R357): a line that a peer has logged for a group has been replayed, or discarded: then the peer stands in the
group's record with code 9. A notice is taken to be one flit (R307; DEDUCED, log 117). -/
def execReplayNotice (n : LogNotice) (failed : Bool) (s : State) : Out :=
  stepOut s (do
    let gr ← getSome (s.groupByUid n.group) "no such group"
    need (gr.logged != 0 && FMap.at 0 gr.loggedAt n.peer != 0) "no store of the group is logged at the peer"
    let own := NetMsg.notice s.devId n.group failed
    need (n.peer != s.devId || s.hub.outbox.contains own) "the device has sent no such notice"
    let e : HeldError := { cause := .rfault, counter := 2, seq := 0, addr := 0, lanes := none,
                           detail := BitVec.ofNat 64 (n.peer * 2 ^ 32 + 9), ipoff := 0, dst := none }
    let s := (if n.peer = s.devId then s.modHub (fun h => { h with outbox := h.outbox.erase own }) else s).linkBytes gr.ctx n.peer 4 1
    pure (s.modUid n.group (fun gr =>
      { gr with logged := gr.logged - 1, loggedAt := FMap.put gr.loggedAt n.peer (FMap.at 0 gr.loggedAt n.peer - 1),
                errors := if failed then gr.errors ++ [e] else gr.errors })))

/-- A logged line's bytes are written at the home (R357): a release publishes an epoch taken then (log 59). -/
def State.replayLine (s : State) (e : LogEntry) (pa : Nat) : State :=
  let s := if e.bmask = BitVec.allOnes 64 then s.homeWriteBytes pa e.data
    else (lanesOf 64 e.bmask).foldl (fun s k => s.homeWriteBytes (pa + k) [e.data.getD k 0]) s
  if !e.rel then s
  else
    let (ep, s) := s.epoch
    s.publish (pa / 64) ep

/-- LOG_BUFFER_REPLAY (R239, R307, R357): the driver replays, or discards, the sender's oldest logged line, and a notice goes to the sender. -/
def execLogBufferReplay (seq : Nat) (discard : Bool) (s : State) : Out :=
  stepOut s (do
    let e ← getSome (s.hub.log.find? (fun e => e.seq == seq)) "no such entry"
    need (s.hub.log.all (fun x => x.sender != e.sender || x.senderGroup != e.senderGroup || decide (seq ≤ x.seq))) "an older entry of the group waits"
    let done (s : State) : State :=
      ((s.modHub (fun h => { h with log := h.log.filter (fun x => x.seq != seq) })).linkBytes e.ctx e.sender 3 1).send
        (.notice e.sender e.senderGroup discard)
    if discard then pure (done s)
    else match s.translate hubCore e.ctx e.va { w := true } with
      | (s, .ok pa) => do
        need (s.homePasses e.ctx pa true) "the driver cannot write the line"
        pure (done (s.replayLine e pa))
      | (_, .error _) => .error (.idle "the driver cannot reach the line"))

/-! Collectives: issue (R241 to R243) -/

/-- The fields of a collective's descriptor (R241). -/
def collTag (w : W64) : Nat := (bits w 48 16).toNat
def collType (w : W64) : Nat := (bits w 35 2).toNat
def collOp (w : W64) : Nat := (bits w 33 2).toNat
def collRank (w : W64) : Nat := (bits w 16 10).toNat
def collRanks (w : W64) : Nat := (bits w 0 10).toNat + 1

/-- Whether a descriptor is accepted (R241). -/
def collOk (w : W64) : Bool :=
  bits w 38 10 == 0 && bits w 26 7 == 0 && bits w 10 6 == 0 && collRanks w ≤ 512 && collRank w < collRanks w &&
  ((collType w == 0 && collOp w < 3) || (collType w == 1 && collOp w == 0) || (collType w == 2 && collOp w == 0))

/-- Bytes of an element. -/
def collElem (typ : Nat) : Nat := if typ = 1 then 2 else 4

/-- The rank list's address and the descriptor of a `coll`. -/
def Iss.collA (i : Iss) (s : State) : W64 := i.va s 0
def Iss.collW (i : Iss) (s : State) : W64 := match i.a with | some (.q n) => i.read s (some (.q (n + 1))) 0 | _ => 0

/-- Reads the rank list through the context's translation (R242): the entries, or the cause, REASON and address of the fault. -/
def State.rankList (s : State) (core ctx : Nat) (va : W64) : Nat → State × Except (Cause × Nat × W64) (List Nat)
  | 0 => (s, .ok [])
  | n + 1 =>
    if va.toNat % 2 ≠ 0 then (s, .error (.align, 0, va))
    else match s.translate core ctx va { r := true } with
      | (s, .error (c, r)) => (s, .error (c, r, va))
      | (s, .ok pa) => match s.homeRead ctx pa 2 with
        | (s, .error (c, r)) => (s, .error (c, r, va))
        | (s, .ok v) => match s.rankList core ctx (va + 2) n with
          | (s, .error e) => (s, .error e)
          | (s, .ok l) => (s, .ok (v % 512 :: l))

/-- log2 of the largest power of two not above P (R296). -/
def collK (p : Nat) : Nat := Nat.log2 p

/-- Elements of block a up to block b of R296. -/
def collBlk (e k a b : Nat) : Nat × Nat := (a * e / 2 ^ k, b * e / 2 ^ k)

/-- The reduce-scatter loop of R296 from step i down, at block `lo`. -/
def reduceScatter (e k r : Nat) : Nat → Nat → List CollStep
  | 0, _ => []
  | i + 1, lo =>
    let p := r ^^^ 2 ^ i
    let mid := lo + 2 ^ i
    if r / 2 ^ i % 2 = 0 then
      { sendTo := some p, sends := [collBlk e k mid (mid + 2 ^ i)], recvFrom := some p, recvs := [collBlk e k lo mid], combine := true } ::
        reduceScatter e k r i lo
    else
      { sendTo := some p, sends := [collBlk e k lo mid], recvFrom := some p, recvs := [collBlk e k mid (mid + 2 ^ i)], combine := true } ::
        reduceScatter e k r i mid

/-- The all-gather loop of R296 from step i on, at block `lo`; `blks` are the element ranges of blocks a up to b. -/
def allGather (k r : Nat) (blks : Nat → Nat → List (Nat × Nat)) : Nat → Nat → List CollStep
  | 0, _ => []
  | fuel + 1, lo =>
    let i := k - (fuel + 1)
    let p := r ^^^ 2 ^ i
    let other := lo ^^^ 2 ^ i
    { sendTo := some p, sends := blks lo (lo + 2 ^ i), recvFrom := some p, recvs := blks other (other + 2 ^ i) } ::
      allGather k r blks fuel (lo - lo / 2 ^ i % 2 * 2 ^ i)

/-- The step sequence of a bucket of E elements over P ranks (R296, R298). -/
def collSteps (kind e p r peer : Nat) : List CollStep :=
  let k := collK p
  let p' := 2 ^ k
  let all := [(0, e)]
  let pre : List CollStep := if r < p - p' then [{ recvFrom := some (r + p'), recvs := all, combine := true }] else []
  let post : List CollStep := if r < p - p' then [{ sendTo := some (r + p'), sends := all }] else []
  let outside : List CollStep := [{ sendTo := some (r - p'), sends := all }, { recvFrom := some (r - p'), recvs := all }]
  let reduce : List CollStep :=
    if p' ≤ r then outside
    else pre ++ reduceScatter e k r k 0 ++ allGather k r (fun a b => [collBlk e k a b]) k r ++ post
  let chunk (j : Nat) : Nat × Nat := (j * e / p, (j + 1) * e / p)
  let held (a b : Nat) : List (Nat × Nat) :=
    ((List.range (b - a)).map (· + a)).flatMap (fun j => if j + p' < p then [chunk j, chunk (j + p')] else [chunk j])
  match kind with
  | 0 => reduce
  | 1 => if p = p' then reduceScatter e k r k 0 else reduce
  | 2 =>
    if p' ≤ r then [{ sendTo := some (r - p'), sends := [chunk r] }, { recvFrom := some (r - p'), recvs := all }]
    else (if r < p - p' then [{ recvFrom := some (r + p'), recvs := [chunk (r + p')] }] else []) ++ allGather k r held k r ++ post
  | 3 => [{ sendTo := some peer, sends := all }]
  | _ => [{ recvFrom := some peer, recvs := all }]

/-- The bucket of a lane: its address, its length, its peer rank (R242). -/
def Iss.bucketLen (i : Iss) (s : State) (l : Nat) : Nat := (bits (i.vc s l) 0 32).toNat
def Iss.bucketPeer (i : Iss) (s : State) (l : Nat) : Nat := (bits (i.vc s l) 32 32).toNat

/-- The checks of `coll` (R33, R241, R242, R252). -/
def collHooks : Hooks :=
  { illegal := fun i s => !i.lanes.isEmpty && !collOk (i.collW s)
    hold := fun i s => match s.group? i.gi with
      | some g => decide (255 < g.fabric + i.lanes.length) || decide (65535 < g.agent.ack + i.lanes.length)
      | none => false
    delta := fun i s =>
      if i.lanes.isEmpty then {}
      else { cls := .fabric, charge := i.lanes.foldl (fun n l => n + chargeOf 6 (i.bucketLen s l)) 0 } }

/-- The next ordinal of a tag and rank list in a context (R243). -/
def State.nextOrdinal (s : State) (ctx tag : Nat) (ranks : List Nat) : Nat × State :=
  match s.ctx? ctx with
  | none => (0, s)
  | some c =>
    let hit (x : Nat × List Nat × Nat) : Bool := x.1 == tag && x.2.1 == ranks
    match c.ordinals.find? hit with
    | some x => (x.2.2, s.modCtx ctx (fun c => { c with ordinals := c.ordinals.map (fun y => if hit y then (y.1, y.2.1, y.2.2 + 1) else y) }))
    | none => (0, s.modCtx ctx (fun c => { c with ordinals := c.ordinals ++ [(tag, ranks, 1)] }))

/-- `coll` (R242): a bucket for each active lane is queued. The collective message that raises the acknowledgement counter (R33) is taken to
be the one that hands a bucket to the engine, since no fence waits for a collective (R203; DEDUCED, log 96). -/
def collBody (i : Iss) (s : State) : Res State :=
  if i.lanes.isEmpty then .ok s
  else
    let w := i.collW s
    let n := collElem (collType w)
    let bad := i.lanes.filterMap (fun l =>
      if (i.vb s l).toNat % n ≠ 0 ∨ i.bucketLen s l % n ≠ 0 then some (l, i.vb s l, Cause.align, 0) else none)
    match laneTrap .engRead 5 bad, s.group? i.gi, i.d with
    | some tr, _, _ => .error (.trap tr)
    | none, some g, some dst =>
      (match s.rankList i.core i.ctx (i.collA s) (collRanks w) with
      | (s, .error (c, r, va)) => .error (.trapAt s { cause := c, addr := va, detail := memDetail false .engRead 5 r 0 })
      | (s1, .ok ranks) =>
        let add (t : State) (l : Nat) : State :=
          let (ord, t) := t.nextOrdinal i.ctx (collTag w) ranks
          let len := i.bucketLen s l
          let h : CollHeader := { tag := collTag w, ordinal := ord, kind := i.f.xs.toNat, op := collOp w, typ := collType w, bytes := len, ranks }
          let b : Bucket := { lane := l, header := h, rank := collRank w, peerRank := i.bucketPeer s l, innet := w.getLsbD 37 && i.f.xs == 0,
                              va := i.vb s l, steps := collSteps i.f.xs.toNat (len / n) ranks.length (collRank w) (i.bucketPeer s l) }
          (t.issueOp { agent := i.agent, core := i.core, ctx := i.ctx, cls := .fabric, charge := chargeOf 6 len, counter := .fabric,
                       poff := poffOf i.entry i.pc, kind := .coll g.fabricSeq dst b }).2.modAgent i.agent (fun ag => { ag with ack := ag.ack + 1 })
        .ok (i.lanes.foldl add ((i.dsts.flatMap Reg.units).foldl i.emptyUnit s1)))
    | none, _, _ => .error (.fault .noAgent)

def execColl (f : Ext) (s : State) : Out := runExt collHooks 0x79 f collBody s

/-! Collectives: steps (R294 to R299, R358, R359) -/

/-- The result of a reducer on local x and received y (R295); an exact zero of the bf16 add is +0 (R59). -/
def collCombine (op typ x y : Nat) : Nat :=
  match typ, op with
  | 0, 0 => rneAdd x y
  | 0, 1 => fpMinMax .f32 false x y
  | 0, _ => fpMinMax .f32 true x y
  | 1, _ => let z := fpAdd .bf16 .rne x y; if z = 0x8000 then 0 else z
  | _, _ => (x + y) % 2 ^ 32

/-- Combines local bytes with received ones, element by element. -/
def combineBytes (op typ : Nat) : Nat → List Byte → List Byte → List Byte
  | 0, _, _ => []
  | fuel + 1, xs, ys =>
    let n := collElem typ
    if ys.isEmpty then []
    else leBytes n (collCombine op typ (leNat (xs.take n)) (leNat (ys.take n))) ++ combineBytes op typ fuel (xs.drop n) (ys.drop n)

/-- The bytes of a list of element ranges: offsets in the bucket, with lengths. -/
def rangeBytes (typ : Nat) (rs : List (Nat × Nat)) : List (Nat × Nat) := rs.map (fun r => (r.1 * collElem typ, (r.2 - r.1) * collElem typ))

/-- The length of a step's ranges in bytes. -/
def rangesLen (typ : Nat) (rs : List (Nat × Nat)) : Nat := (rangeBytes typ rs).foldl (fun n r => n + r.2) 0

/-- The offset in the bucket of byte `k` of a step's ranges, and how many bytes of its range follow. -/
def rangeAt : List (Nat × Nat) → Nat → Nat × Nat
  | [], _ => (0, 0)
  | (o, n) :: rest, k => if k < n then (o + k, n - k) else rangeAt rest (k - n)

/-- Reads `n` bytes of a step's ranges from byte `k`, run by run (R95); the stop of the run that fails. -/
def State.collRead (s : State) (e : Eng) (va : W64) (rs : List (Nat × Nat)) : Nat → Nat → Nat → State × List Byte × Option EngStop
  | 0, _, _ => (s, [], none)
  | fuel + 1, k, n =>
    let (o, left) := rangeAt rs k
    let a := va + BitVec.ofNat 64 o
    let run := min (min left n) (64 - a.toNat % 64)
    if run = 0 then (s, [], none)
    else match s.engRead e .g a run with
      | (s, .error x) => (s, [], some x)
      | (s, .ok bs) =>
        let (s, more, stop) := s.collRead e va rs fuel (k + run) (n - run)
        (s, bs ++ more, stop)

/-- The bytes that stand where an engine's write lands. -/
def State.standing (s : State) (e : Eng) (a : W64) (n : Nat) : List Byte :=
  match s.translate e.core e.ctx a { w := true } with
  | (s, .ok pa) => Mem.readBytes (s.recall (pa / 64)).mem pa n
  | (_, .error _) => []

/-- Takes received bytes into a step's ranges from byte `k`, run by run: combined or written; the bucket with what stood there (R358), how many
landed, and the stop. -/
def State.collWrite (s : State) (e : Eng) (b : Bucket) (st : CollStep) : Nat → Nat → List Byte → State × Bucket × Nat × Option EngStop
  | 0, k, _ => (s, b, k, none)
  | fuel + 1, k, bs =>
    let (o, left) := rangeAt (rangeBytes b.header.typ st.recvs) k
    let a := b.va + BitVec.ofNat 64 o
    let run := min (min left bs.length) (64 - a.toNat % 64)
    if run = 0 then (s, b, k, none)
    else
      let (s, rd) : State × Except EngStop (List Byte) := if st.combine then s.engRead e .g a run else (s, .ok (bs.take run))
      match rd with
      | .error x => (s, b, k, some x)
      | .ok old =>
        let new := if st.combine then combineBytes b.header.op b.header.typ run old (bs.take run) else bs.take run
        let stood := s.standing e a run
        match s.engWrite e .g a new false false with
        | (s, .error x) => (s, b, k, some x)
        | (s, .ok _) =>
          let s := if st.combine then s.addUsage (s.ownerOf e.ctx) 12 run else s
          s.collWrite e { b with undo := b.undo ++ [(a, stood)] } st fuel (k + run) (bs.drop run)

/-- The bucket of an operation. -/
def Op.bucket (o : Op) : Option (Nat × Reg × Bucket) := match o.kind with | .coll f d b => some (f, d, b) | _ => none

/-- Replaces the bucket of an operation. -/
def State.setBucket (s : State) (id first : Nat) (dst : Reg) (b : Bucket) : State := s.modOp id (fun o => { o with kind := .coll first dst b })

/-- A bucket ends with a status (R242, R358): its charge is credited, and it retires in order; with a status of 2 or above the step under way
leaves nothing. R102 credits the charge at the last step, R103
holds the fixed part until retirement: it is dropped here (DEDUCED, log 93). -/
def State.endBucket (s : State) (id first : Nat) (dst : Reg) (b : Bucket) (status : Nat) : State :=
  let s := if status < 2 then s else match FMap.find s.ops id with | some o => s.undoStep o b | none => s
  ((s.setBucket id first dst { b with status, steps := [], undo := [], kept := none }).modOp id (fun o => { o with charge := 0 })).finishOp id

/-- Whether one of a list of operations is an unfinished bucket of a TAG and context with a lower number. -/
def olderOfTag (ops : FMap Op) (id ctx tag : Nat) : Bool :=
  ops.any (fun p => decide (p.1 < id) && p.2.ctx == ctx && !p.2.finished &&
    (match p.2.kind with | .coll _ _ x => x.header.tag == tag | _ => false))

/-- Whether a bucket is the oldest of its TAG in its context (R243), those in the save area among them. -/
def State.headOfTag (s : State) (id : Nat) (o : Op) (b : Bucket) : Bool :=
  !olderOfTag s.ops id o.ctx b.header.tag &&
  ((s.ctx? o.ctx).map (fun (c : Context) => c.image.all (fun im => !olderOfTag im.ops id o.ctx b.header.tag))).getD true

/-- The device of a rank. -/
def Bucket.dev (b : Bucket) (r : Nat) : Option Nat := b.header.ranks[r]?

/-- The header that a bucket's peers send (R243, R298): its own, with `send` and `recv` exchanged. -/
def Bucket.expected (b : Bucket) : CollHeader :=
  { b.header with kind := if b.header.kind = 3 then 4 else if b.header.kind = 4 then 3 else b.header.kind }

/-- The peers with which a bucket has still to exchange (R296), every rank's in the network (R299). -/
def Bucket.peers (b : Bucket) (self : Nat) : List Nat :=
  let rs := if b.slots = some true then List.range b.header.ranks.length else b.steps.flatMap (fun st => st.sendTo.toList ++ st.recvFrom.toList)
  ((rs.filterMap b.dev).filter (fun d => d != self)).foldl NSet.add []

/-- A bucket ends with a mismatch (R243, R358): status 4, and each of the given peers is told, by one flit (R307; log 117). -/
def State.mismatched (s : State) (id : Nat) (o : Op) (first : Nat) (dst : Reg) (b : Bucket) (peers : List Nat) : State :=
  (peers.foldl (fun (s : State) d => (s.linkBytes o.ctx d 3 1).send (.mismatch d b.header)) s).endBucket id first dst b 4

/-- A bucket's access failed (R242, R343): PAGE, PROT and OWNER park it; DATAERR ends it with status 2. -/
def State.collFault (s : State) (id : Nat) (o : Op) (stop : EngStop) : Res State :=
  match stop with
  | .fail c r a k w => if c == .dataerr then .ok (s.endWithError id 7 a 5) else .ok (s.parkOp id o c r a k w)
  | _ => .error (.idle "the access waits")

/-- The 64-byte flits of a transfer, by place (R293). -/
def flitsOf : Nat → Nat → List Byte → FMap (List Byte)
  | 0, _, _ => []
  | fuel + 1, f, bs => if bs.isEmpty then [] else (f, bs.take 64) :: flitsOf fuel (f + 1) (bs.drop 64)

/-- The messages of a transfer (R293, R360): flit f travels on plane f mod 16, striped over the planes that are up. -/
def collMsgs (up : List Nat) (peer : Option Nat) (h : CollHeader) (bs : List Byte) : List NetMsg :=
  let flits := flitsOf (bs.length + 1) 0 bs
  (up.mapIdx (fun k p => (p, flits.filter (fun f => f.1 % up.length == k)))).filterMap (fun x =>
    if x.2.isEmpty then none else some (.coll peer x.1 h x.2))

/-- COLL_STEP_START (R243, R296 to R299, R358): the next step's sends begin once the previous step is complete; a send or receive starts
when both sides have issued (R298), as the network tells. A bucket whose own entry is not this device ends with status 4; one
whose context has no fabric group, or that finds no port up, with status 3; a peer rank outside the list ends it with an error status that
is not stated, a free value. -/
def execCollStepStart (r : OpReport) (s : State) : Out :=
  let op := r.op
  stepOut s (do
    let (s, o) ← s.running op
    let (first, dst, b) ← getSome o.bucket "not a collective"
    need (s.headOfTag op o b) "an older bucket of the tag runs"
    need (!b.started) "the step has begun"
    let peers := b.header.ranks.filter (fun d => d != s.devId)
    if b.dev b.rank ≠ some s.devId then
      pure (s.mismatched op o first dst b peers)
    else if ((s.ctx? o.ctx).map (fun (c : Context) => c.fgrp)).getD 0 = 0 then pure (s.endBucket op first dst b 3)
    else do
      need (!b.innet || b.slots.isSome) "the switches have not decided"
      match b.steps with
      | [] => pure (s.endBucket op first dst b 0)
      | st :: _ =>
        let lost (r : Option Nat) : Bool := match r with | some r => (b.dev r).isNone | none => false
        if lost st.sendTo || lost st.recvFrom then
          let (v, s) := s.draw
          pure (s.endBucket op first dst b (2 + v.toNat % 4))
        else if s.hub.portsUp.isEmpty then pure (s.endBucket op first dst b 3)
        else do
          need (r.ok || b.header.kind < 3) "the other side has not issued"
          let len := rangesLen b.header.typ st.sends
          match s.collRead (s.engOf o) b.va (rangeBytes b.header.typ st.sends) (len + 1) 0 len with
          | (s, _, some stop) => s.collFault op o stop
          | (s, bs, none) =>
            let peer := st.sendTo.bind b.dev
            let sends : Bool := !st.sends.isEmpty
            let s := if sends then
                (collMsgs s.hub.portsUp peer b.header bs).foldl State.send (s.linkBytes o.ctx (peer.getD 512) 3 ((len + 63) / 64)) else s
            pure (s.setBucket op first dst { b with started := true, sentAny := b.sentAny || sends, got := [], undo := [], since := s.ticks }))

/-- The ranges among `total` bytes from `pos` on that are not among those taken in. -/
def gaps (total : Nat) : Nat → FMap Nat → List (Nat × Nat)
  | pos, [] => if pos < total then [(pos, total - pos)] else []
  | pos, (o, n) :: rest => (if pos < o then [(pos, o - pos)] else []) ++ gaps total (o + n) rest

/-- Bytes laid into ranges, in order. -/
def layInto : List (Nat × Nat) → List Byte → List (Nat × List Byte)
  | [], _ => []
  | (o, n) :: rest, bs => (o, bs.take n) :: layInto rest (bs.drop n)

/-- The ranges of a bucket's step that have not been taken in. -/
def Bucket.missing (b : Bucket) (st : CollStep) : List (Nat × Nat) := gaps (rangesLen b.header.typ st.recvs) 0 b.got

/-- Received bytes of a step are taken in at their places, in any order (R294): the state and bucket after them. -/
def State.collTake (s : State) (op : Nat) (o : Op) (first : Nat) (dst : Reg) (st : CollStep) (b : Bucket) :
    List (Nat × List Byte) → State × Bucket × Option EngStop
  | [] => (s, b, none)
  | (off, bs) :: rest =>
    let (s, b, k, stop) := s.collWrite (s.engOf o) b st (bs.length + 1) off bs
    let b := if k = off then b else { b with got := FMap.put b.got off (k - off) }
    let s := s.setBucket op first dst b
    match stop with
    | some x => (s, b, some x)
    | none => s.collTake op o first dst st b rest

/-- Whether a command of a bucket waits in a reducer's queue (R294). -/
def State.reducing (s : State) (op : Nat) : Bool := s.hub.reducers.any (fun q => q.2.any (fun c => c.op == op))

/-- The ranges of a bucket's step that have neither been taken in nor wait in a reducer's queue. -/
def State.due (s : State) (op : Nat) (b : Bucket) (st : CollStep) : List (Nat × Nat) :=
  let waits := (s.hub.reducers.flatMap (fun q => q.2)).filter (fun c => c.op == op)
  gaps (rangesLen b.header.typ st.recvs) 0 (waits.foldl (fun m c => FMap.put m c.off c.data.length) b.got)

/-- Whether the hub keeps a message for a bucket (R336): the first that comes within CTIMEOUT, with all bytes that are due. -/
def State.keeps (s : State) (op : Nat) (b : Bucket) (a : StepAnswer) (data : List Byte) : Bool :=
  b.started && b.kept.isNone && decide (s.ticks ≤ b.since + s.hub.ctimeout) &&
  (a != .header b.expected || b.steps.head?.any (fun st => data.length == (s.due op b st).foldl (fun n g => n + g.2) 0))

/-- The hub keeps a message for a bucket that a vacate has parked (R336). -/
def State.keepMessage (s : State) (op : Nat) (a : StepAnswer) (data : List Byte) (o : Op) : Op :=
  { o with kind := match o.kind with
      | .coll f d b => .coll f d (if s.keeps op b a data && !o.finished then { b with kept := some (a, data) } else b)
      | k => k }

/-- Whether an operation is parked by a vacate. -/
def Op.halted (o : Op) : Bool := match o.parked with | some p => p.quiet | none => false

/-- The stack in front of whose channels a physical address lies (R79, R294). -/
def stackOf (pa : Nat) : Nat := channelOf pa / 32

/-- How many of `n` bytes from byte `off` of a bucket's step lie in one 256-byte granule of the destination (R294). -/
def Bucket.granule (b : Bucket) (st : CollStep) (off n : Nat) : Nat :=
  let (o', left) := rangeAt (rangeBytes b.header.typ st.recvs) off
  min n (min left (256 - (b.va + BitVec.ofNat 64 o').toNat % 256))

/-- Whether `n` bytes from byte `off` of a bucket's step take in whole aligned words of 4 bytes, but at the ends of a range (R93). -/
def Bucket.wholeWords (b : Bucket) (st : CollStep) (off n : Nat) : Bool :=
  let (o', left) := rangeAt (rangeBytes b.header.typ st.recvs) off
  let a := (b.va + BitVec.ofNat 64 o').toNat
  (a % 4 == 0 || off == 0 || (rangeAt (rangeBytes b.header.typ st.recvs) (off - 1)).2 == 1) && ((a + n) % 4 == 0 || n == left)

/-- A receive-reduce command enters the queue of 64 entries of the stack that holds its destination (R294); a full queue holds the flits in the
switch. -/
def State.pushReduce (s : State) (op : Nat) (o : Op) (b : Bucket) (st : CollStep) (off : Nat) (data : List Byte) : Res State := do
  need ((s.due op b st).any (fun g => decide (g.1 ≤ off) && decide (off + data.length ≤ g.1 + g.2))) "the bytes are not due"
  need (b.granule st off data.length == data.length && off % collElem b.header.typ == 0 && data.length % collElem b.header.typ == 0)
    "the bytes leave the granule"
  need (b.wholeWords st off data.length) "the bytes cut a word"
  let a := b.va + BitVec.ofNat 64 (rangeAt (rangeBytes b.header.typ st.recvs) off).1
  match s.translate o.core o.ctx a { r := true, w := true } with
  | (s, .error (c, r)) => s.collFault op o (.fail c r a .engRead false)
  | (s, .ok pa) => do
    let q := FMap.at [] s.hub.reducers (stackOf pa)
    need (q.length < 64) "the stack's queue is full"
    pure (s.modHub (fun hb => { hb with reducers := FMap.put hb.reducers (stackOf pa) (q ++ [{ op, off, data }]) }))

/-- COLL_STEP_COMPLETE (R294 to R299, R336, R358): the rest of the bytes of a step have arrived and its flits are acknowledged; those of a step
that combines have come through the reducers, to whose queues the hub hands what it kept, granule by granule. A header that differs from the
expected one, or a peer's mismatch, ends the bucket with status 4, a peer that holds no context of the fabric group with status 3, and a step that
has not completed within CTIMEOUT with status 5. For a bucket that is parked or saved, the hub keeps the message. -/
def execCollStepComplete (op : Nat) (a : StepAnswer) (data : List Byte) (s : State) : Out :=
  if (FMap.find s.ops op).isNone then .next (s.modSavedOp op (s.keepMessage op a data))
  else if (FMap.find s.ops op).any Op.halted then .next (s.modOp op (s.keepMessage op a data))
  else
  stepOut s (do
    let (s, o) ← s.running op
    let (first, dst, b) ← getSome o.bucket "not a collective"
    need b.started "the step has not begun"
    let late : Bool := b.kept.isNone && decide (b.since + s.hub.ctimeout < s.ticks)
    let (a, data) := b.kept.getD (a, data)
    match b.steps with
    | [] => .error (.idle "no step is left")
    | st :: rest =>
      if late then pure (s.endBucket op first dst b 5)
      else if a = .lost then pure (s.endBucket op first dst b 3)
      else if a ≠ .header b.expected then pure (s.mismatched op o first dst b (b.peers s.devId))
      else if st.combine && !data.isEmpty then do
        need b.kept.isSome "the bytes come by receive-reduce commands"
        let (off, n) ← getSome (s.due op b st).head? "no bytes are due"
        let k := b.granule st off n
        let s ← s.pushReduce op o b st off (data.take k)
        pure (if (FMap.find s.ops op).any (fun o => o.parked.isSome) then s
              else s.setBucket op first dst { b with kept := some (a, data.drop k) })
      else do
        need (!s.reducing op) "a reducer has bytes of the step to combine"
        let missing := b.missing st
        need (data.length == missing.foldl (fun n g => n + g.2) 0) "bytes of the step are missing"
        let (s, b, stop) := s.collTake op o first dst st b (layInto missing data)
        match stop with
        | some x => s.collFault op o x
        | none =>
          let from' := (st.recvFrom.bind b.dev).getD (if st.recvs.isEmpty then s.devId else 512)
          let took := rangesLen b.header.typ st.recvs
          let s := s.linkBytes o.ctx from' 4 ((took + 63) / 64)
          if rest.isEmpty then pure (s.endBucket op first dst { b with landed := b.landed + took, got := [] } (if b.slots = some true then 1 else 0))
          else pure (s.setBucket op first dst
            { b with steps := rest, started := false, got := [], landed := b.landed + took, undo := [], kept := none }))

/-- A port writes a receive-reduce command for bytes of a step, within one 256-byte granule of the destination (R294). -/
def State.queueReduce (s : State) (op : Nat) (h : CollHeader) (off : Nat) (data : List Byte) : Res State := do
  let (s, o) ← s.running op
  let (_, _, b) ← getSome o.bucket "not a collective"
  let st ← getSome b.steps.head? "no step is left"
  need (b.started && st.combine && h == b.expected && b.kept.isNone) "no such granule is due"
  s.pushReduce op o b st off data

/-- The reducer of a stack executes the oldest command of its queue (R294, R295); one whose bucket has ended is dropped, one whose bucket is
parked or saved waits. -/
def State.runReducer (s : State) (stack : Nat) : Res State := do
  match FMap.at [] s.hub.reducers stack with
  | [] => .error (.idle "the queue is empty")
  | c :: rest => do
    let pop (s : State) : State := s.modHub (fun hb => { hb with reducers := FMap.put hb.reducers stack rest })
    if (((FMap.find s.ops c.op).orElse (fun _ => s.savedOp c.op)).map (fun (o : Op) => o.finished)).getD true then pure (pop s)
    else do
      let (s, o) ← s.running c.op
      let (first, dst, b) ← getSome o.bucket "not a collective"
      let st ← getSome b.steps.head? "no step is left"
      match s.collTake c.op o first dst st b [(c.off, c.data)] with
      | (s, _, some x) => s.collFault c.op o x
      | (s, _, none) => pure (pop s)

/-- RECEIVE_REDUCE (R294, R295): a port writes a command into the queue of its stack; with no data, a stack's reducer executes one. -/
def execReceiveReduce (op : Nat) (h : CollHeader) (off : Nat) (data : List Byte) (s : State) : Out :=
  stepOut s (if data.isEmpty then s.runReducer off else s.queueReduce op h off data)

/-- INNET_REQUEST (R244, R299): the switches' decision on a bucket's reduction slots, multicast to every rank before any data is sent; a
grant needs every plane. With slots the bucket is sent once and the result received. -/
def execInnetRequest (op : Nat) (granted : Bool) (s : State) : Out :=
  stepOut s (do
    let (s, o) ← s.running op
    let (first, dst, b) ← getSome o.bucket "not a collective"
    need (b.innet && b.slots.isNone && !b.sentAny && s.headOfTag op o b) "no decision is due"
    need (!granted || s.hub.portsUp.length == 16) "a plane is down"
    let all := [(0, b.header.bytes / collElem b.header.typ)]
    let steps : List CollStep := if granted then [{ sends := all, recvs := all }] else b.steps
    let s := if b.rank = 0 then (s.linkBytes o.ctx 512 3 1).send (.innet b.header granted) else s
    pure (s.setBucket op first dst { b with slots := some granted, steps }))

/-- COLL_TIMEOUT (R336, R358): a step has not completed within CTIMEOUT, counted from its start also where a vacate has parked it. -/
def execCollTimeout (op : Nat) (s : State) : Out :=
  stepOut s (do
    let o ← getSome (FMap.find s.ops op) "no such operation"
    let (first, dst, b) ← getSome o.bucket "not a collective"
    need (!o.finished && (o.parked.isNone || o.halted) && b.started && b.kept.isNone && decide (b.since + s.hub.ctimeout ≤ s.ticks))
      "the step has not timed out"
    pure (s.endBucket op first dst b 5))

/-! Ports (R360) and the drain (R336) -/

/-- Whether a remote part in flight has a packet on a port: it was sent there (R360). -/
def Op.onPort (o : Op) (dev port : Nat) : Bool :=
  o.awaits && (match o.kind with
    | .remote _ _ req _ _ _ _ _ _ => req.toDev != dev && req.planes.contains port
    | _ => false)

/-- Whether a bucket has sent data that a lost port takes with it (R359): in the network, or where no port is left. -/
def Op.cutOff (o : Op) (none' : Bool) : Bool :=
  !o.finished && (match o.kind with | .coll _ _ b => b.sentAny && (b.slots == some true || none') | _ => false)

/-- PORT_DOWN (R359, R360): parts in flight on the port complete with code 8; an in-network bucket that has sent ends with status 3, and
so does every started bucket when no port is left. For a saved bucket the hub keeps that answer (R336). -/
def execPortDown (port : Nat) (s : State) : Out :=
  stepOut s (do
    need (s.hub.portsUp.contains port) "the port is down"
    let hit := (s.ops.filter (fun o => o.2.onPort s.devId port)).map Prod.fst ++
      s.ctxs.flatMap (fun c => c.2.image.flatMap (fun im => (im.ops.filter (fun o => o.2.onPort s.devId port)).map Prod.fst))
    let s := hit.foldl (fun s id => s.replyTo id (.fault 8)) s
    let s := (s.modHub (fun h => { h with portsUp := NSet.del h.portsUp port })).midnight 0x09 0 0xFF 2 (BitVec.ofNat 64 port) 0
    let none' := s.hub.portsUp.isEmpty
    let saved := s.ctxs.flatMap (fun c => c.2.image.flatMap (fun im => (im.ops.filter (fun o => o.2.cutOff none')).map Prod.fst))
    let s := saved.foldl (fun s id => s.modSavedOp id (s.keepMessage id .lost [])) s
    let lost := s.ops.filter (fun o => o.2.cutOff none')
    pure (lost.foldl (fun s o => match o.2.bucket with | some (f, d, b) => s.endBucket o.1 f d b 3 | none => s) s))

/-- PORT_RETRAIN (R360): the management unit retrains a port. -/
def execPortRetrain (port : Nat) (s : State) : Out :=
  stepOut s (do
    need (decide (6 ≤ s.hub.dawn)) "the dawn sequence has not ended"
    need (port < 16 && !s.hub.portsUp.contains port) "the port is up"
    pure (s.modHub (fun h => { h with portsUp := NSet.add h.portsUp port })))

/-- FLIT_CRC_ERROR (R360): the flit is retransmitted at the link level, which only delays it. -/
def execFlitCrcError (port : Nat) (s : State) : Out :=
  stepOut s (do
    need (s.hub.portsUp.contains port) "the port is down"
    pure s)

/-- DRAIN_CHARGE_ELAPSED (R336): a remote part or collective step still unacknowledged once its charge has elapsed since the halt is
parked at 32 ticks. -/
def execDrainChargeElapsed (op : Nat) (s : State) : Out :=
  stepOut s (do
    let o ← getSome (FMap.find s.ops op) "no such operation"
    let c := s.core o.core
    need (c.phase == .draining && o.parked.isNone && !o.finished && o.cls == .fabric) "the operation does not hold up a drain"
    need (c.haltAt + o.charge ≤ s.ticks) "its charge has not elapsed"
    pure (s.modOp op (fun o => { o with charge := 32, resuming := false, parked := some { cause := .rfault, addr := 0, detail := 0, quiet := true } })))

end Sys2Proof.Machine
end

