-- ==== Sys2Proof/Machine/Driver.lean ====
section
/-! DEFINITION. The driver's answers to fault records (R281, R331, R344, R346), fatal groups and teams (R346), and the stalls that end in
VBOUND or a refused entry (R107, R108, R333). -/
namespace Sys2Proof.Machine

open Sys2Proof

/-- Whether a record is of a group. -/
def RecordOwner.ofGroup (w : RecordOwner) (g : Nat) : Bool :=
  match w with
  | .slot k _ | .nested k | .engine k _ _ => k == g
  | .lostAgent k _ => k == some g
  | _ => false

/-- Whether a record is of a trapped path. -/
def RecordOwner.ofPath (w : RecordOwner) (g tok : Nat) : Bool :=
  match w with
  | .slot k n | .engine k n _ => k == g && n == tok
  | _ => false

/-- Takes the records that `f` picks out of a context's fault queue. -/
def State.dropRecords (s : State) (ctx : Nat) (f : Posted → Bool) : State :=
  s.modCtx ctx (fun c => { c with faults := c.faults.filter (fun p => !f p) })

/-- A fatal group as it stands (R346): its slots have stopped and its lanes have left. -/
def Group.stopped (gr : Group) : Group :=
  { gr with fatal := true, s0 := {}, s1 := {}, handler := {}, stack := [], pending := [], errors := [] }

/-- A group on its core stops as fatal (R346): its parked operations are cancelled; it ends once its counts allow. -/
def State.stopGroup (s : State) (g : Nat) : State :=
  match s.group? g with
  | none => s
  | some gr =>
    let s := (s.modGroup g Group.stopped).dropRecords gr.ctx (fun p => p.who.ofGroup g)
    let parked := s.ops.filter (fun o => o.2.agent.base == .group g .pc0 && (match o.2.parked with | some p => !p.quiet | none => false))
    parked.foldl (fun s o => match o.2.parked with
      | some p => s.endWithError o.1 9 (o.2.kind.errAddr p.addr) (bits p.detail 57 3).toNat
      | none => s) s

/-- FATAL GROUP (R346): the event, and the group stops. -/
def State.fatalGroup (s : State) (g : Nat) (w0 : W64) : State :=
  match s.group? g with
  | none => s
  | some gr => (s.midnight 0x04 gr.ctx (g / 64) 3 w0 0).stopGroup g

/-- A fatal team (R331, R346): each of its groups, and its thread, which ends once its counters allow. -/
def State.fatalTeam (s : State) (t : Nat) (w0 : W64) : State :=
  match s.thread? t with
  | none => s
  | some th =>
    let gs := (s.groups.filter (fun g => g.2.team == th.team)).map Prod.fst
    let s := s.modThread t (fun th => { th with fatal := true, slot := {} })
    (gs.foldl (fun s g => s.fatalGroup g w0) s).endIfFatal (.thread t)

/-- The handler of an interrupted path is abandoned (R331): its slot is free, and the next pending trap follows. -/
def State.abandonHandler (s : State) (g : Nat) : State :=
  (s.modGroup g (fun gr => { gr with handler := { slot := { lastIssue := gr.handler.slot.lastIssue } } })).enterPending g

/-- The record that a group's handler serves, which its trap escalates with its own (R331). -/
def Group.interrupted (gr : Group) (g : Nat) : RecordOwner :=
  match gr.handler.eng with | some o => .engine g gr.handler.tok o | none => .slot g gr.handler.tok

/-- Whether a record is the one that a stopped handler serves: it and the nested record are answered as one (R331). -/
def State.stoppedOn (s : State) (g : Nat) (w : RecordOwner) : Bool :=
  (s.group? g).any (fun gr => gr.handler.stopped && gr.interrupted g == w)

/-- Replay of the record of a path, or of a parked operation (R281, R331, R344). -/
def State.replayPath (s : State) (ctx g tok : Nat) (eng : Option Nat) : State :=
  let stopped := s.stoppedOn g (match eng with | some o => .engine g tok o | none => .slot g tok)
  let s := s.resumeTok g tok 0
  let s := match eng with | some o => s.unpark o | none => s
  if stopped then (s.dropRecords ctx (fun p => p.who == .nested g)).abandonHandler g else s

/-- Replay of a nested record (R331): the handler resumes, and the interrupted path stays trapped under it. -/
def State.replayNested (s : State) (ctx g : Nat) : State :=
  match s.group? g with
  | none => s
  | some gr =>
    let tok := gr.handler.tok
    let s := s.dropRecords ctx (fun p => p.who == gr.interrupted g)
    let others := ((s.ctx? ctx).map (fun (c : Context) => c.faults.any (fun p => p.who.ofPath g tok))).getD false
    s.modGroup g (fun gr =>
      { gr.modTok tok (fun sl => { sl with escalated := others }) with
        handler := { gr.handler with stopped := false, slot := { gr.handler.slot with status := .live } } })

/-- Cancel of the record of a parked operation (R344): it retires with an error, and its slot resumes. -/
def State.cancelEngine (s : State) (g tok op : Nat) : State :=
  let s := match FMap.find s.ops op with
    | some o => (match o.parked with
      | some p => s.endWithError op 5 (o.kind.errAddr p.addr) (bits p.detail 57 3).toNat
      | none => s)
    | none => s
  s.resumeTok g tok 0

/-- Where the agent of a record is: none where it has ended. -/
inductive Whereabouts where
  | live | saved | gone
  deriving DecidableEq, Repr

/-- Where a group of a context is. -/
def State.groupWhere (s : State) (ctx g : Nat) : Whereabouts :=
  match s.group? g, s.ctx? ctx with
  | some gr, some c =>
    if gr.ctx = ctx then .live else if c.image.any (fun im => (FMap.find im.groups g).isSome) then .saved else .gone
  | none, some c => if c.image.any (fun im => (FMap.find im.groups g).isSome) then .saved else .gone
  | _, none => .gone

/-- Where a sequencer thread of a context is. -/
def State.threadWhere (s : State) (ctx t : Nat) : Whereabouts :=
  match s.thread? t, s.ctx? ctx with
  | some th, some c =>
    if th.ctx = ctx then .live else if c.image.any (fun im => (FMap.find im.threads t).isSome) then .saved else .gone
  | none, some c => if c.image.any (fun im => (FMap.find im.threads t).isSome) then .saved else .gone
  | _, none => .gone

/-- Where the agent of a record is; records of launches have none and are always answerable. -/
def State.ownerWhere (s : State) (ctx : Nat) : RecordOwner → Whereabouts
  | .slot g _ | .nested g | .engine g _ _ => s.groupWhere ctx g
  | .thread t => s.threadWhere ctx t
  | .lostAgent (some g) _ => s.groupWhere ctx g
  | .lostAgent none (some t) => s.threadWhere ctx t
  | _ => .live

/-- The effect of the driver's command on a record whose agent is on its core (R281, R331, R344, R346, R387). -/
def State.answerLive (s : State) (ctx : Nat) (p : Posted) (cancel : Bool) : State :=
  let rest := s.modCtx ctx (fun c => { c with faults := c.faults.erase p })
  let w0 := p.record.w0
  match p.who, cancel with
  | .slot g tok, false => rest.replayPath ctx g tok none
  | .slot g _, true => rest.fatalGroup g w0
  | .nested g, false => rest.replayNested ctx g
  | .nested g, true => rest.fatalGroup g w0
  | .engine g tok op, false => rest.replayPath ctx g tok (some op)
  | .engine g tok op, true =>
    if s.stoppedOn g p.who then rest.fatalGroup g w0 else rest.cancelEngine g tok op
  | .thread t, false =>
    rest.modThread t (fun th => { th with record := {}, slot := { th.slot with status := th.slot.before, escalated := false } })
  | .thread t, true => rest.fatalTeam t w0
  | .refused, _ => rest
  | .homeReturn units phase queue, false => rest.homeReturn ctx queue phase units
  | .homeReturn _ _ _, true => rest
  | .lostAgent _ _, false => s
  | .lostAgent (some g) _, true => rest.fatalGroup g w0
  | .lostAgent none (some t), true => rest.fatalTeam t w0
  | .lostAgent none none, true => rest

/-- The other record of a pair that is answered as one (R331), of a saved group. -/
def State.partnerRecord (s : State) (ctx : Nat) (w : RecordOwner) : Option RecordOwner :=
  let gr? (g : Nat) : Option Group := (s.ctx? ctx).bind (fun c => c.image.findSome? (fun im => FMap.find im.groups g))
  match w with
  | .nested g => (gr? g).map (fun gr => gr.interrupted g)
  | .slot g _ | .engine g _ _ => (gr? g).bind (fun gr => if gr.handler.stopped && gr.interrupted g == w then some (.nested g) else none)
  | _ => none

/-- The driver's command on a record: one whose agent is saved takes effect at the restore (R336); it answers the other record of a pair too
(R331). -/
def State.answerRecord (s : State) (ctx : Nat) (p : Posted) (cancel : Bool) : State :=
  match s.ownerWhere ctx p.who with
  | .live => s.answerLive ctx p cancel
  | .gone => s.modCtx ctx (fun c => { c with faults := c.faults.erase p })
  | .saved =>
    let a : Answer := if cancel then .cancelled else .replayed
    let other := s.partnerRecord ctx p.who
    s.modCtx ctx (fun c => { c with faults := (c.faults.filter (fun q => some q.who != other)).map (fun q =>
      if q == p && q.answer == .posted then { q with answer := a } else q) })

/-- The records that a command names, answered while they are still queued (R346). -/
def execDriver (cancel : Bool) (ctx : Nat) (record : Option Nat) (s : State) : Out :=
  stepOut s (do
    let c ← getSome (s.ctx? ctx) "no such context"
    let ps ← (match record with
      | none => pure c.faults
      | some k => do let p ← getSome c.faults[k]? "no such record"; pure [p])
    pure (ps.foldl (fun s p => if ((s.ctx? ctx).map (fun (c : Context) => c.faults.contains p)).getD false then s.answerRecord ctx p cancel else s) s))

/-- DRIVER_REPLAY (R281, R346). -/
def execDriverReplay (ctx : Nat) (record : Option Nat) (s : State) : Out := execDriver false ctx record s

/-- DRIVER_CANCEL (R281, R346). -/
def execDriverCancel (ctx : Nat) (record : Option Nat) (s : State) : Out := execDriver true ctx record s

/-! Stalls that end (R107, R108, R333, R334) -/

/-- A stalled candidate takes VBOUND with a WHY, where its recheck still fails on a core that `on` accepts. -/
def State.stallTrap (s : State) (why : Nat) (on : Nat → Bool) (a : Agent) : State :=
  match (s.slot? a).bind (fun (sl : Slot) => if sl.status == .live then sl.stall else none) with
  | none => s
  | some st => match s.duskFails a.core (s.ctxOf a) st.delta with
    | some (c, d) => if on c then s.takeTrap a { cause := .vbound, detail := d ||| BitVec.ofNat 64 (why * 2 ^ 53) } else s
    | none => s

/-- Whether the part of an entry's Δ with its reservation on a core fails there (R105, R108). -/
def State.resvFails (s : State) (o : Op) (d : Delta) (core : Nat) : Bool :=
  let r := FMap.at 0 d.resv core
  r != 0 && ((s.duskFails o.core o.ctx (if core = o.core then { d with resv := [(core, r)] } else { resv := [(core, r)] })).isSome)

/-- The next entry of a kick, where it waits for its reservation on a core, is refused with status 3 (R108, R217). -/
def State.refuseWaiting (s : State) (core kick : Nat) : State :=
  match FMap.find s.ops kick with
  | none => s
  | some o =>
    match o.kind with
    | .kick _ count started =>
      if count ≤ started || o.parked.isSome || o.finished || 8 ≤ s.entriesOf kick then s
      else match s.nextEntry o with
        | .ok (s, off, x, t) =>
          if (x.refusal t).isNone && s.resvFails o (s.entryDelta o t x) core then s.refuseEntry kick o off x t 3 else s
        | .error _ => s
    | _ => s

/-- QUIESCENCE (R107, R108, R333): the core has no charged operation in flight and no group on it has issued for 256 cycles: the candidates
stalled on its check trap, and the entries that wait for it are refused. -/
def execQuiescence (core : Nat) (s : State) : Out :=
  stepOut s (do
    let c := s.core core
    need (c.phase == .running) "the core is halted"
    need (!s.chargedWork core && decide (c.lastIssue + 256 ≤ s.now)) "the core has not quiesced"
    let s := (s.candidates.map Prod.fst).foldl (fun s a => s.stallTrap 1 (· == core) a) s
    let kicks := (s.ops.filter (fun o => match o.2.kind with | .kick _ _ _ => true | _ => false)).map Prod.fst
    pure (kicks.foldl (fun s k => s.refuseWaiting core k) s))

/-- STALL_LIMIT (R333): a candidate has failed the check for 2^20 cycles in which its core had no charged operation in flight. -/
def execStallLimit (a : Agent) (s : State) : Out :=
  stepOut s (do
    let sl ← getSome (s.slot? a) "no such agent"
    let st ← getSome sl.stall "the agent is not stalled"
    need (s.canIssue a) "the agent is no candidate"
    need (!s.chargedWork a.core && decide (max st.since (s.core a.core).lastCharged + 2 ^ 20 ≤ s.now)) "the limit is not reached"
    need (s.duskFails a.core (s.ctxOf a) st.delta).isSome "the candidate passes"
    pure (s.stallTrap 2 (fun _ => true) a))

end Sys2Proof.Machine
end

