-- ==== Sys2Proof/Machine/Integer.lean ====
section
/-! DEFINITION. Integer and bit operations, opcodes 0x10 to 0x2B (R155 to R169), and the group and mask operations, opcodes 0x2C to
0x30 (R148 to R153). -/
namespace Sys2Proof.Machine

open Sys2Proof

/-- Whether a type is signed (R56). -/
def signedTy (ty : Nat) : Bool := ty == 2 || ty == 4 || ty == 10 || ty == 12

/-- A raw operand at a type, as an exact integer (R155). -/
def intOf (ty : Nat) (v : W64) : Int :=
  let n := tyBits ty
  let x := v.toNat % 2 ^ n
  if signedTy ty && decide (2 ^ (n - 1) ≤ x) then (x : Int) - 2 ^ n else x

/-- `Wrap` (R59): the low bits of an exact integer, extended to 64 bits as R155 says. -/
def wrapTy (ty : Nat) (v : Int) : W64 := extendTy ty (v % 2 ^ tyBits ty).toNat

/-- The least value of a type. -/
def minTy (ty : Nat) : Int := if signedTy ty then -(2 ^ (tyBits ty - 1)) else 0
/-- The largest value of a type. -/
def maxTy (ty : Nat) : Int := if signedTy ty then 2 ^ (tyBits ty - 1) - 1 else 2 ^ tyBits ty - 1

/-- `Sat` (R59): clamped to the type's bounds, extended to 64 bits. -/
def satTy (ty : Nat) (v : Int) : W64 := wrapTy ty (max (minTy ty) (min (maxTy ty) v))

/-- A raw operand at a type, as a natural number. -/
def natOf (ty : Nat) (v : W64) : Nat := v.toNat % 2 ^ tyBits ty

/-- Signed division as R161 fixes it. -/
def divTy (ty : Nat) (a b : Int) : Int := if b = 0 then -1 else if signedTy ty then a.tdiv b else a / b

/-- Remainder as R161 fixes it. -/
def remTy (a b : Int) : Int := if b = 0 then a else a.tmod b

/-- The lane operation of the binary integer opcodes of R159 to R163: SUB, type, exact operands. -/
def intBinary (op sub ty : Nat) (a b c : W64) : W64 :=
  let x := intOf ty a
  let y := intOf ty b
  let z := intOf ty c
  let fit (v : Int) : W64 := if sub = 1 then satTy ty v else wrapTy ty v
  match op with
  | 0x12 => fit (x + y)
  | 0x13 => fit (x - y)
  | 0x14 => wrapTy ty (x * y)
  | 0x15 => wrapTy ty ((x * y).fdiv (2 ^ tyBits ty))
  | 0x16 => if sub = 2 then wrapTy ty ((x * y).fdiv (2 ^ tyBits ty) + z) else fit (x * y + z)
  | 0x17 => wrapTy ty (divTy ty x y)
  | 0x18 => wrapTy ty (remTy x y)
  | 0x19 => wrapTy ty (min x y)
  | 0x1A => wrapTy ty (max x y)
  | 0x1B => if signedTy ty then fit y.natAbs else wrapTy ty y
  | 0x1C => if signedTy ty then fit (-y) else if sub = 1 then 0 else wrapTy ty (-y)
  | 0x1D => extendTy ty (natOf ty (a &&& b))
  | 0x1E => extendTy ty (natOf ty (a ||| b))
  | 0x1F => extendTy ty (natOf ty (a ^^^ b))
  | 0x20 => extendTy ty (natOf ty (a &&& ~~~b))
  | _ => extendTy ty (natOf ty (~~~b))

/-- Shifts and rotates (R164): the amount is read at 32 bits, unsigned. -/
def shiftOp (op sub ty : Nat) (a b : W64) : W64 :=
  let n := tyBits ty
  let x := natOf ty a
  let s := b.toNat % 2 ^ 32
  match op with
  | 0x22 => if n ≤ s then 0 else extendTy ty (x * 2 ^ s)
  | 0x23 => if n ≤ s then 0 else extendTy ty (x / 2 ^ s)
  | 0x24 =>
    let sx : Int := if 2 ^ (n - 1) ≤ x then (x : Int) - 2 ^ n else x
    wrapTy ty (sx / 2 ^ (min s n))
  | _ =>
    let k := if sub = 0 then s % n else (n - s % n) % n
    extendTy ty (x * 2 ^ k % 2 ^ n + x / 2 ^ (n - k))

/-- The field that a control operand names: position and clipped length; none where it is empty (R165). -/
def fieldOf (n : Nat) (ctl : W64) : Option (Nat × Nat) :=
  let p := ctl.toNat % 256
  let l := ctl.toNat / 256 % 256
  if l = 0 || n ≤ p then none else some (p, min l (n - p))

/-- `bfe` (R165). -/
def bfeOp (sub ty : Nat) (a b : W64) : W64 :=
  match fieldOf (tyBits ty) b with
  | none => 0
  | some (p, l) =>
    let v := natOf ty a / 2 ^ p % 2 ^ l
    if sub = 1 && decide (2 ^ (l - 1) ≤ v) then wrapTy ty ((v : Int) - 2 ^ l) else extendTy ty v

/-- `bfi` (R165). -/
def bfiOp (ty : Nat) (a b c : W64) : W64 :=
  let x := natOf ty a
  match fieldOf (tyBits ty) b with
  | none => extendTy ty x
  | some (p, l) => extendTy ty (x - x / 2 ^ p % 2 ^ l * 2 ^ p + c.toNat % 2 ^ l * 2 ^ p)

/-- The bits of a number below `n`, least significant first. -/
def bitsOf (n x : Nat) : List Bool := (List.range n).map (fun i => x.testBit i)

/-- `bit` (R166): popc, clz, ctz, brev. -/
def bitOp (sub ty : Nat) (b : W64) : W64 :=
  let n := tyBits ty
  let bs := bitsOf n (natOf ty b)
  match sub with
  | 0 => extendTy ty (bs.filter (fun t => t)).length
  | 1 => extendTy ty (bs.reverse.takeWhile (fun t => !t)).length
  | 2 => extendTy ty (bs.takeWhile (fun t => !t)).length
  | _ => extendTy ty (bs.foldl (fun v t => 2 * v + if t then 1 else 0) 0)

/-- `lea` (R168). B is read as a register in every form but that of a literal: an index is omitted as the literal 0 (DESIGN CHOICE, log 107). -/
def leaOp (i : Iss) (a b : W64) : W64 :=
  let idx := if i.f.ty = 4 then (b.setWidth 32).signExtend 64 else (b.setWidth 32).setWidth 64
  a + (idx <<< (bits i.f.xs 0 3).toNat) + i.f.imm.signExtend 64

/-- Whether a type is floating-point (R56). -/
def floatTy (ty : Nat) : Bool := 6 ≤ ty && ty ≤ 9

/-- `ToInt` (R59): rounded, then saturated; NaN gives 0. -/
def toIntTy (ty : Nat) (rm : RM) (v : FVal) : W64 :=
  match v with
  | .nan _ => 0
  | .inf s => satTy ty (if s then -(2 ^ 64) else 2 ^ 64)
  | .fin s m e => satTy ty (if 0 ≤ e then (if s then -(m : Int) else m) * 2 ^ (min e.toNat 2100) else roundInt rm s m e)

/-- `cvt` (R169): destination type TY, source type in C[4:0]. Between float formats a zero keeps its sign (R58; DEDUCED, log 23). -/
def cvtOp (i : Iss) (b : W64) : W64 :=
  let dt := i.f.ty.toNat
  let st := (bits i.f.c 0 5).toNat
  match floatTy st, floatTy dt with
  | false, false => if i.f.xs.getLsbD 0 then satTy dt (intOf st b) else wrapTy dt (intOf st b)
  | false, true => extendTy dt (flushIf (fmtOf dt) i.ftz (fpOfInt (fmtOf dt) i.rm (intOf st b)))
  | true, false => toIntTy dt i.rm (unpack (fmtOf st) (natOf st b))
  | true, true => extendTy dt (flushIf (fmtOf dt) i.ftz (packVal (fmtOf dt) i.rm (unpack (fmtOf st) (natOf st b))))

/-- A lane-by-lane instruction: each lane's result from its operands A, B and C. -/
def lanewise (g : Iss → W64 → W64 → W64 → W64) (i : Iss) (s : State) : Res State :=
  .ok (i.writeD s (i.eachLane (fun l => g i (i.va s l) (i.vb s l) (i.vc s l))))

/-- The lane operation of the opcodes 0x12 to 0x21 for an instruction. -/
def intLane (op : Nat) (i : Iss) (a b c : W64) : W64 := intBinary op i.f.sub.toNat i.f.ty.toNat a b c
/-- The lane operation of the opcodes 0x22 to 0x25 for an instruction. -/
def shiftLane (op : Nat) (i : Iss) (a b _ : W64) : W64 := shiftOp op i.f.sub.toNat i.f.ty.toNat a b
/-- `mov` (R158): the bits of B at the type, extended. -/
def movLane (i : Iss) (_ b _ : W64) : W64 := extendTy i.f.ty.toNat (natOf i.f.ty.toNat b)

def execMovShort (f : Short) (s : State) : Out := runShort {} 0x10 f (lanewise movLane) s
def execMovExt (f : Ext) (s : State) : Out := runExt {} 0x10 f (lanewise movLane) s

/-- `sel` (R158): bit L of the mask in group code, a non-zero x register in sequencer code. -/
def execSel (f : Ext) (s : State) : Out :=
  runExt {} 0x11 f (fun i s => .ok (i.writeD s (i.eachLane (fun l =>
    let c := if i.seq then i.vc s l != 0 else (i.vc s l).getLsbD l
    movLane i 0 (if c then i.va s l else i.vb s l) 0)))) s

def execAddShort (f : Short) (s : State) : Out := runShort {} 0x12 f (lanewise (intLane 0x12)) s
def execAddExt (f : Ext) (s : State) : Out := runExt {} 0x12 f (lanewise (intLane 0x12)) s
def execSubShort (f : Short) (s : State) : Out := runShort {} 0x13 f (lanewise (intLane 0x13)) s
def execSubExt (f : Ext) (s : State) : Out := runExt {} 0x13 f (lanewise (intLane 0x13)) s
def execMulShort (f : Short) (s : State) : Out := runShort {} 0x14 f (lanewise (intLane 0x14)) s
def execMulExt (f : Ext) (s : State) : Out := runExt {} 0x14 f (lanewise (intLane 0x14)) s
def execMulh (f : Ext) (s : State) : Out := runExt {} 0x15 f (lanewise (intLane 0x15)) s
def execMad (f : Ext) (s : State) : Out := runExt {} 0x16 f (lanewise (intLane 0x16)) s
def execDiv (f : Ext) (s : State) : Out := runExt {} 0x17 f (lanewise (intLane 0x17)) s
def execRem (f : Ext) (s : State) : Out := runExt {} 0x18 f (lanewise (intLane 0x18)) s
def execMinShort (f : Short) (s : State) : Out := runShort {} 0x19 f (lanewise (intLane 0x19)) s
def execMinExt (f : Ext) (s : State) : Out := runExt {} 0x19 f (lanewise (intLane 0x19)) s
def execMaxShort (f : Short) (s : State) : Out := runShort {} 0x1A f (lanewise (intLane 0x1A)) s
def execMaxExt (f : Ext) (s : State) : Out := runExt {} 0x1A f (lanewise (intLane 0x1A)) s
def execAbs (f : Ext) (s : State) : Out := runExt {} 0x1B f (lanewise (intLane 0x1B)) s
def execNeg (f : Ext) (s : State) : Out := runExt {} 0x1C f (lanewise (intLane 0x1C)) s
def execAndShort (f : Short) (s : State) : Out := runShort {} 0x1D f (lanewise (intLane 0x1D)) s
def execAndExt (f : Ext) (s : State) : Out := runExt {} 0x1D f (lanewise (intLane 0x1D)) s
def execOrShort (f : Short) (s : State) : Out := runShort {} 0x1E f (lanewise (intLane 0x1E)) s
def execOrExt (f : Ext) (s : State) : Out := runExt {} 0x1E f (lanewise (intLane 0x1E)) s
def execXorShort (f : Short) (s : State) : Out := runShort {} 0x1F f (lanewise (intLane 0x1F)) s
def execXorExt (f : Ext) (s : State) : Out := runExt {} 0x1F f (lanewise (intLane 0x1F)) s
def execAndn (f : Ext) (s : State) : Out := runExt {} 0x20 f (lanewise (intLane 0x20)) s
def execNot (f : Ext) (s : State) : Out := runExt {} 0x21 f (lanewise (intLane 0x21)) s
def execShlShort (f : Short) (s : State) : Out := runShort {} 0x22 f (lanewise (shiftLane 0x22)) s
def execShlExt (f : Ext) (s : State) : Out := runExt {} 0x22 f (lanewise (shiftLane 0x22)) s
def execShrShort (f : Short) (s : State) : Out := runShort {} 0x23 f (lanewise (shiftLane 0x23)) s
def execShrExt (f : Ext) (s : State) : Out := runExt {} 0x23 f (lanewise (shiftLane 0x23)) s
def execSarShort (f : Short) (s : State) : Out := runShort {} 0x24 f (lanewise (shiftLane 0x24)) s
def execSarExt (f : Ext) (s : State) : Out := runExt {} 0x24 f (lanewise (shiftLane 0x24)) s
def execRot (f : Ext) (s : State) : Out := runExt {} 0x25 f (lanewise (shiftLane 0x25)) s
def execBfe (f : Ext) (s : State) : Out :=
  runExt {} 0x26 f (lanewise (fun i a b _ => bfeOp i.f.sub.toNat i.f.ty.toNat a b)) s
def execBfi (f : Ext) (s : State) : Out := runExt {} 0x27 f (lanewise (fun i a b c => bfiOp i.f.ty.toNat a b c)) s
def execBit (f : Ext) (s : State) : Out :=
  runExt {} 0x28 f (lanewise (fun i _ b _ => bitOp i.f.sub.toNat i.f.ty.toNat b)) s

/-- The end of a comparison (R167, R177): a mask register in group code, 1 or 0 in an x register in sequencer code. -/
def writeTruth (g : Iss → W64 → W64 → Bool) (i : Iss) (s : State) : Res State :=
  let t (l : Nat) : Bool := g i (i.va s l) (i.vb s l)
  .ok (if i.seq then i.writeD s (i.eachLane (fun l => if t l then 1 else 0)) else i.writeMask s t)

/-- `cmp` (R167). -/
def execCmp (f : Ext) (s : State) : Out :=
  runExt {} 0x29 f (writeTruth (fun i a b => condOf i.f.sub.toNat (intOf i.f.ty.toNat a) (intOf i.f.ty.toNat b))) s

def execLea (f : Ext) (s : State) : Out := runExt {} 0x2A f (lanewise (fun i a b _ => leaOp i a b)) s

def execCvt (f : Ext) (s : State) : Out := runExt {} 0x2B f (lanewise (fun i _ b _ => cvtOp i b)) s

/-! Group operations (R148 to R152) -/

/-- Writes the lane results of a group operation to D (R148): a vector destination in its own lanes only, which with U = 1 is the
lowest lane of the effective mask. DEDUCED, notes/assumptions/80.md. -/
def Iss.writeOwn (i : Iss) (s : State) (vals : FMap W64) : State :=
  match i.d with
  | some r => i.writeTo s r vals (i.readyCycle s)
  | none => s

/-- Writes one group-wide value (R118, R148): a q destination takes it even with an empty effective mask, a vector destination in
the lanes in which the operation acts. -/
def Iss.writeGroup (i : Iss) (s : State) (v : W64) : State :=
  match i.d with
  | some (.q _) => i.writeOwn s [(0, v)]
  | _ => i.writeOwn s (i.eachLane (fun _ => v))

/-- The source lane of `shfl` (R149). -/
def shflSource (i : Iss) (s : State) (l : Nat) : Nat :=
  let w := i.width
  let n := (i.vb s l).toNat % 64
  match i.f.sub.toNat with
  | 0 => (i.vb s l).toNat % 2 ^ 32 % w
  | 1 => if n ≤ l then l - n else l
  | 2 => if l + n < w then l + n else l
  | 3 => l ^^^ (n % w)
  | _ => n % w

/-- `shfl` (R149). -/
def execShfl (f : Ext) (s : State) : Out :=
  runExt {} 0x2C f (fun i s =>
    let v (l : Nat) : W64 := extendTy i.f.ty.toNat (natOf i.f.ty.toNat (i.va s l))
    .ok (if i.f.sub = 4 then i.writeGroup s (v (shflSource i s 0))
         else i.writeOwn s (i.eachLane (fun l => v (shflSource i s l))))) s

/-- `vote` (R150). -/
def execVote (f : Ext) (s : State) : Out :=
  runExt {} 0x2D f (fun i s =>
    let ts := i.lanes.filter (fun l => natOf i.f.ty.toNat (i.vb s l) != 0)
    let v : W64 := match i.f.sub.toNat with
      | 0 => maskOf ts
      | 1 => if ts.isEmpty then 0 else 1
      | 2 => if ts.length = i.lanes.length then 1 else 0
      | _ => BitVec.ofNat 64 ts.length
    .ok (i.writeGroup s v)) s

/-- The reduction of lane values by a sub-op of `redg` (R151); an empty list gives the empty result. -/
def reduceTy (i : Iss) (vals : FMap W64) : W64 :=
  let ty := i.f.ty.toNat
  let ints := vals.map (fun v => intOf ty v.2)
  let nats := vals.map (fun v => natOf ty v.2)
  match i.f.sub.toNat with
  | 0 => wrapTy ty (ints.foldl (· + ·) 0)
  | 1 => wrapTy ty (ints.foldl min (maxTy ty))
  | 2 => wrapTy ty (ints.foldl max (minTy ty))
  | 3 => extendTy ty (nats.foldl (· &&& ·) (2 ^ tyBits ty - 1))
  | 4 => extendTy ty (nats.foldl (· ||| ·) 0)
  | 5 => extendTy ty (nats.foldl (· ^^^ ·) 0)
  | _ => extendTy ty (pairSum i.rm i.ftz i.width vals)

/-- `redg` (R151). -/
def execRedg (f : Ext) (s : State) : Out :=
  runExt {} 0x2E f (fun i s => .ok (i.writeGroup s (reduceTy i (i.eachLane (i.vb s))))) s

/-- `scan` (R152): the run of a lane is the active lanes up to it, itself left out in the exclusive form. -/
def execScan (f : Ext) (s : State) : Out :=
  runExt {} 0x2F f (fun i s =>
    let vals := i.eachLane (i.vb s)
    .ok (i.writeOwn s (i.eachLane (fun l =>
      reduceTy i (vals.filter (fun v => if i.f.xs.getLsbD 0 then v.1 < l else v.1 ≤ l)))))) s

/-- The new mask value of `mop`, before merging (R153). -/
def mopValue (sub : Nat) (a b : W64) : W64 :=
  match sub with
  | 0 => a &&& b | 1 => a ||| b | 2 => a ^^^ b | 3 => a &&& ~~~b | 4 => b | 5 => BitVec.allOnes 64 | 6 => 0 | 7 => b | _ => ~~~b

/-- `mop` (R153). -/
def execMop (f : Ext) (s : State) : Out :=
  runExt {} 0x30 f (fun i s =>
    if i.f.sub = 8 then .ok (i.writeGroup s (i.vb s 0))
    else match i.d, s.group? i.gi with
      | some (.mask n), some g =>
        .ok (i.putMask s (mergeMask (g.m n).val i.eff (mopValue i.f.sub.toNat (i.va s 0) (i.vb s 0))))
      | _, _ => .ok s) s

end Sys2Proof.Machine
end

