-- ==== Sys2Proof/Machine/Fp.lean ====
section
/-! DEFINITION. Floating-point opcodes 0x31 to 0x43 (R172 to R181), and residue and plane opcodes 0x44 to 0x49 (R62 to R65, R182 to
R188). -/
namespace Sys2Proof.Machine

open Sys2Proof

/-- The lane operation of a floating-point opcode that gives a value of its type (R174 to R179), with Flush (R172). -/
def fpLane (op : Nat) (i : Iss) (a b c : W64) : W64 :=
  let ty := i.f.ty.toNat
  let t := fmtOf ty
  let x := natOf ty a
  let y := natOf ty b
  let z := natOf ty c
  let v := match op with
    | 0x31 => fpAdd t i.rm x y
    | 0x32 => fpSub t i.rm x y
    | 0x33 => fpMul t i.rm x y
    | 0x34 => fpFma t i.rm x y z
    | 0x35 => fpMinMax t false x y
    | 0x36 => fpMinMax t true x y
    | 0x38 => fpDiv t i.rm x y
    | 0x39 => fpSqrt t i.rm y
    | 0x40 => fpRnd t (rmOf i.f.sub.toNat) y
    | 0x43 => fpScl t i.rm x (intOf 2 b)
    | n => fpApprox (n - 0x3A) y
  extendTy ty (flushIf t i.ftz v)

def execFaddShort (f : Short) (s : State) : Out := runShort {} 0x31 f (lanewise (fpLane 0x31)) s
def execFaddExt (f : Ext) (s : State) : Out := runExt {} 0x31 f (lanewise (fpLane 0x31)) s
def execFsubShort (f : Short) (s : State) : Out := runShort {} 0x32 f (lanewise (fpLane 0x32)) s
def execFsubExt (f : Ext) (s : State) : Out := runExt {} 0x32 f (lanewise (fpLane 0x32)) s
def execFmulShort (f : Short) (s : State) : Out := runShort {} 0x33 f (lanewise (fpLane 0x33)) s
def execFmulExt (f : Ext) (s : State) : Out := runExt {} 0x33 f (lanewise (fpLane 0x33)) s
def execFma (f : Ext) (s : State) : Out := runExt {} 0x34 f (lanewise (fpLane 0x34)) s
def execFminShort (f : Short) (s : State) : Out := runShort {} 0x35 f (lanewise (fpLane 0x35)) s
def execFminExt (f : Ext) (s : State) : Out := runExt {} 0x35 f (lanewise (fpLane 0x35)) s
def execFmaxShort (f : Short) (s : State) : Out := runShort {} 0x36 f (lanewise (fpLane 0x36)) s
def execFmaxExt (f : Ext) (s : State) : Out := runExt {} 0x36 f (lanewise (fpLane 0x36)) s

/-- `fcmp` (R177). -/
def execFcmp (f : Ext) (s : State) : Out :=
  runExt {} 0x37 f (writeTruth (fun i a b =>
    fpCmp (fmtOf i.f.ty.toNat) i.f.sub.toNat (natOf i.f.ty.toNat a) (natOf i.f.ty.toNat b))) s

def execFdiv (f : Ext) (s : State) : Out := runExt {} 0x38 f (lanewise (fpLane 0x38)) s
def execFsqrt (f : Ext) (s : State) : Out := runExt {} 0x39 f (lanewise (fpLane 0x39)) s
def execRcpa (f : Ext) (s : State) : Out := runExt {} 0x3A f (lanewise (fpLane 0x3A)) s
def execRsqa (f : Ext) (s : State) : Out := runExt {} 0x3B f (lanewise (fpLane 0x3B)) s
def execExp2a (f : Ext) (s : State) : Out := runExt {} 0x3C f (lanewise (fpLane 0x3C)) s
def execLog2a (f : Ext) (s : State) : Out := runExt {} 0x3D f (lanewise (fpLane 0x3D)) s
def execSina (f : Ext) (s : State) : Out := runExt {} 0x3E f (lanewise (fpLane 0x3E)) s
def execCosa (f : Ext) (s : State) : Out := runExt {} 0x3F f (lanewise (fpLane 0x3F)) s
def execFrnd (f : Ext) (s : State) : Out := runExt {} 0x40 f (lanewise (fpLane 0x40)) s

/-- `fcls` (R180): an n32 mask. -/
def execFcls (f : Ext) (s : State) : Out :=
  runExt {} 0x41 f (lanewise (fun i _ b _ =>
    BitVec.ofNat 64 (fpClass (fmtOf i.f.ty.toNat) (natOf i.f.ty.toNat b)))) s

/-- The source format of `dot2`: XS, or fmt.NSRC where XS is 0 (R181). -/
def dot2Fmt (i : Iss) : Nat := if i.f.xs = 0 then nsrcOf i.fmt else i.f.xs.toNat

/-- `dot2` (R181, R182). -/
def execDot2 (f : Ext) (s : State) : Out :=
  runExt { illegal := fun i _ => dot2Fmt i != 8 && dot2Fmt i != 9 } 0x42 f (lanewise (fun i a b c =>
    extendTy 6 (flushIf .f32 i.ftz (fpDot2 (fmtOf (dot2Fmt i)) i.rm (natOf 6 a) (natOf 6 b) (natOf 6 c))))) s

def execFscl (f : Ext) (s : State) : Out := runExt {} 0x43 f (lanewise (fpLane 0x43)) s

/-! Residue formats (R64, R65) -/

/-- Modulus of channel c, from 0, of a residue format. -/
def rnsMod (fmt c : Nat) : Nat :=
  if fmt = 14 then (match c with | 0 => 13 | 1 => 15 | _ => 16) else (match c with | 0 => 61 | 1 => 63 | _ => 64)

/-- Bits of a channel's field. -/
def rnsBits (fmt : Nat) : Nat := if fmt = 14 then 4 else 6

/-- M, the product of the moduli. -/
def rnsM (fmt : Nat) : Nat := if fmt = 14 then 3120 else 245952

/-- Reconstruction weight of channel c. -/
def rnsWeight (fmt c : Nat) : Nat :=
  if fmt = 14 then (match c with | 0 => 2640 | 1 => 1456 | _ => 2145)
  else (match c with | 0 => 205632 | 1 => 121024 | _ => 165249)

/-- A channel of a lane word, reduced (R64). -/
def rnsChannel (fmt c w : Nat) : Nat := w / 2 ^ (rnsBits fmt * c) % 2 ^ rnsBits fmt % rnsMod fmt c

/-- The lane word of channel values, each reduced (R64). -/
def rnsWord (fmt : Nat) (ch : Nat → Int) : Nat :=
  (List.range 3).foldl (fun n c => n + (ch c % (rnsMod fmt c : Nat)).toNat * 2 ^ (rnsBits fmt * c)) 0

/-- `RnsIn` as a lane word (R64). -/
def rnsIn (fmt : Nat) (x : Int) : Nat :=
  let h : Int := rnsM fmt / 2
  let y := max (-h) (min (h - 1) x)
  rnsWord fmt (fun _ => y)

/-- `RnsOut` (R64). -/
def rnsOut (fmt : Nat) (ch : Nat → Nat) : Int :=
  let x := (ch 0 * rnsWeight fmt 0 + ch 1 * rnsWeight fmt 1 + ch 2 * rnsWeight fmt 2) % rnsM fmt
  if rnsM fmt / 2 ≤ x then (x : Int) - rnsM fmt else x

/-- Whether a format is a residue format. -/
def isRns (fmt : Nat) : Bool := fmt == 14 || fmt == 15

/-- `rnc` (R183). -/
def execRnc (f : Ext) (s : State) : Out :=
  runExt { illegal := fun i _ => !isRns i.planeFmt } 0x44 f (lanewise (fun i _ b _ =>
    BitVec.ofNat 64 (rnsIn i.planeFmt (intOf 2 b)))) s

/-- `rnx` (R183). -/
def execRnx (f : Ext) (s : State) : Out :=
  runExt { illegal := fun i _ => !isRns i.planeFmt } 0x45 f (lanewise (fun i _ b _ =>
    wrapTy 2 (rnsOut i.planeFmt (fun c => rnsChannel i.planeFmt c (natOf 0 b))))) s

/-- `rnmad` (R184). -/
def execRnmad (f : Ext) (s : State) : Out :=
  runExt { illegal := fun i _ => !isRns i.planeFmt } 0x46 f (lanewise (fun i a b c =>
    let ch (k : Nat) (v : W64) : Int := rnsChannel i.planeFmt k (natOf 0 v)
    BitVec.ofNat 64 (rnsWord i.planeFmt (fun k => ch k a * ch k b + ch k c)))) s

/-! Plane formats (R62, R63, R185 to R188) -/

/-- `PlaneBit` (R185). -/
def planeBit (fmt w p : Nat) : Bool :=
  if isRns fmt then (rnsChannel fmt (p / rnsBits fmt) w).testBit (p % rnsBits fmt) else w.testBit p

/-- The integer that the top k planes of an element make (R63): `at p` is its bit in plane p. -/
def planeInt (fmt k : Nat) (bitAt : Nat → Bool) : Int :=
  let n := tyPlanes fmt
  let v := ((List.range n).filter (fun p => n - k ≤ p && bitAt p)).foldl (fun v p => v + 2 ^ p) 0
  if fmt ≠ 18 && 2 ^ (n - 1) ≤ v then (v : Int) - 2 ^ n else v

/-- The reduced channel that the planes of an element make (R64). -/
def planeChannel (fmt c : Nat) (bitAt : Nat → Bool) : Nat :=
  ((List.range (rnsBits fmt)).foldl (fun v p => v + if bitAt (rnsBits fmt * c + p) then 2 ^ p else 0) 0) % rnsMod fmt c

/-- The planes kept of P for an operand k (R63): 0 or P or more keeps all. -/
def planesKept (fmt k : Nat) : Nat := if k = 0 || tyPlanes fmt ≤ k then tyPlanes fmt else k

/-- OFF (R182). -/
def Iss.off (i : Iss) : Nat := i.f.imm.toNat % 64

/-- Whether TY, or fmt where TY is 0, names no plane format (R182, R190). -/
def noPlaneFmt (i : Iss) (_ : State) : Bool := tyPlanes i.planeFmt == 0

/-- `pln` (R186): it writes its window of qD even with an empty effective mask. -/
def execPln (f : Ext) (s : State) : Out :=
  runExt { illegal := noPlaneFmt } 0x47 f (fun i s =>
    let p := (i.vb s 0).toNat % 32
    let on := i.lanes.filter (fun l => p < tyPlanes i.planeFmt && planeBit i.planeFmt (natOf 0 (i.va s l)) p)
    let window : W64 := allLanes i.width <<< i.off
    let v := mergeMask (i.vd s 0) window (maskOf on <<< i.off)
    .ok (i.writeGroup s v)) s

/-- The q register k places after A. -/
def Iss.qAfter (i : Iss) (s : State) (k : Nat) : W64 :=
  match i.a with
  | some (.q n) => i.read s (some (.q (n + k))) 0
  | _ => 0

/-- One lane of `upl` (R187); a literal supplies its bits [31:0] (R127). -/
def uplLane (i : Iss) (s : State) (l : Nat) : W64 :=
  let fmt := i.planeFmt
  let e := i.off + l
  let bitAt (p : Nat) : Bool := (i.qAfter s p).getLsbD e
  if isRns fmt then BitVec.ofNat 64 (rnsWord fmt (fun c => planeChannel fmt c bitAt))
  else wrapTy (if fmt = 18 then 3 else 2) (planeInt fmt (planesKept fmt ((i.vb s l).toNat % (if i.f.lit.isSome then 2 ^ 32 else 2 ^ 64))) bitAt)

/-- `upl` (R187). -/
def execUpl (f : Ext) (s : State) : Out :=
  runExt { illegal := noPlaneFmt } 0x48 f
    (fun i s => .ok (i.writeD s (i.eachLane (uplLane i s)))) s

/-- Row B + p of a lane, for `pldot`. -/
def Iss.bPlane (i : Iss) (s : State) (l p : Nat) : W64 :=
  if p = 0 then i.vb s l else i.read s (i.bRun[p - 1]?) l

/-- One lane of `pldot` (R188). -/
def pldotLane (i : Iss) (s : State) (l : Nat) : W64 :=
  let fmt := i.planeFmt
  let kA := planesKept fmt (i.f.imm.toNat % 32)
  let kB := planesKept fmt (i.f.imm.toNat / 32 % 32)
  let h := if i.f.xs.getLsbD 0 then 32 else 0
  let aBit (j p : Nat) : Bool := (i.qAfter s p).getLsbD (h + j)
  let bBit (j p : Nat) : Bool := (i.bPlane s l p).getLsbD j
  let c := i.vc s l
  if isRns fmt then
    BitVec.ofNat 64 (rnsWord fmt (fun k => (List.range 32).foldl
      (fun (n : Int) j => n + (planeChannel fmt k (aBit j) * planeChannel fmt k (bBit j) : Nat)) (rnsChannel fmt k (natOf 0 c))))
  else
    wrapTy 2 ((List.range 32).foldl (fun n j => n + planeInt fmt kA (aBit j) * planeInt fmt kB (bBit j)) (intOf 2 c))

/-- `pldot` (R188). -/
def execPldot (f : Ext) (s : State) : Out :=
  runExt { illegal := noPlaneFmt } 0x49 f (fun i s => .ok (i.writeD s (i.eachLane (pldotLane i s)))) s

end Sys2Proof.Machine
end

