-- ==== Sys2Proof/Machine/Matrix.lean ====
section
/-! DEFINITION. The tile sequencer's matrix side: opcodes 0x68 to 0x70 (R222 to R233), the matrix queue and its stages (R254 to R260),
and the block-exact arithmetic (R65 to R67). -/
namespace Sys2Proof.Machine

open Sys2Proof

/-! Formats and maps -/

/-- A tile shape (R225): macros G, columns per macro, N, K, and the A planes P. -/
structure Shape where
  chain : Bool
  g : Nat
  nm : Nat
  acc : Bool
  af : Nat
  bf : Nat
  planes : Nat
  deriving DecidableEq, Repr

def Shape.n (h : Shape) : Nat := if h.chain then h.nm else h.g * h.nm
def Shape.k (h : Shape) : Nat := if h.chain then 64 * h.g else 64

/-- Whether a format is f16 or bf16. -/
def isHalf (fmt : Nat) : Bool := fmt == 8 || fmt == 9

/-- The shape that sfmt selects, if its combination is accepted (R44, R225). -/
def sfmtShape (v : W32) : Option Shape :=
  let gsz := (bits v 13 3).toNat
  let acc := v.getLsbD 12
  let af := (bits v 5 5).toNat
  let bf := (bits v 0 5).toNat
  let ok := bits v 17 15 == 0 && bits v 10 2 == 0 && decide (gsz ≤ 4) &&
    ((isHalf af && isHalf bf && !acc) || (isRns af && af == bf))
  if ok then some { chain := v.getLsbD 16, g := 2 ^ gsz, nm := if af = 14 then 96 else 64, acc, af, bf,
                    planes := if af = 14 then 4 else if af = 15 then 6 else 16 }
  else none

/-! Operand map fields (R223) -/
def omBase (om : W64) : Nat := (bits om 0 20).toNat
def omStride (om : W64) : Nat := (bits om 20 16).toNat
def omK (om : W64) : Nat := (bits om 36 11).toNat
def omFmt (om : W64) : Nat := (bits om 47 5).toNat
def omPlane (om : W64) : Bool := om.getLsbD 52

/-- Bytes of an element (R224). -/
def elemSize (fmt : Nat) : Nat := if isHalf fmt then 2 else 4

/-- Whether BASE and STRIDE are aligned (R224). -/
def omAligned (om : W64) : Bool :=
  let e := if omPlane om then 8 else elemSize (omFmt om)
  omBase om % e == 0 && omStride om % e == 0

/-- Bytes of `count` elements of a row or column from its first byte (R224). -/
def spanBytes (om : W64) (count : Nat) : Nat :=
  if omPlane om then (count + 63) / 64 * 8 * tyPlanes (omFmt om) else count * elemSize (omFmt om)

/-- A byte of team-relative CLM, if it is inside the block. -/
def State.clmByte (s : State) (t : Team) (a : Nat) : Option Byte :=
  (t.resolve t.core (BitVec.ofNat 64 a) 1).map (fun (co : Nat × Nat) => Mem.read s.clm (t.key co.1 co.2))

/-- The element `idx` of a row or column that begins at `row` (R224): zero where a byte of it lies outside the block. -/
def State.mapElem (s : State) (t : Team) (om : W64) (row idx : Nat) : Nat :=
  let at' (as : List Nat) : Option (List Byte) := as.mapM (s.clmByte t)
  if omPlane om then
    let p := tyPlanes (omFmt om)
    let blk := row + idx / 64 * 8 * p
    match at' ((List.range p).map (fun j => blk + 8 * j + idx % 64 / 8)) with
    | some bs => bs.zipIdx.foldl (fun n bj => n + if bj.1.getLsbD (idx % 8) then 2 ^ bj.2 else 0) 0
    | none => 0
  else
    let e := elemSize (omFmt om)
    match at' ((List.range e).map (fun j => row + idx * e + j)) with
    | some bs => leNat bs
    | none => 0

/-- Element (i, k) of an A operand (R224). -/
def State.elemA (s : State) (t : Team) (om : W64) (i k : Nat) : Nat :=
  if k < omK om then s.mapElem t om (omBase om + i * omStride om) k else 0

/-- Element (k, n) of a B operand (R224). -/
def State.elemB (s : State) (t : Team) (om : W64) (k n : Nat) : Nat :=
  if omK om ≤ k then 0
  else if omPlane om then s.mapElem t om (omBase om + n * omStride om) k
  else s.mapElem t om (omBase om + k * omStride om) n

/-- The ranges of a row operand, as first byte and length: `rows` rows of `count` elements. -/
def rowRanges (om : W64) (rows count : Nat) : List (Nat × Nat) :=
  (List.range rows).map (fun i => (omBase om + i * omStride om, spanBytes om count))

/-- The ranges that an A operand of M rows reads. -/
def rangesA (om : W64) (m : Nat) : List (Nat × Nat) := rowRanges om m (omK om)

/-- The ranges that a B panel reads (R224, R225). -/
def rangesB (h : Shape) (om : W64) : List (Nat × Nat) :=
  let k := min (omK om) h.k
  if omPlane om then rowRanges om h.n k else rowRanges om k h.n

/-- The ranges that `n` scales read. -/
def rangesS (om : W64) (n : Nat) : List (Nat × Nat) := [(omBase om, 4 * n)]

/-- The guard range: from the first byte of row 0 to the last byte of the last row (R231). -/
def guardOf (rs : List (Nat × Nat)) : Nat × Nat :=
  match rs.head?, rs.getLast? with
  | some a, some b => (a.1, b.1 + b.2)
  | _, _ => (0, 0)

/-- The lines of the team's block that ranges touch, those of the partner's share from 8192 on. -/
def lineSet (t : Team) (rs : List (Nat × Nat)) : List Nat :=
  let inside (a : Nat) : Bool := (t.resolve t.core (BitVec.ofNat 64 a) 1).isSome
  (rs.flatMap (fun r => (linesOf r.1 r.2).filter (fun l => inside (64 * l)))).eraseDups

/-! Block arithmetic (R65 to R67) -/

/-- The least exponent of a format (R59). -/
def emin (fmt : Nat) : Int := if fmt = 8 then -14 else -126

/-- `Exp` of a finite value that is not zero (R59). -/
def expOf (fmt m : Nat) (e : Int) : Int := max (emin fmt) ((Nat.log2 m : Int) + e)

/-- The exponent of a block (R66): the largest of its non-zero elements, or Emin. -/
def blockExp (fmt : Nat) (xs : List Nat) : Int :=
  xs.foldl (fun b x => match unpack (fmtOf fmt) x with
    | .fin _ m e => if m = 0 then b else max b (expOf fmt m e)
    | _ => b) (emin fmt)

/-- `Floor(x × 2^sh)` of a finite element (R66). -/
def scaled (fmt : Nat) (sh : Int) (x : Nat) : Int :=
  match unpack (fmtOf fmt) x with
  | .fin s m e =>
    let v : Int := if s then -(m : Int) else m
    if 0 ≤ e + sh then v * 2 ^ (e + sh).toNat else Int.fdiv v (2 ^ (-(e + sh)).toNat)
  | _ => 0

/-- `BlockDot` (R66) of 64 A elements and 64 B elements. -/
def blockDot (af bf : Nat) (a b : List Nat) : Nat :=
  let va := a.map (unpack (fmtOf af))
  let vb := b.map (unpack (fmtOf bf))
  let ps := (va.zip vb).map (fun p => mulVal p.1 p.2)
  let isInf (neg : Bool) : Bool := ps.any (fun p => p == some (.inf neg))
  if ps.any (fun p => p.isNone) then Fmt.f32.nan
  else if isInf false && isInf true then Fmt.f32.nan
  else if isInf false then Fmt.f32.inf
  else if isInf true then Fmt.f32.signed true Fmt.f32.inf
  else
    let ea := blockExp af a
    let eb := blockExp bf b
    let sum := (a.zip b).foldl (fun n p => n + scaled af (14 - ea) p.1 * scaled bf (15 - eb) p.2) (0 : Int)
    rne32 sum (ea + eb - 29)

/-- The residue block result (R65, R67): `RnsOut` of the channel sums. -/
def residueDot (fmt : Nat) (a b : List Nat) : Int :=
  rnsOut fmt (fun c => ((a.zip b).foldl (fun n p => n + rnsChannel fmt c p.1 * rnsChannel fmt c p.2) 0) % rnsMod fmt c)

/-- `Accumulate` of a residue block result (R67). -/
def residueAccum (acc : Bool) (bank : Nat) (x : Int) (sa sb : Nat) : Nat :=
  if acc then ((bank : Int) + x).emod (2 ^ 32) |>.toNat
  else rneAdd bank (rneMul (rne32 x 0) (rneMul sa sb))

/-- Whether a column predicate lets a column through (R226). -/
def cpOn (cp : BitVec 128) (n col : Nat) : Bool := cp.getLsbD (if n ≤ 128 then col else 128 * col / n)

/-! Thread registers (R222, R223, R226) -/

/-- The value of B. -/
def Iss.bVal (i : Iss) (s : State) : W64 := i.vb s 0

/-- The number in the D, A and B fields of a matrix instruction. -/
def Iss.dNum (i : Iss) : Nat := i.f.d.toNat

/-- `setom` is ILLEGAL at execution for these values (R223). -/
def setomIllegal (i : Iss) (s : State) : Bool :=
  let b := i.bVal s
  let k := (bits b 16 11).toNat
  bits b 27 37 != 0 || k == 0 || decide (1024 < k) || (i.f.xs.getLsbD 0 && !isRns i.f.ty.toNat)

/-- The map that `setom` writes (R223). -/
def setomValue (i : Iss) (s : State) : W64 :=
  let b := i.bVal s
  let base := i.va s 0 + i.f.imm.signExtend 64
  (0 : BitVec 11) ++ i.f.xs.extractLsb' 0 1 ++ i.f.ty ++ bits b 16 11 ++ bits b 0 16 ++ bits base 0 20

/-- `setom` (R223). -/
def execSetom (f : Ext) (s : State) : Out :=
  runExt { illegal := setomIllegal } 0x68 f (fun i s =>
    .ok (s.modThread i.gi (fun t => { t with oms := FMap.put t.oms i.dNum (setomValue i s) }))) s

/-- `setrp` (R226). -/
def execSetrp (f : Ext) (s : State) : Out :=
  runExt {} 0x6E f (fun i s => .ok (s.modThread i.gi (fun t => { t with rps := FMap.put t.rps i.dNum (i.bVal s) }))) s

/-- `setcp` and `setcp.hi` (R226). -/
def execSetcp (f : Ext) (s : State) : Out :=
  runExt {} 0x6F f (fun i s => .ok (s.modThread i.gi (fun t =>
    let old := FMap.at 0 t.cps i.dNum
    let new : BitVec 128 := if i.f.xs.getLsbD 0 then i.bVal s ++ bits old 0 64 else (0 : W64) ++ i.bVal s
    { t with cps := FMap.put t.cps i.dNum new }))) s

/-- `sfmt` (R225). -/
def execSfmt (f : Ext) (s : State) : Out :=
  runExt {} 0x70 f (fun i s => .ok (s.modThread i.gi (fun t => { t with sfmt := (i.bVal s).setWidth 32 }))) s

/-! The issue of a matrix operation (R229, R230, R254, R353) -/

/-- MFORM with its REASON (R353). -/
def mform (op reason : Nat) : Trap := { cause := .mform, detail := BitVec.ofNat 64 (256 * op + reason) }

/-- The first REASON that holds. -/
def firstReason (rs : List (Bool × Nat)) : Option Nat := (rs.find? (fun r => r.1)).map Prod.snd

/-- ALIGN of a misaligned map (R224). -/
def mapAlign (om : W64) : Option Trap :=
  if omAligned om then none
  else some { cause := .align, addr := BitVec.ofNat 64 (omBase om), detail := memDetail false .load 0 0 0 }

/-- The format that a macro's panel will have when the operations queued now have loaded (R229). -/
def State.panelFmt (s : State) (core mac : Nat) : Nat :=
  s.ops.foldl (fun f o => match o.2.kind with
    | .matrix m =>
      let h := sfmtShape m.sfmt
      if o.2.core = core && m.opcode = 0x69 && m.macro0 ≤ mac && mac < m.macro0 + (h.map Shape.g).getD 0 then (h.map Shape.bf).getD f else f
    | _ => f) (FMap.at {} s.macros (16 * core + mac)).fmt

/-- A matrix operation ready to issue: what it captures, its charge, the ranges it reads, the bytes it will write. -/
structure MatPlan where
  m : MatOp
  charge : Nat
  reads : List (Nat × Nat) := []
  writes : Option (Nat × Nat) := none
  deriving DecidableEq, Repr

/-- Plans `mldb` (R227, R229). -/
def planMldb (i : Iss) (s : State) (th : Thread) (t : Team) : Except Trap MatPlan :=
  let om := FMap.at 0 th.oms i.f.b.toNat
  match sfmtShape th.sfmt with
  | none => .error (mform 0x69 1)
  | some h =>
    match firstReason [(i.dNum % h.g != 0 || decide (t.nbanks < i.dNum + h.g), 3), (omFmt om != h.bf, 5)], mapAlign om with
    | some r, _ => .error (mform 0x69 r)
    | none, some tr => .error tr
    | none, none =>
      let rs := rangesB h om
      .ok { m := { opcode := 0x69, macro0 := t.bank0 + i.dNum, sfmt := th.sfmt, om, guarded := true,
                   guardLo := (guardOf rs).1, guardHi := (guardOf rs).2 },
            charge := chargeOf 3 h.g, reads := rs }

/-- Plans `mma` (R228, R229). -/
def planMma (i : Iss) (s : State) (th : Thread) (t : Team) : Except Trap MatPlan :=
  let om := FMap.at 0 th.oms i.f.b.toNat
  let rows := (bits i.f.imm 0 7).toNat
  let j := i.f.a.toNat
  match sfmtShape th.sfmt with
  | none => .error (mform 0x6A 1)
  | some h =>
    let nb := (rows * h.n + 4095) / 4096
    let bad := firstReason
      [ (rows % 4 != 0 || rows == 0 || decide (64 < rows), 2),
        (j % h.g != 0 || decide (t.nbanks < j + h.g), 3),
        (decide (t.nbanks < i.dNum + nb), 4),
        (omFmt om != h.af, 5),
        (decide (h.k < omK om), 6),
        ((List.range h.g).any (fun x => s.panelFmt i.core (t.bank0 + j + x) != h.bf), 7),
        (i.f.imm.getLsbD 12, 8) ]
    match bad, mapAlign om with
    | some r, _ => .error (mform 0x6A r)
    | none, some tr => .error tr
    | none, none =>
      let rs := rangesA om rows
      .ok { m := { opcode := 0x6A, bank := t.bank0 + i.dNum, nbanks := nb, macro0 := t.bank0 + j, rows, sfmt := th.sfmt, om,
                   rp := FMap.at 0 th.rps (bits i.f.imm 8 2).toNat, cp := FMap.at 0 th.cps (bits i.f.imm 10 2).toNat,
                   nopred := i.f.imm.getLsbD 13, guarded := true, guardLo := (guardOf rs).1, guardHi := (guardOf rs).2 },
            charge := chargeOf 2 (rows / 4 * h.planes + 24), reads := rs }

/-- Plans `mzero` (R222, R225, R230). -/
def planMzero (i : Iss) (_ : State) (th : Thread) (t : Team) : Except Trap MatPlan :=
  let n := (bits i.f.imm 0 4).toNat + 1
  match firstReason [((sfmtShape th.sfmt).isNone, 1), (decide (t.nbanks < i.dNum + n), 4)] with
  | some r => .error (mform 0x6B r)
  | none => .ok { m := { opcode := 0x6B, bank := t.bank0 + i.dNum, nbanks := n, sfmt := th.sfmt }, charge := chargeOf 2 (4 * n) }

/-- Plans `mdrain` (R230). -/
def planMdrain (i : Iss) (s : State) (th : Thread) (t : Team) : Except Trap MatPlan :=
  let rows := (bits i.f.c 0 7).toNat
  let ty := i.f.ty.toNat
  let e := if ty = 2 || ty = 6 then 4 else 2
  let dst := i.va s 0 + i.f.imm.signExtend 64
  let trap (c : Cause) (r : Nat) : Trap := { cause := c, addr := dst, detail := memDetail false .store 0 r 0 }
  match sfmtShape th.sfmt with
  | none => .error (mform 0x6C 1)
  | some h =>
    let nb := (rows * h.n + 4095) / 4096
    match firstReason [(rows == 0 || decide (64 < rows), 2), (decide (t.nbanks < i.dNum + nb), 4), ((ty == 2) != h.acc, 9)] with
    | some r => .error (mform 0x6C r)
    | none =>
      let n := rows * h.n * e
      if dst.toNat % e ≠ 0 then .error (trap .align 0)
      else match t.resolve t.core dst n with
        | none => .error (trap .prot 2)
        | some _ =>
          .ok { m := { opcode := 0x6C, bank := t.bank0 + i.dNum, nbanks := nb, rows, sfmt := th.sfmt, ty := tyOf ty, dst },
                charge := chargeOf 4 rows, writes := some (dst.toNat, n) }

/-- Plans `mscale` (R230). -/
def planMscale (i : Iss) (_ : State) (th : Thread) (t : Team) : Except Trap MatPlan :=
  let omR := FMap.at 0 th.oms i.f.a.toNat
  let omC := FMap.at 0 th.oms i.f.b.toNat
  match sfmtShape th.sfmt with
  | none => .error (mform 0x6D 1)
  | some h =>
    match firstReason [(i.dNum % h.g != 0 || decide (t.nbanks < i.dNum + h.g), 3), (omFmt omR != 6 || omFmt omC != 6, 5)],
          mapAlign omR, mapAlign omC with
    | some r, _, _ => .error (mform 0x6D r)
    | none, some tr, _ | none, none, some tr => .error tr
    | none, none, none =>
      .ok { m := { opcode := 0x6D, macro0 := t.bank0 + i.dNum, sfmt := th.sfmt, om := omR, om2 := omC, guarded := true,
                   guardLo := omBase omR, guardHi := omBase omR + 256, guard2Lo := omBase omC, guard2Hi := omBase omC + 4 * h.n },
            charge := chargeOf 2 (12 + (h.n + 15) / 16), reads := rangesS omR 64 ++ rangesS omC h.n }

/-- A planner with the thread and team of an instruction. -/
def planOf (p : Iss → State → Thread → Team → Except Trap MatPlan) (i : Iss) (s : State) : Option (Except Trap MatPlan) :=
  match s.thread? i.gi, s.team? i.team with
  | some th, some t => some (p i s th t)
  | _, _ => none

/-- The matrix operations of a thread that have issued and not started: its queue (R254). -/
def State.matQueue (s : State) (t : Nat) : List (Nat × MatOp) :=
  s.ops.filterMap (fun o => match o.2.kind, o.2.agent with
    | .matrix m, .thread t' => if t' = t && !m.started then some (o.1, m) else none
    | _, _ => none)

/-- Guard entries that an operation holds (R231). -/
def MatOp.entries (m : MatOp) : Nat := if !m.guarded || m.readDone then 0 else if m.opcode = 0x6D then 2 else 1

/-- Guard entries in use on a core. -/
def State.guardEntries (s : State) (core : Nat) : Nat :=
  s.ops.foldl (fun n o => match o.2.kind with | .matrix m => if o.2.core = core then n + m.entries else n | _ => n) 0

/-- New dirty lines of the writes of a plan, on the block's core (R105). -/
def MatPlan.delta (p : MatPlan) (i : Iss) (s : State) : Delta :=
  match p.writes, s.team? i.team with
  | some (a, n), some t =>
    match t.resolve t.core (BitVec.ofNat 64 a) n with
    | some (core, o) =>
      let k := (s.newDirty t core o n).length
      if core = i.core then { cls := .matrix, charge := p.charge, lines := k } else { cls := .matrix, charge := p.charge, resv := [(core, k)] }
    | none => { cls := .matrix, charge := p.charge }
  | _, _ => { cls := .matrix, charge := p.charge }

/-- The checks of a matrix operation at issue (R213, R231, R254): its own trap comes before a wait. -/
def matHooks (p : Iss → State → Thread → Team → Except Trap MatPlan) : Hooks :=
  { hold := fun i s => match planOf p i s, s.thread? i.gi with
      | some (.ok pl), some th =>
        th.matCount == 255 || decide (8 ≤ (s.matQueue i.gi).length) ||
        (pl.m.entries != 0 && decide (16 < s.guardEntries i.core + pl.m.entries))
      | _, _ => false
    delta := fun i s => match planOf p i s with | some (.ok pl) => pl.delta i s | _ => {} }

/-- The lines of the block that ranges touch, with the core that holds each. -/
def blockLines (t : Team) (rs : List (Nat × Nat)) : List (Nat × Nat) :=
  (lineSet t rs).map (fun l => if 8192 ≤ l then (partner t.core, l - 8192) else (t.core, l))

/-- What the lines that a matrix operation reads and writes meet before it issues: the cause that comes first, of a line without write enable
or of the fill of an untouched one (R71, R340, R345); then it waits for a share whose member has not started (R29), for a write-back
(R206) and for the fills; a lost line that is read takes DATAERR (R337). -/
def Iss.matLines (i : Iss) (s : State) (t : Team) (rs ws : List (Nat × Nat)) : Res State :=
  let acc (cl : Nat × Nat) : ClmAcc := { lane := 0, off := 0, core := cl.1, o := 64 * cl.2 }
  let stored := (blockLines t ws).map acc
  let all := (blockLines t rs).map acc ++ stored
  let lines := s.untouchedLines i.team t 64 all
  let (s, fills) := s.fillFails t lines
  let dst := BitVec.ofNat 64 ((ws.map Prod.fst).headD 0)
  let bad := (s.readOnlyLanes i.team t 64 stored).map (fun f => ((f.1, dst, f.2.2), AccKind.store))
  match kindTrap 0 (bad ++ fills.map (fun f => (f, AccKind.regionFill))) with
  | some tr => .error (.trapAt s { tr with lanes := none })
  | none =>
    if !lines.isEmpty then .error (.wait ((lines.map Prod.snd).foldl (fun s rl => s.askFill i.team rl.1 rl.2) s))
    else if all.any (fun a => !t.memberOn a.core || s.writingBack i.team a.core (a.o / 64)) then .error (.wait s)
    else match (blockLines t rs).findSome? (fun cl => s.lostLine t cl.1 (64 * cl.2) 64) with
      | some l => .error (.trapAt s { cause := .dataerr, addr := BitVec.ofNat 64 (64 * l) })
      | none => .ok s

/-- A bank that the operation reads and that a save has lost (R337), by its number in the team. -/
def State.lostMatBank (s : State) (core : Nat) (t : Team) (m : MatOp) : Option Nat :=
  if m.opcode = 0x6A || m.opcode = 0x6C then
    ((List.range m.nbanks).find? (fun b => s.lost.contains (1000000 + 16 * core + m.bank + b))).map (fun b => m.bank + b - t.bank0)
  else none

/-- The banks that `mma` and `mzero` mark empty (R222). -/
def MatOp.marks (m : MatOp) : List Nat := if m.opcode = 0x6A || m.opcode = 0x6B then (List.range m.nbanks).map (· + m.bank) else []

/-- A matrix operation issues: it enters its thread's queue (R222, R254). -/
def matBody (p : Iss → State → Thread → Team → Except Trap MatPlan) (i : Iss) (s : State) : Res State :=
  match planOf p i s, s.team? i.team with
  | some (.error tr), _ => .error (.trap tr)
  | some (.ok pl), some t => do
    let ws := pl.writes.toList
    let s ← i.matLines s t pl.reads ws
    match s.lostMatBank i.core t pl.m with
    | some b => .error (.trap { cause := .dataerr, addr := BitVec.ofNat 64 b })
    | none =>
      let s := if pl.m.opcode = 0x6B then
        { s with lost := (List.range pl.m.nbanks).foldl (fun l b => NSet.del l (1000000 + 16 * i.core + pl.m.bank + b)) s.lost } else s
      let s := { s with
        bankBusy := pl.m.marks.foldl (fun m b => FMap.put m (16 * i.core + b) (FMap.at 0 m (16 * i.core + b) + 1)) s.bankBusy
        dirty := (ws.flatMap (fun (w : Nat × Nat) => (match t.resolve t.core (BitVec.ofNat 64 w.1) w.2 with
          | some (core, o) => (linesOf o w.2).map (fun l => t.lineKey core (64 * l)) | none => []))).foldl NSet.add s.dirty }
      pure (s.issueOp { agent := i.agent, core := i.core, ctx := i.ctx, cls := .matrix, charge := pl.charge, counter := .matrix,
                        poff := poffOf i.entry i.pc, kind := .matrix pl.m }).2
  | _, _ => .error (.fault .noAgent)

/-- `mldb` (R227). -/
def execMldb (f : Ext) (s : State) : Out := runExt (matHooks planMldb) 0x69 f (matBody planMldb) s
/-- `mma` (R228). -/
def execMma (f : Ext) (s : State) : Out := runExt (matHooks planMma) 0x6A f (matBody planMma) s
/-- `mzero` (R230). -/
def execMzero (f : Ext) (s : State) : Out := runExt (matHooks planMzero) 0x6B f (matBody planMzero) s
/-- `mdrain` (R230). -/
def execMdrain (f : Ext) (s : State) : Out := runExt (matHooks planMdrain) 0x6C f (matBody planMdrain) s
/-- `mscale` (R230). -/
def execMscale (f : Ext) (s : State) : Out := runExt (matHooks planMscale) 0x6D f (matBody planMscale) s

/-! The stages (R254 to R257) -/

/-- The macros of an operation. -/
def MatOp.macs (m : MatOp) : List Nat :=
  if m.opcode = 0x69 || m.opcode = 0x6A || m.opcode = 0x6D then
    (List.range (((sfmtShape m.sfmt).map Shape.g).getD 0)).map (· + m.macro0) else []

/-- The banks that an operation reads or writes. -/
def MatOp.banksUsed (m : MatOp) : List Nat :=
  if m.opcode = 0x69 || m.opcode = 0x6D then [] else (List.range m.nbanks).map (· + m.bank)

/-- Whether two operations share a macro or a bank. -/
def MatOp.meets (m k : MatOp) : Bool := m.macs.any k.macs.contains || m.banksUsed.any k.banksUsed.contains

/-- The matrix operations of a thread in flight. -/
def State.matOps (s : State) (a : Agent) : List (Nat × Op × MatOp) :=
  s.ops.filterMap (fun o => match o.2.kind with | .matrix m => if o.2.agent = a then some (o.1, o.2, m) else none | _ => none)

/-- The planes of an `mma`'s A format (R225), 0 where there is no shape. -/
def MatOp.planes (m : MatOp) : Nat := ((sfmtShape m.sfmt).map Shape.planes).getD 0

/-- The cycles for which an operation has its stage (R256, R257): the loading of `mldb` and `mscale`, the broadcast of `mma`, the combining
of `mzero` and `mdrain`. -/
def MatOp.cycles (m : MatOp) : Nat :=
  match m.opcode with
  | 0x69 => 32 + 16 * ((sfmtShape m.sfmt).map Shape.g).getD 0
  | 0x6A => m.rows / 4 * m.planes
  | 0x6B => 4 * m.nbanks
  | 0x6C => 8 + 4 * m.rows
  | _ => 12 + (((sfmtShape m.sfmt).map Shape.n).getD 0 + 15) / 16

/-- Whether an `mma` has broadcast its last plane (R256, R257). -/
def MatOp.cast (m : MatOp) (now : Nat) : Bool := m.castAt.any (fun c => decide (c + m.cycles ≤ now))

/-- Whether an operation may start (R222, R257). `mma` starts once the panels and scales it uses have been read, `mldb` once every earlier
`mma` on its macros has broadcast its last plane, and any other once every earlier operation on its macros or banks has finished with them. -/
def State.matReady (s : State) (id : Nat) (o : Op) (m : MatOp) : Bool :=
  (s.matOps o.agent).all (fun x =>
    let k := x.2.2
    decide (id ≤ x.1) || x.2.1.finished ||
    (match m.opcode with
      | 0x6A => k.opcode == 0x6A || k.opcode == 0x6B || k.opcode == 0x6C || k.readDone || !(k.opcode == 0x6D || m.meets k)
      | 0x69 => !m.meets k || (if k.opcode = 0x6A then k.cast s.now else k.readDone)
      | _ => !m.meets k))

/-- The row scales of a thread, with the free values of those that no `mscale` has loaded (log 13). -/
def Thread.scalesFor (th : Thread) : FMap W32 :=
  (List.range 64).map (fun j => (j, (FMap.find th.rowScales j).getD (Config.scaleStart th.team j)))

/-- Whether an operation is held up in its thread's order behind another that has to finish with its banks first. -/
def State.behindBanks (s : State) (op k : Nat) (a : Agent) (m : MatOp) : Bool :=
  (s.matOps a).any (fun x => decide (op < x.1) && decide (x.1 < k) && m.banksUsed.any x.2.2.banksUsed.contains)

/-- Whether `mdrain` has to wait for a write-back of a line (R206), or for a guard range that another operation holds (R231). One that comes
later, behind an operation that itself waits for the banks of the `mdrain`, does not hold it up (DEDUCED, log 98), nor does a write-back that
stays parked while the core drains (log 98). -/
def State.drainHeld (s : State) (op tid : Nat) (t : Team) (h : Option Shape) (m : MatOp) : Bool :=
  match m.opcode, h with
  | 0x6C, some h =>
    let n := m.rows * h.n * (match m.ty with | .f16 | .bf16 => 2 | _ => 4)
    match t.resolve t.core m.dst n with
    | some (c, o) =>
      s.guardHeld tid c o n (fun k => decide (k < op) || !((FMap.find s.ops op).any (fun x => s.behindBanks op k x.agent m))) ||
      (linesOf o n).any (fun l => s.writingBack tid c l (fun w => s.serves w.core || w.parked.isNone))
    | none => false
  | _, _ => false

/-- The operations of a core that have started and not ended, with their numbers. -/
def State.matRunning (s : State) (core : Nat) : List (Nat × Op × MatOp) :=
  s.ops.filterMap (fun o => match o.2.kind with
    | .matrix m => if o.2.core == core && m.started && !o.2.finished then some (o.1, o.2, m) else none
    | _ => none)

/-- Whether an `mdrain` in flight is held up. -/
def State.heldUp (s : State) (x : Nat × Op × MatOp) : Bool :=
  match x.2.1.agent with
  | .thread n => (s.thread? n).any (fun th => (s.team? th.team).any (fun t => s.drainHeld x.1 th.team t (sfmtShape x.2.2.sfmt) x.2.2))
  | .group _ _ => false

/-- Whether an operation has the combining stage (R254): an `mma` that has entered it, an `mzero`, or an `mdrain` that nothing holds up. -/
def State.combining (s : State) (x : Nat × Op × MatOp) : Bool :=
  match x.2.2.opcode with
  | 0x6A => x.2.2.combAt.isSome
  | 0x6B => true
  | 0x6C => !s.heldUp x
  | _ => false

/-- One operation moves on to its next stage, if it can by now (R254, R256): an `mma` whose rows have been loaded enters the broadcast, and one
that has broadcast its last plane the combining stage, each in the first cycle in which the stage is free. Results go to a bank in issue
order (R222). -/
def State.matMove (s : State) (core : Nat) (x : Nat × Op × MatOp) : State :=
  let m := x.2.2
  let put (s : State) (m : MatOp) : State := s.modOp x.1 (fun o => { o with kind := .matrix m })
  if m.opcode ≠ 0x6A then s
  else match m.castAt, m.combAt with
    | none, _ =>
      let t := max (m.startAt + 8) (s.core core).castFree
      if s.now < t || (s.matRunning core).any (fun y => y.2.2.opcode == 0x6A && y.2.2.castAt.isSome && y.2.2.combAt.isNone) then s
      else put s { m with castAt := some t }
    | some c, none =>
      let t := max (c + m.cycles) (s.core core).combFree
      let first := (s.matOps x.2.1.agent).all (fun y => decide (x.1 ≤ y.1) || y.2.1.finished || !m.banksUsed.any y.2.2.banksUsed.contains)
      if s.now < t || (s.matRunning core).any s.combining || !first then s
      else (put s { m with combAt := some t }).modCore core (fun c => { c with castFree := t })
    | some _, some _ => s

/-- The stages of a core's matrix unit as they stand now (R254): the operations move on, the oldest first. -/
def State.matStages (s : State) (core : Nat) : State :=
  let moves (s : State) (_ : Nat) : State :=
    (s.matRunning core).foldl (fun (s : State) x => match FMap.find s.ops x.1 with
      | some o => (match o.kind with | .matrix m => s.matMove core (x.1, o, m) | _ => s)
      | none => s) s
  (List.range 3).foldl moves s

/-- Whether the loading stage of a core's matrix unit is free (R254, R256): `mldb` and `mscale` have it until their reads are done, `mma` until
its broadcast begins. -/
def State.loadingFree (s : State) (core : Nat) : Bool :=
  !(s.matRunning core).any (fun x => x.2.2.guarded && (if x.2.2.opcode = 0x6A then x.2.2.castAt.isNone else
    !x.2.2.readDone || decide (s.now < x.2.2.startAt + x.2.2.cycles)))

/-- Whether the combining stage of a core's matrix unit is free (R254). -/
def State.combiningFree (s : State) (core : Nat) : Bool :=
  decide ((s.core core).combFree ≤ s.now) && !(s.matRunning core).any s.combining

/-- The operation at the head of a thread's queue, if it can start now (R254, R257): from the cycle after its issue on, where its first stage
is free. -/
def State.headReady (s : State) (core t : Nat) : Option (Nat × Nat × MatOp) :=
  match s.matQueue t with
  | (id, m) :: _ => match FMap.find s.ops id with
    | some o =>
      let free := if m.guarded then s.loadingFree core else s.combiningFree core
      if decide (o.issuedAt < s.now) && s.matReady id o m && free then some (t, id, m) else none
    | none => none
  | [] => none

/-- MATRIX_OP_START (R254): the head of the next thread's queue, in round-robin order, starts. A stopped clock stops the unit (R3, R319). -/
def execMatrixOpStart (core : Nat) (s : State) : Out :=
  if s.clockStopped core then .next s
  else
    let s' := s.matStages core
    match (List.range 4).findSome? (fun k => s'.headReady core (4 * core + ((s.core core).lastMat + 1 + k) % 4)) with
    | none => .next s'
    | some (t, id, m) =>
      let scales := match s.thread? t with | some th => if m.opcode = 0x6A then th.scalesFor else [] | none => []
      .next (({ s' with nextId := s'.nextId + 1 }.modCore core (fun c => { c with lastMat := t % 4 })).modOp id (fun o =>
        { o with kind := .matrix { m with started := true, startAt := s.now, order := s'.nextId, rowScales := scales } }))

/-- A panel as `mldb` reads it (R224, R225, R227): the elements of macro `j` of the group. -/
def State.panelOf (s : State) (t : Team) (h : Shape) (om : W64) (j : Nat) : FMap W32 :=
  (List.range h.nm).flatMap (fun c => (List.range 64).map (fun kk =>
    let n := if h.chain then c else j * h.nm + c
    let k := if h.chain then 64 * j + kk else kk
    (64 * c + kk, BitVec.ofNat 32 (if isHalf h.bf then s.elemB t om k n else
      rnsWord h.bf (fun ch => (rnsChannel h.bf ch (s.elemB t om k n) : Nat))))))

/-- Shadow lines that no macro needs any more are freed (R232). -/
def State.trimShadow (s : State) (tid : Nat) (t : Team) : State :=
  let needed := s.macros.flatMap (fun m => if m.1 / 16 = t.core && m.2.team = tid then m.2.lines ++ m.2.scaleLines else [])
  let keys := needed.map (fun l => if 8192 ≤ l then t.lineKey (partner t.core) (64 * (l - 8192)) else t.lineKey t.core (64 * l))
  let mine := fun (k : Nat) => t.cores.any (fun c => k / 6144 == c && t.baseOn c / 64 ≤ k % 6144 && k % 6144 < (t.baseOn c + t.clmSize) / 64)
  { s with shadow := s.shadow.filter (fun x => !mine x.1 || keys.contains x.1) }

/-- The effect of an operation's reads: a panel or scales are loaded, or the A rows go to the row buffers, and the panels
that they meet are taken, since an `mldb` may replace them before the results are combined (R227, R230, R256, R257). -/
def State.matRead (s : State) (core tid : Nat) (t : Team) (th : Nat) (h : Shape) (m : MatOp) : State × MatOp :=
  let m' := { m with readDone := true }
  match m.opcode with
  | 0x69 =>
    let lines := lineSet t (rangesB h m.om)
    let s := (List.range h.g).foldl (fun (s : State) j =>
      let key := 16 * core + m.macro0 + j
      let old := FMap.at {} s.macros key
      { s with macros := FMap.put s.macros key { old with fmt := h.bf, vals := s.panelOf t h m.om j, team := tid, lines } }) s
    (s.trimShadow tid t, m')
  | 0x6A =>
    (s, { m' with panels := (List.range h.g).map (fun j => (j, (FMap.at {} s.macros (16 * core + m.macro0 + j)).vals)), aData := (List.range m.rows).flatMap (fun i => (List.range (omK m.om)).map (fun k =>
      (1024 * i + k, BitVec.ofNat 32 (s.elemA t m.om i k)))) })
  | _ =>
    let sc (om : W64) (j : Nat) : W32 := BitVec.ofNat 32 (s.mapElem t om (omBase om) j)
    let lines := lineSet t (rangesS m.om 64 ++ rangesS m.om2 h.n)
    let rows := (List.range 64).map (fun j => (j, sc m.om j))
    let cols := (List.range h.n).map (fun j => (j, sc m.om2 j))
    let s := s.modThread th (fun x => { x with rowScales := rows })
    let s := (List.range h.g).foldl (fun (s : State) j =>
      let key := 16 * core + m.macro0 + j
      let old := FMap.at {} s.macros key
      let mine : FMap W32 := (List.range h.nm).map (fun c => (c, FMap.at 0 cols (if h.chain then c else j * h.nm + c)))
      { s with macros := FMap.put s.macros key { old with scales := mine, team := tid, scaleLines := lines } }) s
    (s.trimShadow tid t, m')

/-- The operation with a number, as it stands. -/
def State.matOf (s : State) (op : Nat) : Res MatOp :=
  match (FMap.find s.ops op).map (fun (o : Op) => o.kind) with
  | some (.matrix m) => .ok m
  | _ => .error (.idle "not a matrix operation")

/-- The cycle in which an operation's reads are done (R231, R256, R257): the last of its loading, or for an `mma` the one in which its last four
rows are in the row buffers; none while that is not yet fixed. -/
def MatOp.readAt (m : MatOp) : Option Nat :=
  if m.opcode ≠ 0x6A then some (m.startAt + m.cycles - 1)
  else if m.rows ≤ 4 then some (m.startAt + 7)
  else m.castAt.map (fun c => c - 1 + (m.rows / 4 - 1) * m.planes)

/-- GUARD_RELEASE (R231, R256): the reads of an operation are done and its guard range is released. -/
def execGuardRelease (op : Nat) (s : State) : Out :=
  stepOut s (do
    let o ← getSome (FMap.find s.ops op) "no such operation"
    match o.kind, o.agent with
    | .matrix m, .thread n => do
      need (m.started && m.guarded && !m.readDone) "the operation has no reads to finish"
      need (!s.clockStopped o.core) "the clock is stopped"
      let s := s.matStages o.core
      let m ← s.matOf op
      need (m.readAt.any (fun c => decide (c ≤ s.now))) "the reads are not done"
      let th ← getSome (s.thread? n) "no such thread"
      let t ← getSome (s.team? th.team) "no such team"
      let h ← getSome (sfmtShape m.sfmt) "no shape"
      let (s, m) := s.matRead o.core th.team t n h m
      pure (s.modOp op (fun o => { o with kind := .matrix m }))
    | _, _ => .error (.idle "not a matrix operation"))

/-- One element of an `mma` (R228): the blocks of the macros that hold its column, in ascending order. -/
def State.mmaElem (s : State) (core tid : Nat) (h : Shape) (m : MatOp) (i n : Nat) (start : W32) : W32 :=
  let js := if h.chain then List.range h.g else [n / h.nm]
  let on := m.nopred || m.rp.getLsbD i
  js.foldl (fun v j =>
    let mac := FMap.at {} s.macros (16 * core + m.macro0 + j)
    let c := if h.chain then n else n % h.nm
    let a := (List.range 64).map (fun kk => if on then (FMap.at 0 m.aData (1024 * i + (if h.chain then 64 * j + kk else kk))).toNat else 0)
    let b := (List.range 64).map (fun kk => (FMap.at 0 (FMap.at [] m.panels j) (64 * c + kk)).toNat)
    BitVec.ofNat 32 (
      if isHalf h.af then rneAdd v.toNat (blockDot h.af h.bf a b)
      else
        let sb := (FMap.find mac.scales c).getD (Config.scaleStart tid (64 + 4096 * (m.macro0 + j) + c))
        residueAccum h.acc v.toNat (residueDot h.af a b) (FMap.at 0 m.rowScales i).toNat sb.toNat)) start

/-- The banks after an `mma` (R228). -/
def State.mmaBanks (s : State) (core tid : Nat) (h : Shape) (m : MatOp) : State :=
  (List.range m.rows).foldl (fun s i => (List.range h.n).foldl (fun (s : State) n =>
    if !m.nopred && !cpOn m.cp h.n n then s
    else
      let x := i * h.n + n
      let b := m.bank + x / 4096
      s.setBankElem core b (x / 64 % 64) (x % 64) (s.mmaElem core tid h m i n (s.bankElem core b (x / 64 % 64) (x % 64)))) s) s

/-- The bytes that an `mdrain` writes (R230). -/
def State.drainBytes (s : State) (core : Nat) (h : Shape) (m : MatOp) : List Byte :=
  (List.range (m.rows * h.n)).flatMap (fun x =>
    let v := (s.bankElem core (m.bank + x / 4096) (x / 64 % 64) (x % 64)).toNat
    match m.ty with
    | .f16 => leBytes 2 (packVal .f16 .rne (unpack .f32 v))
    | .bf16 => leBytes 2 (packVal .bf16 .rne (unpack .f32 v))
    | _ => leBytes 4 v)

/-- A store of an `mdrain` within one line of the block (R71, R230): an untouched line is filled first. A fill that fails and a missing write
enable are detected after issue: nothing is written, and the thread takes the cause later (R342; DEDUCED, log 115). -/
def State.drainLine (s : State) (a : Agent) (poff : W32) (tid core : Nat) (x : Nat × List Byte) : State :=
  match s.team? tid with
  | none => s
  | some t =>
    let va := BitVec.ofNat 64 (if core = t.core then x.1 else x.1 + 0x80000)
    let late (s : State) (c : Cause) (kind : AccKind) (why : Nat) (va : W64) : State :=
      s.modAgent a (fun ag => { ag with late := ag.late ++ [{ cause := c, addr := va, lanes := 0, detail := memDetail false kind 0 why poff, dsts := [] }] })
    let (s, fill) := match (if s.writingBack tid core (x.1 / 64) then none else t.untouched core (x.1 / 64)) with
      | some (r, l) => s.fillNow tid r l | none => (s, none)
    match fill, t.readOnlyAt core x.1 x.2.length with
    | some (c, why, at'), ro => if ro && decide (Cause.prot.rank < c.rank) then late s .prot .store 3 va else late s c .regionFill why at'
    | none, true => late s .prot .store 3 va
    | none, false => s.clmStoreLine tid core x.1 x.2

/-- What the operation writes at its completion. -/
def State.matWrite (s : State) (a : Agent) (poff : W32) (core tid : Nat) (t : Team) (h : Option Shape) (m : MatOp) : State :=
  match m.opcode, h with
  | 0x6A, some h => s.mmaBanks core tid h m
  | 0x6B, _ => (List.range m.nbanks).foldl (fun s b => (List.range 64).foldl (fun s i => (List.range 64).foldl (fun (s : State) n =>
      s.setBankElem core (m.bank + b) i n 0) s) s) s
  | 0x6C, some h =>
    let bs := s.drainBytes core h m
    match t.resolve t.core m.dst bs.length with
    | some (c, o) => (cutLines (bs.length + 1) o bs).foldl (fun s x => s.drainLine a poff tid c x) s
    | none => s
  | _, _ => s

/-- Whether an operation has come to the end of its last stage (R256, R257): for an `mdrain` that was held up, once no other operation has the
combining stage before it. -/
def State.matEnded (s : State) (core op : Nat) (m : MatOp) : Bool :=
  match m.opcode with
  | 0x6A => m.readDone && m.combAt.any (fun c => decide (c + 15 ≤ s.now))
  | 0x6B => decide (m.startAt + m.cycles ≤ s.now + 1)
  | 0x6C => decide (m.startAt + m.cycles ≤ s.now + 1) && decide ((s.core core).combFree ≤ s.now + 1) && (s.matRunning core).all (fun x =>
      x.1 == op || !s.combining x || (x.2.2.opcode != 0x6A && decide (m.order < x.2.2.order)))
  | _ => m.readDone

/-- MATRIX_OP_COMPLETE (R213, R222): the operation ends, its banks' marks go, its charge is credited, and it retires in order. -/
def execMatrixOpComplete (op : Nat) (s : State) : Out :=
  stepOut s (do
    let o ← getSome (FMap.find s.ops op) "no such operation"
    let core := o.core
    need (!s.clockStopped core) "the clock is stopped"
    let s := s.matStages core
    let m ← s.matOf op
    match o.agent with
    | .thread n => do
      need (m.started && !o.finished && s.matEnded core op m) "the operation is not at the end of its last stage"
      let th ← getSome (s.thread? n) "no such thread"
      let t ← getSome (s.team? th.team) "no such team"
      let h := sfmtShape m.sfmt
      need (!s.drainHeld op th.team t h m) "the operand guard or a write-back holds the destination"
      let s := s.matWrite o.agent o.poff core th.team t h m
      let s := if m.banksUsed.isEmpty then s else s.modCore core (fun c => { c with combFree := s.now + 1 })
      let s : State := { s with bankBusy := m.marks.foldl (fun b k =>
        let c := FMap.at 0 b (16 * core + k)
        if c ≤ 1 then FMap.del b (16 * core + k) else FMap.put b (16 * core + k) (c - 1)) s.bankBusy }
      pure (((s.modOp op (fun o => { o with charge := 0 })).finishOp op).endIfFatal o.agent)
    | .group _ _ => .error (.idle "not a matrix operation"))

end Sys2Proof.Machine
end

