-- ==== Sys2Proof/Machine/Vacate.lean ====
section
/-! DEFINITION. The vacate and the restore (R104, R111 to R113, R285, R301 to R303, R306, R317, R331, R336 to R339, R363, R372): halt,
drain, save, commit; ASSIGN and its waits; and trace records (R314). -/
namespace Sys2Proof.Machine

open Sys2Proof

/-! Commands -/

/-- A command begins: its number. -/
def State.command (s : State) (name ctx : Nat) : Nat × State :=
  (s.hub.commands.length, s.modHub (fun h => { h with commands := h.commands ++ [{ name, ctx }] }))

/-- A command's result (R338, R364). -/
def State.answer (s : State) (k : Nat) (status : BitVec 16) (info : Nat := 0) : State :=
  s.modHub (fun h => { h with commands := h.commands.mapIdx (fun j c => if j = k then { c with status := some status, info } else c) })

/-- A command that is answered at once. -/
def State.answered (s : State) (name ctx : Nat) (status : BitVec 16) (info : Nat := 0) : State :=
  s.modHub (fun h => { h with commands := h.commands ++ [{ name, ctx, status := some status, info }] })

/-! Trace records (R314) -/

/-- The bytes of a trace record. -/
def traceBytes (ty ctx core agent : Nat) (ord : BitVec 16) (time p0 p1 : W64) : List Byte :=
  let w0 := ty * 2 ^ 56 + ctx % 4096 * 2 ^ 44 + core % 256 * 2 ^ 36 + agent % 128 * 2 ^ 29 + ord.toNat
  leBytes 8 w0 ++ leBytes 8 time.toNat ++ leBytes 8 p0.toNat ++ leBytes 8 p1.toNat

/-- One unit takes a record: a full ring wraps and raises the overrun count (R314). -/
def State.traceTo (s : State) (n : Nat) (u : TraceUnit) (bytes : List Byte) : State :=
  let size := 2 ^ u.k
  let wraps : Bool := size ≤ u.head && u.head % size == 0
  { s with mem := Mem.writeBytes s.mem (u.base + 32 * (u.head % size)) bytes }.modHub (fun h =>
    { h with traces := FMap.put h.traces n { u with head := u.head + 1, overrun := if wraps then u.overrun + 1 else u.overrun } })

/-- A record goes to every enabled unit of the context whose mask has its type. -/
def State.trace (s : State) (ty ctx core agent : Nat) (ord : BitVec 16) (time p0 p1 : W64) : State :=
  s.hub.traces.foldl (fun s u =>
    if u.2.enabled && !u.2.frozen && u.2.ctx == ctx && u.2.mask.testBit ty then s.traceTo u.1 u.2 (traceBytes ty ctx core agent ord time p0 p1) else s) s

/-! Halt (R104, R111, R372) -/

/-- A slot at the halt: what had not issued is abandoned; a slot that yielded to a copy still waits for it. -/
def Slot.atHalt (sl : Slot) : Slot :=
  { sl with stall := none, park := match sl.park with | .cpyY o q t => .cpyY o q t | .hold o w => .hold o w | _ => .none }

/-- A core receives the halt broadcast: E and its class sums are recorded, and every agent stands at a boundary (R111, R112, R289). -/
def State.haltCore (s : State) (core : Nat) : State :=
  let e := s.estimate core
  let m := s.classSum core .memory
  let x := s.classSum core .matrix
  let f := s.classSum core .fabric
  let s := s.modCore core (fun c => { c with phase := .draining, haltE := e, haltMem := m, haltMat := x, haltFab := f, haltAt := s.ticks })
  let s : State := { s with
    groups := s.groups.map (fun (g : Nat × Group) => if g.1 / 64 = core then (g.1, g.2.mapSlots Slot.atHalt) else g)
    threads := s.threads.map (fun (t : Nat × Thread) => if t.1 / 4 = core then (t.1, { t.2 with slot := t.2.slot.atHalt }) else t) }
  s.ops.foldl (fun (s : State) (o : Nat × Op) =>
    if o.2.core ≠ core then s
    else match o.2.kind with
      | .search _ dst old (some _) => s.takeBack o.1 o.2 dst old
      | .spawn _ _ dst old => s.takeBack o.1 o.2 dst old
      | _ => s) s

/-- A vacate of pairs of a context begins, or joins those that are under way on them (R303). -/
def State.startVacate (s : State) (ctx : Nat) (pairs : List Nat) (commands : List Nat) (recalled : List (Nat × Nat)) (brk release : Bool) : State :=
  let under (p : Nat) : Bool := s.hub.vacates.any (fun v => v.pairs.contains p)
  let s := s.modHub (fun h => { h with vacates := h.vacates.map (fun v =>
    if v.pairs.any pairs.contains then
      { v with commands := v.commands ++ commands, recalled := v.recalled ++ recalled, brk := v.brk || brk, release := v.release || release }
    else v) })
  let fresh := pairs.filter (fun p => !under p)
  if fresh.isEmpty then s
  else
    let cores := fresh.flatMap (fun p => [2 * p, 2 * p + 1])
    let v : Vacate := { ctx, pairs := fresh, since := s.ticks, cores, commands, recalled, brk, release }
    (cores.foldl State.haltCore s).modHub (fun h => { h with vacates := h.vacates ++ [v] })

/-- VACATE (R111, R301, R303): all pairs that the context holds, or those listed; busy in another state, for a pair not held, and for all pairs
while a restore brings some back (DESIGN CHOICE, log 97). -/
def execVacate (ctx : Nat) (pairs : List Nat) (s : State) : Out :=
  match s.ctx? ctx with
  | none => .next (s.answered 3 ctx 1)
  | some c =>
    let ps := if pairs.isEmpty then c.pairs else pairs.eraseDups
    let restoring := s.hub.restores.any (fun r => r.ctx == ctx && r.held)
    if c.state != .resident || ps.isEmpty || (pairs.isEmpty && restoring) || !ps.all (fun p => c.pairs.contains p) then .next (s.answered 3 ctx 1)
    else
      let (k, s) := s.command 3 ctx
      .next (s.startVacate ctx ps [k] [] false false)

/-- RECALL (R113, R301, R306): the context that holds a pair is vacated from it, within DEADLINE where the pair is lent (R339); busy where
no resident context holds the pair. -/
def execRecall (pair : Nat) (s : State) : Out :=
  let w := FMap.at 0 s.hub.slices pair
  let ctx := sliceCtx w
  match s.ctx? ctx with
  | none => .next (s.answered 4 ctx 1)
  | some c =>
    if c.state != .resident || !c.pairs.contains pair then .next (s.answered 4 ctx 1)
    else
      let (k, s) := s.command 4 ctx
      .next (s.startVacate ctx [pair] [k] (if w.getLsbD 63 then [(k, pair)] else []) false false)

/-! Drain and save -/

/-- Whether an operation no longer holds up the drain of its core (R103, R111): parked, finished, ending with its error, waiting for its
charge, or a list whose further entries are not yet fetched. -/
def Op.drained (o : Op) : Bool := o.parked.isSome || o.finished || o.ending || o.resuming || (match o.kind with | .kick _ _ _ => true | _ => false)

/-- DRAIN_COMPLETE (R111): every operation of the core has completed or is parked, and its acknowledgements are in. -/
def execDrainComplete (core : Nat) (s : State) : Out :=
  stepOut s (do
    need ((s.core core).phase == .draining) "the core is not draining"
    need (s.ops.all (fun o => o.2.core != core || o.2.drained)) "operations are in flight"
    need (s.groups.all (fun g => g.1 / 64 != core || decide (g.2.agent.ack ≤ s.remoteStores (.group g.1 .pc0)))) "acknowledgements are outstanding"
    need (s.threads.all (fun t => t.1 / 4 != core || t.2.agent.ack == 0)) "acknowledgements are outstanding"
    pure (s.modCore core (fun c => { c with phase := .saving })))

/-- Whether a lost item is something that the core's save writes (R337). -/
def State.savedItem (s : State) (core : Nat) : LostItem → Bool
  | .row g n => g / 64 == core && (match s.group? g with | some gr => (gr.row n).backed || ((gr.row n).spilled && (gr.row n).inBuffer) | none => false)
  | .line off => s.dirty.contains (6144 * core + off / 64) && off < clmBytes
  | .bank b => s.teams.any (fun t => t.2.core == core && t.2.bank0 ≤ b && b < t.2.bank0 + t.2.nbanks)
  | .groupState g => g / 64 == core && (s.group? g).isSome
  | .threadState t => t / 4 == core && (s.thread? t).isSome
  | .pins g => g / 64 == core && (s.group? g).isSome

/-- The row, offset or number in the event of a lost item (R370). -/
def LostItem.code : LostItem → Nat
  | .row _ n => n | .line off => off | .bank b => b | .groupState g => g | .threadState t => t | .pins g => g

/-- The regions on a core are written back during its save (R72): a line that is written is no longer dirty, and one whose write fails stays
dirty in its region and is saved with its mask (R345); that the save area gets no other line of a region is a reading of R111 (DEDUCED, log 99). -/
def State.backRegions (s : State) (core : Nat) : State :=
  let todo := s.teams.flatMap (fun t => (t.2.regions.filter (fun r => r.2.core == core)).flatMap (fun r => r.2.dirtyLines.map (fun l => (t.1, r.1, l))))
  todo.foldl (fun (s : State) x =>
    match s.team? x.1 with
    | none => s
    | some t => match s.backLine { ctx := t.ctx, core, team := x.1 } t core x.2.2 with
      | (s, some _) => s
      | (s, none) =>
        { s with dirty := NSet.del s.dirty (t.lineKey core x.2.2.1) }.modTeam x.1 (fun t =>
          { t with regions := FMap.update t.regions x.2.1 (fun r => { r with state := FMap.del r.state ((x.2.2.1 - r.off) / 64) }) })) s

/-- SAVE_COMPLETE (R72, R111, R285, R337): the core's regions are written back, its state is in the save area, its pins are in the directory;
lost items are marked. -/
def execSaveComplete (core : Nat) (lost : List LostItem) (s : State) : Out :=
  stepOut s (do
    need ((s.core core).phase == .saving) "the core is not being saved"
    let v ← getSome (s.hub.vacates.find? (fun v => v.cores.contains core)) "no vacate covers the core"
    let s := s.backRegions core
    need (lost.all (s.savedItem core)) "the save writes no such item"
    let mine := s.groups.filter (fun g => g.1 / 64 == core)
    let s := mine.foldl (fun s g =>
      let names := FMap.vals g.2.pns
      let s := s.savePins core v.ctx names
      if lost.contains (.pins g.1) then
        s.modGroup g.1 (fun gr => { gr with pns := [], lostPins := gr.lostPins ++ names.filter (fun x => x != 0) })
      else s) s
    let s := lost.foldl (fun s i => s.lostEvent v.ctx core i.code) s
    let s := s.modCtx v.ctx (fun c => { c with image := c.image ++ [{ core, lost }] })
    pure (s.modCore core (fun c => { c with phase := .saved })))

/-! Commit -/

/-- Adds a list to a set. -/
def addAll (l : List Nat) (xs : List Nat) : List Nat := xs.foldl NSet.add l

/-- What a counter has counted up to a cycle (R313): the cycle event of all four quarters counts four a cycle; leaves are counted as time
passes. -/
def BankCounter.upTo (k : BankCounter) (now : Nat) : Nat :=
  match k.since, k.select with
  | some t, some e => if (bits e 0 8).toNat = 0x20 then k.count + (now - t) * (if e.getLsbD 10 then 4 else 1) else k.count
  | _, _ => k.count

/-- A counter stands still (R250). -/
def BankCounter.freeze (k : BankCounter) (now : Nat) : BankCounter := { k with count := k.upTo now, since := none }

/-- A configured counter that stands still counts on from now. -/
def BankCounter.thaw (k : BankCounter) (now : Nat) : BankCounter :=
  { k with since := k.since.orElse (fun _ => k.select.map (fun _ => now)) }

/-- The counters of the banks that a context holds on a core. -/
def State.modCounters (s : State) (core ctx : Nat) (f : BankCounter → BankCounter) : State :=
  if (s.core core).counters.isEmpty then s
  else s.modCore core (fun c => { c with counters := c.counters.map (fun b =>
    if b.2.holder == some ctx && !b.2.hyper then (b.1, { b.2 with ctrs := b.2.ctrs.map (fun k => (k.1, f k.2)) }) else b) })

/-- The virtual cycle count stands still (R146). -/
def AgentState.freeze (a : AgentState) (now : Nat) : AgentState := { a with held := a.held + (now - a.start), start := now }

/-- A region as it is saved: its clean lines will be filled again (R71). -/
def Region.saved (r : Region) : Region := { r with state := r.state.filter (fun l => l.2 != 0), asked := [] }

/-- Reservations without those on some cores, and those (R105, R113). -/
def Op.release (o : Op) (gone : Nat → Bool) : Op :=
  { o with resv := o.resv.filter (fun r => !gone r.1),
           owed := (o.resv.filter (fun r => gone r.1)).foldl (fun m r => FMap.put m r.1 (FMap.at 0 m r.1 + r.2)) o.owed }

/-- What the core's save wrote (R69, R101, R111), with the items that earlier saves lost: dirty lines, and those of which the save area kept
its copy. An operation keeps the reservations on cores that `with'` says are saved with it, and owes the others (R113). -/
def State.coreImage (s : State) (core : Nat) (lost : List LostItem) (with' : Nat → Bool) : CoreImage :=
  let old := s.lost.filterMap (fun k =>
    if k < 1000000 then (if k / 6144 = core then some (LostItem.line (k % 6144 * 64)) else none)
    else if (k - 1000000) / 16 = core then some (LostItem.bank ((k - 1000000) % 16)) else none)
  { core, estimate := (s.core core).haltE,
    groups := (s.groups.filter (fun g => g.1 / 64 == core)).map (fun (g : Nat × Group) => (g.1, { g.2 with agent := g.2.agent.freeze s.now })),
    threads := (s.threads.filter (fun t => t.1 / 4 == core)).map (fun (t : Nat × Thread) => (t.1, { t.2 with agent := t.2.agent.freeze s.now })),
    teams := (s.teams.filter (fun t => t.2.core == core)).map (fun (t : Nat × Team) =>
      (t.1, { t.2 with regions := t.2.regions.map (fun (r : Nat × Region) => (r.1, r.2.saved)) })),
    lines := ((addAll s.dirty s.copied).filter (fun k => k / 6144 == core)).map (fun k => (k % 6144, Mem.readBytes s.clm (64 * k) 64)),
    banks := s.banks.filter (fun x => x.1 / 65536 == core), macros := s.macros.filter (fun x => x.1 / 16 == core),
    shadow := s.shadow.filter (fun x => x.1 / 6144 == core), marks := s.marks.filter (fun x => x.1 / 6144 == core),
    ops := (s.ops.filter (fun o => o.2.core == core)).map (fun (o : Nat × Op) => (o.1, o.2.release (fun c => !with' c))), lost := lost ++ old }

/-- A core holds nothing any more (R111): the next context finds it empty. -/
def State.clearCore (s : State) (core : Nat) : State :=
  let s := (s.partials.filter (fun p => p.core == core)).foldl (fun (s : State) p => s.recall (p.addr / 64) (· == core)) s
  { s with
    groups := s.groups.filter (fun g => g.1 / 64 != core), threads := s.threads.filter (fun t => t.1 / 4 != core)
    teams := s.teams.filter (fun t => t.2.core != core), ops := s.ops.filter (fun o => o.2.core != core)
    clm := Mem.clear s.clm (clmBytes * core) clmBytes, dirty := s.dirty.filter (fun k => k / 6144 != core)
    copied := s.copied.filter (fun k => k / 6144 != core), marks := s.marks.filter (fun x => x.1 / 6144 != core)
    lost := s.lost.filter (fun k => if k < 1000000 then k / 6144 != core else (k - 1000000) / 16 != core)
    shadow := s.shadow.filter (fun x => x.1 / 6144 != core), banks := s.banks.filter (fun x => x.1 / 65536 != core)
    bankBusy := s.bankBusy.filter (fun x => x.1 / 16 != core), macros := s.macros.filter (fun x => x.1 / 16 != core)
    caches := s.caches.filter (fun l => l.core != core), compactions := s.compactions.filter (fun c => c.core != core) }

/-- Whether a frame is a context's own (R276). -/
def State.ownsFrame (s : State) (ctx f : Nat) : Bool :=
  let e := s.frameWord f
  decide (0x8000 ≤ e) && e / 0x4000 % 2 == 0 && e % 0x1000 == ctx

/-- The flush of a commit (R100, R111, R113): a context that holds no pair any more has its lines written back and out of the L2 (R348); in
partitioned mode one that has given up some pairs has those in the slices of its list on their dies (DESIGN CHOICE, log 103). -/
def State.flushContext (s : State) (ctx : Nat) (gone : List Nat) (whole : Bool) : State :=
  let own (line : Nat) : Bool := s.ownsFrame ctx (line / 1024)
  if whole then s.l2Flush (fun line _ => own line)
  else if s.hub.l2mode == .partitioned then s.l2Flush (fun line slice => own line && gone.any (fun p => p / 40 == slice / 64))
  else s

/-- The largest E recorded at the halt, and the lowest core that held it (R112). -/
def State.largestE (s : State) (cores : List Nat) : Nat × Nat :=
  cores.foldl (fun (best : Nat × Nat) c =>
    let e := (s.core c).haltE
    if best.1 < e || (e == best.1 && c < best.2) then (e, c) else best) (0, cores.headD 0)

/-- Writes CTX of a slice word (R304). -/
def State.holdPair (s : State) (pair ctx : Nat) : State :=
  s.modHub (fun h => { h with slices := FMap.put h.slices pair ((FMap.at 0 h.slices pair &&& ~~~(0xFFF#64 <<< 40)) ||| (BitVec.ofNat 64 (ctx % 4096) <<< 40)) })

/-- A command of a finished vacate is answered, unless another vacate still has to (R303, R339). The command keeps meanwhile that a vacate
was an overrun; a RELEASE keeps it until its zeroing ends. -/
def State.answerVacate (s : State) (above : Bool) (k : Nat) : State :=
  let before := ((s.hub.commands[k]?).map (fun (c : Command) => c.info)).getD 0
  let info := if above || before == 1 then 1 else 0
  if s.hub.vacates.any (fun v => v.commands.contains k) || ((s.hub.commands[k]?).any (fun (c : Command) => c.name == 5)) then
    s.modHub (fun h => { h with commands := h.commands.mapIdx (fun j c => if j = k then { c with info } else c) })
  else s.answer k (if info = 1 then 0x8000 else 0) info

/-! Assign and restore -/

/-- Whether a pair is held, or is being given up (R302, R338). -/
def State.pairHeld (s : State) (p : Nat) : Bool := sliceCtx (FMap.at 0 s.hub.slices p) != 0

/-- A context takes free pairs (R301 to R303): saved ones are restored, new ones run at once. -/
def State.takePairs (s : State) (r : Restore) : State :=
  match s.ctx? r.ctx with
  | none => s
  | some c =>
    let s := r.pairs.foldl (fun s p => s.holdPair p r.ctx) s
    if c.savedPairs.isEmpty then
      let s := s.modCtx r.ctx (fun c => { c with state := .resident, pairs := addAll c.pairs r.pairs })
      match r.command with | some k => s.answer k 0 | none => s
    else
      let s := (r.pairs.flatMap (fun p => [2 * p, 2 * p + 1])).foldl (fun s c => s.modCore c (fun k => { k with phase := .restoring })) s
      s.modHub (fun h => { h with restores := h.restores ++ [{ r with held := true }] })

/-- Whether a context's BOUND is in its range (R99). -/
def Context.boundOk (c : Context) : Bool := 32000 ≤ c.bound && c.bound ≤ 32000000

/-- Whether the directory words and TROOT are in range and aligned (R271, R284, R364). -/
def Context.wordsOk (c : Context) : Bool :=
  let k := (bits c.dirlog2 0 5).toNat
  10 ≤ k && k ≤ 20 && c.dirbase.toNat % (16 * 2 ^ k) == 0 && c.skewed == (false, false)

/-- A group as it comes back (R303, R337): a lost row is spilled and lost. -/
def CoreImage.groupBack (im : CoreImage) (now place : Nat) (g : Group) : Group :=
  let g := im.lost.foldl (fun (g : Group) i => match i with
    | .row p n => if p = place then g.setRow n { g.row n with backed := false, spilled := true, inBuffer := false, lost := true } else g
    | _ => g) g
  { g with agent := { g.agent with start := now } }

/-- The region lines that a restore brings back dirty (R345): those whose write-back failed at the save, and those that a `cflush` which has
not ended has still to write. -/
def regionKeys (teams : FMap Team) (ops : FMap Op) : List Nat :=
  (teams.flatMap (fun t => t.2.regions.flatMap (fun r => r.2.dirtyLines.map (fun l => t.2.lineKey r.2.core l.1))) ++
   ops.flatMap (fun o => match o.2.kind with
    | .writeBack tid core lines _ => (match FMap.find teams tid with
      | some t => (lines.filter (fun l => (t.regionAt core l.1).isSome)).map (fun l => t.lineKey core l.1)
      | none => [])
    | _ => [])).eraseDups

/-- E that the restore of a core's image would bring back (R101, R338): H, what is backed and resident then, 32 ticks for each operation, and
the reservations held on the core by the operations of all images that come back. Restored lines are clean (R69), but for the region lines
that come back dirty. -/
def CoreImage.restoredE (im : CoreImage) (all : List CoreImage) : Nat :=
  Config.haltTicks + im.groups.foldl (fun n g => n + 32 + (im.groupBack 0 g.1 g.2).savedGranules) 0 +
  (im.threads.filter (fun t => !t.2.ended)).length * 32 + im.teams.foldl (fun n t => n + 256 * t.2.nbanks) 0 +
  32 * (im.ops.filter (fun o => o.2.cls != .free)).length +
  ((regionKeys (all.flatMap (fun x => x.teams)) (all.flatMap (fun x => x.ops))).filter (fun k => k / 6144 == im.core)).length +
  all.foldl (fun n x => x.ops.foldl (fun n o => n + FMap.at 0 o.2.resv im.core) n) 0

/-- Why a context's words keep it from taking pairs (R99, R305, R338, R364). -/
def State.takeFails (s : State) (c : Context) (pairs : List Nat) : Option (BitVec 16) :=
  let back := c.image.filter (fun im => pairs.contains (im.core / 2))
  if !c.boundOk then some 2
  else if !c.wordsOk then some 8
  else if pairs.any (fun p => let w := FMap.at 0 s.hub.slices p; w.getLsbD 63 && decide ((bits w 0 25).toNat < c.bound)) then some 3
  else if back.any (fun im => decide (c.bound - Config.commitTicks < im.restoredE back)) then some 5
  else none

/-- A path that stopped at a break goes on after it (R317). -/
def State.resumeBreak (s : State) (tok : Nat) (a : Agent) : State :=
  let on (sl : Slot) : Slot :=
    if sl.status == .trapped && sl.tok == tok then { sl.resume with pc := sl.pc + BitVec.ofNat 64 (4 * sl.tlen) } else sl
  match a with
  | .group g _ => s.modGroup g (fun gr => gr.mapSlots on)
  | .thread t => s.modThread t (fun th => { th with slot := on th.slot })

/-- The broken paths of a context on some of its pairs go on, where those run (R317). -/
def State.resumeBreaks (s : State) (ctx : Nat) (pairs : List Nat) : State :=
  let runs (p : Nat) : Bool := (s.ctx? ctx).any (fun c => c.pairs.contains p) && s.hub.vacates.all (fun v => !v.pairs.contains p)
  let here (x : Nat × Nat × Agent) : Bool := x.1 == ctx && pairs.contains (x.2.2.core / 2) && runs (x.2.2.core / 2)
  let mine := s.hub.broken.filter here
  let s := mine.foldl (fun s x => s.resumeBreak x.2.1 x.2.2) s
  s.modHub (fun h => { h with broken := h.broken.filter (fun x => !mine.contains x) })

/-- Whether a pair cannot be taken now: it is held, or its die is stopped or stopping (R302, R368). -/
def State.pairBusy (s : State) (p : Nat) : Bool := s.pairHeld p || s.clockStopped (2 * p) || s.hub.tripped.contains (p / 40)

/-- A waiting ASSIGN whose pairs are free begins. One whose context is being released is busy; one whose list has ceased to be that of the
saved pairs ends with status 10 (R364); one whose words have ceased to allow it ends with their status (R99, R305, R338). A debugger's
restore, which has no status, waits on (R317). -/
def State.beginRestore (s : State) (r : Restore) : State :=
  let s' := s.modHub (fun h => { h with restores := h.restores.erase r })
  let refuse (st : BitVec 16) : State := match r.command with | some k => s'.answer k st | none => s
  match s.ctx? r.ctx with
  | none => match r.command with | some k => s'.answer k 1 | none => s'
  | some c =>
    let ps := if r.command.isSome then r.pairs else r.pairs.filter c.savedPairs.contains
    if c.state == .zeroing || s.hub.vacates.any (fun v => v.ctx == r.ctx && v.release) then (match r.command with | some k => s'.answer k 1 | none => s')
    else if r.command.isNone && ps.isEmpty then s'.resumeBreaks r.ctx r.pairs
    else if r.command.isSome && !c.savedPairs.isEmpty && addAll [] r.pairs != c.savedPairs then refuse 10
    else if ps.any s.pairBusy then s
    else match s.takeFails c ps with
      | some st => refuse st
      | none => s'.takePairs { r with pairs := ps }

/-- The waiting restores begin, in the order in which they came, as far as their pairs are free (R302). None begins while the L2 changes its
mode (R81). -/
def State.startWaiting (s : State) : State :=
  if s.hub.l2want.isSome then s
  else (s.hub.restores.filter (fun r => !r.held)).foldl State.beginRestore s

/-- A die that has tripped stops its clock once no context holds, or is being restored on, a pair of it (R368). -/
def State.stopTripped (s : State) : State :=
  let free (d : Nat) : Bool := s.ctxs.all (fun c => c.2.pairs.all (fun p => p / 40 != d)) &&
    s.hub.restores.all (fun r => !r.held || r.pairs.all (fun p => p / 40 != d))
  s.hub.tripped.foldl (fun s d =>
    if free d then s.modHub (fun h => { h with tripped := NSet.del h.tripped d, stopped := NSet.add h.stopped d }) else s) s

/-- VACATE_COMMIT (R100, R111 to R113, R307, R339, R369): the hub has the completion of the last core of a vacate of the context: its state
is saved, its pairs are free, its L2 lines are flushed once it holds no pair, the vacate record is written. -/
def execVacateCommit (ctx : Nat) (s : State) : Out :=
  stepOut s (do
    let v ← getSome (s.hub.vacates.find? (fun v => v.ctx == ctx && v.cores.all (fun c => (s.core c).phase == .saved))) "no vacate is ready"
    let c ← getSome (s.ctx? ctx) "no such context"
    let measured := s.ticks - v.since
    let (e, core) := s.largestE v.cores
    let s := v.cores.foldl (fun s k => s.modCounters k ctx (fun x => x.freeze s.now)) s
    let full (im : CoreImage) : CoreImage := if v.cores.contains im.core then s.coreImage im.core im.lost v.cores.contains else im
    let image := c.image.map full
    let left := c.pairs.filter (fun p => !v.pairs.contains p)
    let none' := left.isEmpty && s.hub.restores.all (fun r => r.ctx != ctx || !r.held)
    let s := s.modCtx ctx (fun c => { c with image, pairs := left, savedPairs := addAll c.savedPairs v.pairs,
                                             state := if none' then (if v.release then .zeroing else .saved) else c.state })
    let s := v.cores.foldl (fun s k => (s.clearCore k).modCore k (fun x => { x with phase := .running })) s
    let s := s.flushContext ctx v.pairs none'
    let s := { s with ops := s.ops.map (fun (o : Nat × Op) => if o.2.ctx = ctx then (o.1, o.2.release v.cores.contains) else o) }
    let s := v.pairs.foldl (fun s p => s.holdPair p 0) s
    let s := (s.addUsage c.owner 8 1).addUsage c.owner 9 measured
    let s := s.trace 3 ctx core 0 0xFFFF (BitVec.ofNat 64 s.ticks) (BitVec.ofNat 64 e) (BitVec.ofNat 64 measured)
    let above := e + 2048 < measured
    let s := if above then (s.midnight 0x08 ctx core 2 (BitVec.ofNat 64 e) (BitVec.ofNat 64 measured)).modHub
        (fun h => { h with suspect := NSet.add h.suspect (core / 2) }) else s
    let late (k : Nat) : Bool := v.recalled.any (fun r => r.1 == k && decide ((bits (FMap.at 0 s.hub.slices r.2) 0 25).toNat < measured))
    let s := s.modHub (fun h => { h with vacates := h.vacates.erase v })
    pure ((v.commands.foldl (fun s k => s.answerVacate (above || late k) k) s).stopTripped.startWaiting))

/-- Why an ASSIGN is refused, if it is (R301, R302, R305, R320, R338, R364): busy before the dawn sequence has ended, while another ASSIGN of
the context is pending or the context is being released, and for a list that is empty or names no pair of the device. -/
def State.assignRefusal (s : State) (ctx : Nat) (pairs : List Nat) (nowait : Bool) : Option (BitVec 16) :=
  match s.ctx? ctx with
  | none => some 1
  | some c =>
    let pending := s.hub.restores.any (fun r => r.ctx == ctx && r.command.isSome) || s.hub.vacates.any (fun v => v.ctx == ctx && v.release)
    if s.hub.dawn < 6 || pending || c.state == .zeroing || (c.state == .resident && c.savedPairs.isEmpty) then some 1
    else if !c.savedPairs.isEmpty && addAll [] pairs != c.savedPairs then some 10
    else if pairs.isEmpty || pairs.any (fun p => 80 ≤ p) then some 1
    else match s.takeFails c pairs with
      | some st => some st
      | none => if nowait && pairs.any s.pairHeld then some 4 else none

/-- ASSIGN (R301 to R303, R305, R338, R364): the pairs are taken, or waited for. -/
def execAssign (ctx : Nat) (pairs : List Nat) (nowait : Bool) (s : State) : Out :=
  match s.assignRefusal ctx pairs nowait with
  | some st => .next (s.answered 2 ctx st)
  | none =>
    let (k, s) := s.command 2 ctx
    let r : Restore := { ctx, pairs := addAll [] pairs, command := some k, held := false }
    .next (s.modHub (fun h => { h with restores := h.restores ++ [r] })).startWaiting

/-- The record of an agent whose fixed state was lost (R337). -/
def lostRecord (ctx core qtr slot : Nat) (seq : Bool) (thread : Nat) : FaultRecord :=
  { w0 := recordWord0 ctx core qtr slot seq thread false false true false 0x0C, addr := 0, w2 := 0 }

/-- A slot of an agent that is not resumed (R337): its path stays until the driver cancels the record. -/
def Slot.lostState (sl : Slot) : Slot := if sl.status == .free then sl else { sl with status := .trapped, escalated := true, tok := 0 }

/-- An agent whose fixed state was lost is not resumed (R337): what its driver still had to answer is void, no trap of it is entered, and its
record is posted, which the driver can only cancel. -/
def State.postLost (s : State) (ctx : Nat) (i : LostItem) : State :=
  match i with
  | .groupState g =>
    let s := (s.dropRecords ctx (fun p => p.who.ofGroup g)).modGroup g (fun gr =>
      { gr.mapSlots Slot.lostState with lost := true, pending := [], handler := { slot := { status := .trapped, escalated := true } } })
    s.post ctx (lostRecord ctx (g / 64) (g / 16 % 4) (g % 16) false 0) (.lostAgent (some g) none)
  | .threadState t =>
    let s := (s.dropRecords ctx (fun p => p.who == .thread t)).modThread t (fun th => { th with slot := th.slot.lostState })
    s.post ctx (lostRecord ctx (t / 4) 0 0 true (t % 4)) (.lostAgent none (some t))
  | _ => s

/-- Puts the entries of one map into another. -/
def putAll {α : Type} (m : FMap α) (xs : FMap α) : FMap α := xs.foldl (fun m x => FMap.put m x.1 x.2) m

/-- One core's image comes back (R69, R303, R337): its lines are clean, and the save area keeps its copy of them. An operation owes what it had
reserved on cores that `with'` does not say come back with it (R113). -/
def State.restoreCore (s : State) (ctx : Nat) (im : CoreImage) (with' : Nat → Bool) : State :=
  let lostKeys := im.lost.filterMap (fun (i : LostItem) => match i with
    | .line off => some (6144 * im.core + off / 64)
    | .bank b => some (1000000 + 16 * im.core + b)
    | _ => none)
  let s := { s with
    groups := putAll s.groups (im.groups.map (fun (g : Nat × Group) => (g.1, im.groupBack s.now g.1 g.2)))
    threads := putAll s.threads (im.threads.map (fun (t : Nat × Thread) => (t.1, { t.2 with agent := { t.2.agent with start := s.now } })))
    teams := putAll s.teams im.teams
    clm := im.lines.foldl (fun (m : Mem) (l : Nat × List Byte) => Mem.writeBytes m (clmBytes * im.core + 64 * l.1) l.2) s.clm
    copied := addAll s.copied (im.lines.map (fun (l : Nat × List Byte) => 6144 * im.core + l.1))
    lost := addAll s.lost lostKeys
    banks := putAll s.banks im.banks, macros := putAll s.macros im.macros, shadow := putAll s.shadow im.shadow, marks := putAll s.marks im.marks
    ops := putAll s.ops (im.ops.map (fun (o : Nat × Op) => (o.1, o.2.release (fun c => !with' c)))) }
  let s := (s.modCounters im.core ctx (fun k => k.thaw s.now)).modCore im.core (fun c => { c with phase := .running })
  im.groups.foldl (fun s g => s.restorePins im.core ctx (FMap.vals g.2.pns)) s

/-- The region lines that are not written back are dirty again (R345). -/
def State.dirtyAgain (s : State) (ctx : Nat) : State :=
  let keys := regionKeys (s.teams.filter (fun t => t.2.ctx == ctx)) (s.ops.filter (fun o => o.2.ctx == ctx))
  { s with dirty := addAll s.dirty keys, copied := s.copied.filter (fun k => !keys.contains k) }

/-- Operations that a vacate parked go on (R113, R336); a part whose reply the hub kept retires with it. -/
def State.wakeOps (s : State) (ctx : Nat) : State :=
  (s.ops.map Prod.fst).foldl (fun s id => match FMap.find s.ops id with
    | none => s
    | some o =>
      if o.ctx = ctx && (match o.parked with | some p => p.quiet | none => false) then
        match o.kind with
        | .remote f n r d l m (some rep) got ok => s.applyReply id { o with kind := .remote f n r d l m none got ok } rep
        | _ => s.unpark id
      else s) s

/-- DIRFULL clears once no pair of the context is saved, nor a core of it by a vacate that has still to commit, and every deferred name is
searched for again (R363). -/
def State.clearDirfull (s : State) (ctx : Nat) : State :=
  match s.ctx? ctx with
  | none => s
  | some c =>
    if !c.dirfull || !c.savedPairs.isEmpty || s.hub.vacates.any (fun v => v.ctx == ctx && v.cores.any (fun k => (s.core k).phase == .saved)) then s
    else
      let (s, l) := (s.modCtx ctx (fun c => { c with dirfull := false })).deferList ctx
      let names := (l.getD []).filter (fun x => x != 0)
      s.modHub (fun h => { h with rehunts := h.rehunts ++ names.map (fun x => (ctx, x)) })

/-- The records that the driver answered while their agents were saved take effect (R336). -/
def State.applyAnswers (s : State) (ctx : Nat) : State :=
  match s.ctx? ctx with
  | none => s
  | some c => (c.faults.filter (fun p => p.answer != .posted && s.ownerWhere ctx p.who == .live)).foldl (fun s p =>
      s.answerLive ctx p (p.answer == .cancelled)) s

/-- The groups and threads that come back fatal (R346, R368) end: their parked operations are cancelled. -/
def State.endFatal (s : State) (im : CoreImage) : State :=
  let s := (im.groups.filter (fun g => g.2.fatal)).foldl (fun s g => s.stopGroup g.1) s
  (im.threads.filter (fun t => t.2.fatal)).foldl (fun s t => s.endIfFatal (.thread t.1)) s

/-- A context with a pair on a die that has tripped is vacated (R368). -/
def State.vacateTripped (s : State) (ctx : Nat) : State :=
  match s.ctx? ctx with
  | some c => if c.pairs.any (fun p => s.hub.tripped.contains (p / 40)) then s.startVacate ctx c.pairs [] [] false false else s
  | none => s

/-- RESTORE_COMPLETE (R303, R317, R336, R337, R363, R368): the state of a context's pairs is back, and its agents resume; on a die that has
tripped, the context is vacated. -/
def execRestoreComplete (ctx : Nat) (s : State) : Out :=
  stepOut s (do
    let r ← getSome (s.hub.restores.find? (fun r => r.ctx == ctx && r.held)) "no restore is under way"
    let c ← getSome (s.ctx? ctx) "no such context"
    let mine := c.image.filter (fun im => r.pairs.contains (im.core / 2))
    let s := (mine.foldl (fun s im => s.restoreCore ctx im (fun c => r.pairs.contains (c / 2))) s).dirtyAgain ctx
    let s := (r.pairs.flatMap (fun p => [2 * p, 2 * p + 1])).foldl (fun s k => s.modCore k (fun x => { x with phase := .running })) s
    let s := s.modCtx ctx (fun c => { c with state := .resident, pairs := addAll c.pairs r.pairs, savedPairs := c.savedPairs.filter (fun p => !r.pairs.contains p),
                                             image := c.image.filter (fun im => !r.pairs.contains (im.core / 2)) })
    let s := s.modHub (fun h => { h with restores := h.restores.erase r })
    let s := (mine.flatMap (fun im => im.lost)).foldl (fun s i => s.postLost ctx i) s
    let s := mine.foldl State.endFatal (((s.wakeOps ctx).applyAnswers ctx).clearDirfull ctx)
    let s := if r.brk then s.resumeBreaks ctx r.pairs else s
    pure ((match r.command with | some k => s.answer k 0 | none => s).vacateTripped ctx).startWaiting)

/-- DEBUG_RESUME (R317): the pairs that breaks have vacated are restored, and the breaking paths go on. A pair whose vacate is under way, or
that a debugger's command is restoring already, waits for the next command. -/
def execDebugResume (ctx : Nat) (s : State) : Out :=
  stepOut s (do
    let c ← getSome (s.ctx? ctx) "no such context"
    let ready (p : Nat) : Bool := s.hub.vacates.all (fun v => !v.pairs.contains p) &&
      s.hub.restores.all (fun r => r.ctx != ctx || r.command.isSome || !r.pairs.contains p)
    let pairs := (addAll [] ((s.hub.broken.filter (fun x => x.1 == ctx)).map (fun x => x.2.2.core / 2))).filter ready
    need (!pairs.isEmpty) "nothing that can be resumed is stopped at a break"
    let back := pairs.filter c.savedPairs.contains
    let s := s.resumeBreaks ctx pairs
    if back.isEmpty then pure s
    else pure (s.modHub (fun h => { h with restores := h.restores ++ [{ ctx, pairs := back, held := false, brk := true }] })).startWaiting)

end Sys2Proof.Machine
end

