-- ==== Sys2Proof/Machine/System.lean ====
section
/-! DEFINITION. The vacate instructions (R109, R110), system registers, `mapf`, `fltr`, counter banks and debug instructions (R245 to
R251), and what the hypervisor and debugger do to banks, trace units and breaks (R314, R315, R367). -/
namespace Sys2Proof.Machine

open Sys2Proof

/-! Vacate instructions (R110) -/

/-- What `vest` reads (R110). -/
def vestValue (i : Iss) (s : State) : W64 :=
  BitVec.ofNat 64 (match i.f.sub.toNat with
    | 0 => s.estimate i.core
    | 1 => Config.haltTicks
    | 2 => s.drainTerm i.core
    | 3 => s.saveTerm i.core
    | 4 => s.classSum i.core .memory
    | 5 => s.classSum i.core .matrix
    | _ => s.classSum i.core .fabric)

def execVest (f : Ext) (s : State) : Out := runExt {} 0x71 f (fun i s => .ok (i.writeD s (i.eachLane (fun _ => vestValue i s)))) s

def execVbound (f : Ext) (s : State) : Out :=
  runExt {} 0x72 f (fun i s => .ok (i.writeD s (i.eachLane (fun _ =>
    BitVec.ofNat 64 (if i.f.sub = 0 then s.boundCore i.ctx else s.boundCtx i.ctx))))) s

/-- `vcost` (R110): saturated at n64. -/
def execVcost (f : Ext) (s : State) : Out :=
  runExt {} 0x73 f (fun i s => .ok (i.writeD s (i.eachLane (fun l =>
    BitVec.ofNat 64 (min (chargeOf i.f.sub.toNat (i.vb s l).toNat) (2 ^ 64 - 1)))))) s

/-- The largest n of a class whose charge fits a room, by the inverse of its charge; −1 where none fits (R110). -/
def probeOf (cls : Nat) (room : Int) : Int :=
  let n : Int := match cls with
    | 0 => 64 * (room - 32)
    | 1 => room - 32
    | 2 => 6 * room / 5
    | 3 => (room - 64) / 16
    | 4 => (room - 16) / 4
    | 5 => room / 2048
    | 6 => 32 * (room - 2048)
    | 7 => room
    | 8 => room
    | _ => room / 256
  if room < chargeOf cls 0 then -1 else min n (largestLegal cls)

/-- The room of a class on a core (R110). -/
def State.roomOf (s : State) (core ctx cls : Nat) : Int :=
  let b : Int := s.boundCore ctx
  b - Config.haltTicks - s.saveTerm core - (match termOf cls with
    | some t => s.classSum core t
    | none => s.drainTerm core)

def execVprobe (f : Ext) (s : State) : Out :=
  runExt {} 0x74 f (fun i s => .ok (i.writeD s (i.eachLane (fun _ =>
    BitVec.ofInt 64 (probeOf i.f.sub.toNat (s.roomOf i.core i.ctx i.f.sub.toNat)))))) s

/-- `vpol` (R110, R234). -/
def execVpol (f : Ext) (s : State) : Out :=
  runExt {} 0x75 f (fun i s => .ok (s.modGroup i.gi (fun g => { g with vpol := i.f.sub == 1 }))) s

/-! System registers (R246, R247) -/

/-- The value of a system register (R246). -/
def sysrValue (i : Iss) (s : State) : W64 :=
  let ctx (f : Context → W64) : W64 := ((s.ctx? i.ctx).map f).getD 0
  match i.f.imm.toNat % 256 with
  | 0 => ctx (fun c => c.share)
  | 1 => ctx (fun c => c.fgrp.setWidth 64)
  | 2 => s.hub.devid.setWidth 64
  | 3 => ctx (fun c => BitVec.ofNat 64 c.pool.length)
  | 4 => ctx (fun c => c.freed)
  | 5 => ctx (fun c => c.defer)
  | _ => match s.group? i.gi with | some g => BitVec.ofNat 64 g.logged | none => 0

def execSysr (f : Ext) (s : State) : Out := runExt {} 0x7A f (fun i s => .ok (i.writeD s (i.eachLane (fun _ => sysrValue i s)))) s

/-- The writable bits of SHARE (R246). -/
def shareMask : W64 := 0xFF00FF

/-- `sysw SHARE` (R247): reserved bits are ignored. -/
def execSysw (f : Ext) (s : State) : Out :=
  runExt {} 0x7B f (fun i s => .ok (s.modCtx i.ctx (fun c => { c with share := i.vb s 0 &&& shareMask }))) s

/-! `mapf` and `fltr` (R248, R249) -/

/-- `mapf` (R248): ILLEGAL at execution outside a handler slot, or with reserved control bits. -/
def execMapf (f : Ext) (s : State) : Out :=
  runExt
    { illegal := fun i s => !i.handler || bits (i.vb s 0) 3 61 != 0
      delta := fun i _ => if i.lanes.isEmpty then {} else { cls := .memory, charge := chargeOf 0 65536 } }
    0x7C f (fun i s =>
      match i.lanes, i.d with
      | l :: _, some dst =>
        let va : W64 := (bits (i.va s l) 16 36).setWidth 64 <<< 16
        let s1 := (i.dsts.flatMap Reg.units).foldl i.emptyUnit s
        .ok (s1.addOp { agent := i.agent, core := i.core, ctx := i.ctx, cls := .memory, charge := chargeOf 0 65536, poff := poffOf i.entry i.pc,
                        kind := .mapf va (bits (i.vb s 0) 0 3) dst }).2
      | _, _ => .ok s) s

/-- The walk of `mapf` to the level-1 entry (R248, R273): its address, or the status that the walk gives. A table that cannot be read counts as
missing, and so does an entry above that R273 refuses (R341 has 1 or 3; DESIGN CHOICE, log 91); a leaf above is a valid mapping. -/
def State.mapWalk (s : State) (ctx va : Nat) : Nat → Nat → State × Except Nat Nat
  | 0, table => (s, .ok (table + 8 * walkIndex va 1))
  | k + 1, table =>
    match s.walkerRead ctx (table + 8 * walkIndex va (k + 2)) with
    | (s, none) => (s, .error 3)
    | (s, some e) =>
      if !e.getLsbD 0 || entryReserved e || (e.getLsbD 1 && k == 2) then (s, .error 3)
      else if e.getLsbD 1 then (s, .error 1)
      else s.mapWalk ctx va k ((bits e 12 40).toNat * 4096)

/-- The status of a `mapf` and its effect (R248, R277, R280, R307): a frame of the pool is zeroed, owned and mapped. Where the home refuses the
compare-and-swap, status 3 is returned and the frame stays in the pool (DESIGN CHOICE, log 91). -/
def State.mapFrame (s : State) (ctx : Nat) (va : W64) (perm : BitVec 3) : State × Nat :=
  match s.ctx? ctx with
  | none => (s, 3)
  | some c =>
    match s.mapWalk ctx va.toNat 3 ((bits c.troot 12 40).toNat * 4096) with
    | (s, .error st) => (s, st)
    | (s, .ok a) =>
      match s.walkerRead ctx a with
      | (s, none) => (s, 3)
      | (s, some e) =>
        if e.getLsbD 0 then (s, 1)
        else match c.pool with
          | [] => (s, 2)
          | f :: rest =>
            match s.homeWrite ctx a (leBytes 8 (3 + 4 * perm.toNat + 65536 * f)) with
            | (s, .error _) => (s, 3)
            | (s, .ok ()) =>
              let s := (s.zeroFrame f).setFrameWord f (0x8000 + ctx)
              ((s.modCtx ctx (fun c => { c with pool := rest })).addUsage c.owner 11 1, 0)

/-- MAPF_COMPLETION (R248). -/
def execMapfCompletion (op : Nat) (s : State) : Out :=
  stepOut s (do
    let o ← getSome (FMap.find s.ops op) "no such operation"
    match o.kind with
    | .mapf va perm dst =>
      let (s, st) := s.mapFrame o.ctx va perm
      pure ((s.fillReg o.agent dst [(0, BitVec.ofNat 64 st)]).dropOp op)
    | _ => .error (.idle "not a mapf"))

/-- A word of a fault record (R328). -/
def FaultRecord.word (r : FaultRecord) (n : Nat) : W64 :=
  match n with
  | 0 => r.w0 | 1 => r.addr | 2 => r.w2 | 3 => r.flanes | 4 => r.pmask | 5 => r.detail | 6 => r.w6 | _ => r.time

/-- `fltr` (R249). -/
def execFltr (f : Ext) (s : State) : Out :=
  runExt { illegal := fun i _ => !i.handler } 0x7D f (fun i s =>
    let v : W64 := match s.group? i.gi with | some g => g.handler.record.word (i.f.imm.toNat % 8) | none => 0
    .ok (i.startLoad s (i.eachLane (fun _ => v)) none none)) s

/-! Counter banks (R250, R313) -/

/-- A bank of a core. -/
def State.bank (s : State) (core b : Nat) : CounterBank := FMap.at {} (s.core core).counters b

/-- Replaces a bank of a core. -/
def State.setBank (s : State) (core b : Nat) (k : CounterBank) : State := s.modCore core (fun c => { c with counters := FMap.put c.counters b k })

/-- Whether an event select is accepted (R313). -/
def eventOk (v : W64) : Bool :=
  let code := (bits v 0 8).toNat
  bits v 11 53 == 0 && ((1 ≤ code && code ≤ 6) || (0x10 ≤ code && code ≤ 0x15) || code == 0x20)

/-- Reads a counter (R250, R313). -/
def State.readCounter (s : State) (core b c : Nat) : W64 := BitVec.ofNat 64 ((FMap.at {} (s.bank core b).ctrs c).upTo s.now)

/-- `cnt` (R250). -/
def cntBody (i : Iss) (s : State) : Res State :=
  let b := i.f.imm.toNat % 4
  let c := i.f.imm.toNat / 4 % 8
  let bank := s.bank i.core b
  let mine : Bool := bank.holder == some i.ctx && !bank.hyper
  let put (s : State) (v : W64) : State := i.writeD s (i.eachLane (fun _ => v))
  match i.f.xs.toNat with
  | 0 => .ok (put s (s.readCounter i.core b c))
  | 1 =>
    let v := s.readCounter i.core b c
    .ok ((put s ((bits v 0 32).setWidth 64)).modAgent i.agent (fun ag => { ag with cShadow := bits v 32 32 }))
  | 2 => .ok (put s (((s.agentState? i.agent).map (fun (ag : AgentState) => ag.cShadow)).getD 0 |>.setWidth 64))
  | 3 =>
    if bank.hyper then .ok (put s 1)
    else if bank.holder = some i.ctx then .ok (put s 0)
    else if bank.holder.isNone then .ok (put (s.setBank i.core b { holder := some i.ctx }) 0)
    else .ok (put s 1)
  | 4 =>
    let v := i.vb s 0
    if !mine then .ok s
    else
      let k : BankCounter := if eventOk v then { select := some (bits v 0 11), since := if s.clockStopped i.core then none else some s.now } else {}
      .ok (s.setBank i.core b { bank with ctrs := FMap.put bank.ctrs c k })
  | _ => if bank.holder = some i.ctx then .ok (s.setBank i.core b { hyper := bank.hyper }) else .ok s

def execCnt (f : Ext) (s : State) : Out := runExt {} 0x7E f cntBody s

/-! Debug (R251, R317) -/

/-- The AGENT field of a trace record (R314). -/
def Agent.traceCode : Agent → Nat
  | .group g _ => g % 64
  | .thread t => 64 + t % 4

/-- A marker or break record of the issuing agent. -/
def Iss.traceRecord (i : Iss) (s : State) (ty : Nat) : State :=
  match s.agentState? i.agent with
  | none => s
  | some ag =>
    s.trace ty i.ctx i.core i.agent.traceCode ag.ord (ag.vcyc s.now) ((bits (i.vb s 0) 0 16).setWidth 64)
      ((poffOf i.entry i.pc).signExtend 64)

/-- Whether `dbg.brk` breaks (R251): S is set, its PC is a stop site, a debugger has armed breaks. -/
def Iss.breaks (i : Iss) (s : State) : Bool :=
  i.f.s && ((s.ctx? i.ctx).map (fun (c : Context) => c.breaks)).getD false && (s.safePoint i.core i.ctx (s.sptOf i.agent) (poffOf i.entry i.pc)).isSome

/-- A break (R316, R317): the path stops at `dbg.brk`, a record is written, the site becomes the agent's latest stop site, and the pair of its
core is vacated. The handler does not see it. -/
def Iss.takeBreak (i : Iss) (s : State) : State :=
  let tok := s.nextId
  let ord := s.safePoint i.core i.ctx (s.sptOf i.agent) (poffOf i.entry i.pc)
  let s := (i.traceRecord { s with nextId := s.nextId + 1 } 2).modAgent i.agent (fun ag => { ag with ord := ord.getD ag.ord })
  let s := (i.markLen s).modSlot i.agent (fun sl => { sl with status := .trapped, before := sl.status, tok, owed := 1, stall := none })
  let s := s.modHub (fun h => { h with broken := h.broken ++ [(i.ctx, tok, i.agent)] })
  s.startVacate i.ctx [i.core / 2] [] [] true false

/-- `dbg.mark` and `dbg.brk` (R251). -/
def execDbg (f : Ext) (s : State) : Out :=
  runExt {} 0x7F f (fun i s =>
    if i.f.xs = 1 && i.breaks s then .error (.wait (i.takeBreak s)) else .ok (i.traceRecord s 1)) s

/-- BREAK_ARM (R251). -/
def execBreakArm (ctx : Nat) (on : Bool) (s : State) : Out :=
  stepOut s (do
    let _ ← getSome (s.ctx? ctx) "no such context"
    pure (s.modCtx ctx (fun c => { c with breaks := on })))

/-! The hypervisor's banks and trace units (R314, R315, R367) -/

/-- Whether a context is resident on a core. -/
def State.residentOn (s : State) (core ctx : Nat) : Bool :=
  match s.ctx? ctx with | some c => c.pairs.contains (core / 2) | none => false

/-- Whether a counter of a core's bank can count for its holder: the context is resident there, and the die's clock runs (R250, R313, R368). -/
def State.counts (s : State) (core : Nat) (k : CounterBank) : Bool :=
  !s.clockStopped core && (match k.holder with | some ctx => s.residentOn core ctx | none => false)

/-- The counters of the cores of dies whose clock stops or starts again (R368) stand still or count on (R313). -/
def State.dieCounters (s : State) (dies : List Nat) (run : Bool) : State :=
  let next (core : Nat) (b : CounterBank) (k : BankCounter) : BankCounter :=
    if !run then k.freeze s.now else if !b.hyper && s.counts core b then k.thaw s.now else k
  { s with cores := s.cores.map (fun c =>
      if !dies.contains (c.1 / 80) then c
      else (c.1, { c.2 with counters := c.2.counters.map (fun b => (b.1, { b.2 with ctrs := b.2.ctrs.map (fun k => (k.1, next c.1 b.2 k.2)) })) })) }

/-- HV_RESOURCE_TAKE (R314, R367): the guest's grant is suspended: a bank's counters stand still, and a unit's configuration and ring are set
aside. -/
def execHvResourceTake (r : HvResource) (s : State) : Out :=
  stepOut s (match r with
  | .bank core b => do
    need (decide (core < 160) && decide (b < 4)) "no such bank"
    let k := s.bank core b
    pure (s.setBank core b { k with hyper := true, ctrs := k.ctrs.map (fun c => (c.1, c.2.freeze s.now)) })
  | .unit n => do
    need (decide (n < 8)) "no such unit"
    need (!(FMap.at {} s.hub.traces n).hyper) "the hypervisor holds the unit"
    pure (s.modHub (fun h =>
      { h with traces := FMap.put h.traces n { hyper := true },
               suspended := match FMap.find h.traces n with | some u => FMap.put h.suspended n u | none => FMap.del h.suspended n })))

/-- HV_RESOURCE_FREE (R367): the grant resumes with the same configuration. -/
def execHvResourceFree (r : HvResource) (s : State) : Out :=
  stepOut s (match r with
  | .bank core b => do
    let k := s.bank core b
    need k.hyper "the hypervisor does not hold the bank"
    pure (s.setBank core b { k with hyper := false, ctrs := if s.counts core k then k.ctrs.map (fun c => (c.1, c.2.thaw s.now)) else k.ctrs })
  | .unit n => do
    need (FMap.at {} s.hub.traces n).hyper "the hypervisor does not hold the unit"
    pure (s.modHub (fun h =>
      { h with traces := match FMap.find h.suspended n with | some u => FMap.put h.traces n u | none => FMap.del h.traces n,
               suspended := FMap.del h.suspended n })))

/-- TRACE_UNIT_ARM (R314, R315): context, ring, type mask and triggers are set; the ring starts empty, and a freeze is undone. `hyper` in the
configuration says that it is for the hypervisor itself, of a unit that it has taken; a guest's request for such a unit returns busy, and its
suspended grant stays (R367). -/
def execTraceUnitArm (unit : Nat) (conf : TraceUnit) (s : State) : Out :=
  stepOut s (do
    need (unit < 8 && 6 ≤ conf.k && conf.k ≤ 20) "no such unit or ring"
    let taken := (FMap.at {} s.hub.traces unit).hyper
    need (!conf.hyper || taken) "the hypervisor has not taken the unit"
    let armed : State := s.modHub (fun h => { h with traces := FMap.put h.traces unit { conf with head := 0, overrun := 0, frozen := false } })
    pure (if conf.hyper then armed else if taken then s.answered 15 conf.ctx 1 else armed.answered 15 conf.ctx 0))

/-- The action of a trigger on a unit (R315): 0 start, 1 stop, 2 freeze; its record is of type 4 and holds the trigger's value, and stops and
freezes write it before they act, on a stopped unit too. -/
def State.trigger (s : State) (n source action : Nat) (value : W64) : State :=
  match FMap.find s.hub.traces n with
  | none => s
  | some u =>
    if u.frozen then s
    else
      let set (s : State) (f : TraceUnit → TraceUnit) : State := s.modHub (fun h => { h with traces := FMap.update h.traces n f })
      let record (s : State) : State :=
        match FMap.find s.hub.traces n with
        | some u => if u.mask.testBit 4 then
            s.traceTo n u (traceBytes 4 u.ctx 0 0 0xFFFF (BitVec.ofNat 64 s.ticks) (BitVec.ofNat 64 (source + 16 * action)) value) else s
        | none => s
      match action with
      | 0 => record (set s (fun u => { u with enabled := true }))
      | 1 => set (record s) (fun u => { u with enabled := false })
      | _ => set (record s) (fun u => { u with frozen := true })

/-- Whether a trigger of a source and value fires on an event (R315). -/
def firesOn (source : Nat) (value : W64) (event : Nat) (v : W64) : Bool := source == event && (event == 4 || value == v)

/-- TRIGGER_FIRE (R315): an event of one of the four sources on a system core. -/
def execTriggerFire (source : Nat) (value : W64) (s : State) : Out :=
  stepOut s (do
    need (1 ≤ source && source ≤ 4) "no such source"
    pure (s.hub.traces.foldl (fun s u =>
      let s := if firesOn u.2.source0 u.2.value0 source value then s.trigger u.1 source u.2.action0 u.2.value0 else s
      if firesOn u.2.source1 u.2.value1 source value then s.trigger u.1 source u.2.action1 u.2.value1 else s) s))

end Sys2Proof.Machine
end

