-- ==== Sys2Proof/Machine/Tenancy.lean ====
section
/-! DEFINITION. The hypervisor's commands and register writes (R9, R80, R81, R99, R261, R262, R275, R301 to R311, R324, R338, R364 to
R366, R369). -/
namespace Sys2Proof.Machine

open Sys2Proof

/-! Contexts: create, release, export, import (R301, R309, R311) -/

/-- CREATE (R301, R320, R365): a free context id becomes configured for an owner, once the dawn sequence has ended; context 0 is never given. -/
def execCreate (ctx owner : Nat) (s : State) : Out :=
  if s.hub.dawn < 6 || (s.ctx? ctx).isSome || ctx = 0 || 4096 ≤ ctx || owner = 0 || 64 ≤ owner then .next (s.answered 1 ctx 1)
  else .next ({ s with ctxs := FMap.put s.ctxs ctx { owner } }.answered 1 ctx 0)

/-- RELEASE (R301, R311): zeroing begins, after a vacate where the context is resident; busy while a RELEASE is under way, and while a restore
brings pairs back (DESIGN CHOICE, log 97). -/
def execRelease (ctx : Nat) (s : State) : Out :=
  match s.ctx? ctx with
  | none => .next (s.answered 5 ctx 1)
  | some c =>
    let busy := c.state == .zeroing || s.hub.restores.any (fun r => r.ctx == ctx && r.held) || s.hub.vacates.any (fun v => v.ctx == ctx && v.release)
    if busy then .next (s.answered 5 ctx 1)
    else
      let (k, s) := s.command 5 ctx
      .next (if c.state == .resident then s.startVacate ctx c.pairs [k] [] false true else (s.modCtx ctx (fun c => { c with state := .zeroing })).startWaiting)

/-- The frames whose ownership entry `f` accepts, ascending. -/
def State.framesWith (s : State) (f : Nat → Bool) : List Nat :=
  let table := s.mem.filter (fun c => 0x7FFF000000 ≤ c.1 && c.1 < 0x7FFF000000 + 2 ^ 24)
  (addAll [] (table.map (fun c => (c.1 - 0x7FFF000000) / 2))).filter (fun k => f (s.frameWord k))

/-- The frames whose ownership entry names a context alone (R276, R311). -/
def State.framesOf (s : State) (ctx : Nat) : List Nat :=
  s.framesWith (fun e => 0x8000 ≤ e && e / 0x4000 % 2 == 0 && e % 0x1000 == ctx)

/-- One frame of a release (R311, R365): zeroed and free, or quarantined with an event. -/
def State.releaseFrame (s : State) (ctx : Nat) (failed : List Nat) (f : Nat) : State :=
  if failed.contains f then (s.setFrameWord f 0x8000).midnight 0x0C ctx 0xFF 2 (BitVec.ofNat 64 f) 0
  else ((s.zeroFrame f).setFrameWord f 0).addUsage (s.ownerOf ctx) 10 65536

/-- A RELEASE that waits for its zeroing is answered, with the overrun bit where its vacate was an overrun (R338, R339). -/
def State.answerRelease (s : State) (ctx quarantined : Nat) : State :=
  match s.hub.commands.findIdx? (fun c => c.name == 5 && c.ctx == ctx && c.status.isNone) with
  | some k => s.answer k (if ((s.hub.commands[k]?).map (fun (c : Command) => c.info)) = some 1 then 0x8000 else 0) quarantined
  | none => s

/-- ZEROING_COMPLETE (R311, R365): the context's frames are zero, those of which a write failed are quarantined, and the context is free
and reports ready with their number. -/
def execZeroingComplete (ctx : Nat) (failed : List Nat) (s : State) : Out :=
  stepOut s (do
    let c ← getSome (s.ctx? ctx) "no such context"
    need (c.state == .zeroing) "the context is not being released"
    let frames := s.framesOf ctx
    need (failed.all frames.contains) "the context owns no such frame"
    let s := frames.foldl (fun s f => s.releaseFrame ctx failed f) s
    let s : State := { s with
      ctxs := FMap.del s.ctxs ctx
      launches := s.launches.filter (fun (l : Nat × Launch) => l.2.ctx != ctx)
      caches := s.caches.filter (fun (l : CacheLine) => l.ctx != ctx)
      tlb := s.tlb.filter (fun (t : TlbEntry) => t.ctx != ctx) }
    let s := s.modHub (fun h => { h with broken := h.broken.filter (fun x => x.1 != ctx), rehunts := h.rehunts.filter (fun x => x.1 != ctx),
                                         pushes := h.pushes.filter (fun x => x.1 != ctx) })
    pure (s.answerRelease ctx (frames.filter failed.contains).length))

/-- The compatibility key of this device (R309). -/
def State.imageKey (s : State) : List Byte := sha512 (Config.identity ++ leBytes 8 s.hub.firmware.toNat)

/-- The bytes of an image that its closing hash covers (R309, R364): the header, the context-table words, the save area, whose own byte form is
not given (log 10), and the frames. -/
def NativeImage.bytes (im : NativeImage) : List Byte :=
  let c := im.context
  im.key ++ leBytes 8 im.ctx ++ leBytes 8 c.owner ++ leBytes 8 c.bound ++ leBytes 8 im.frames.length ++
  [c.fgrp.setWidth 64, c.troot, c.handler, c.dirbase, c.dirlog2].flatMap (fun w => leBytes 8 w.toNat) ++
  Config.saveBytes c im.launches (im.nextId + 2 ^ 64 * im.cycle) ++
  im.frames.flatMap (fun f => leBytes 8 f.1 ++ leBytes 2 f.2.1 ++ f.2.2)

/-- The frames that hold page tables, from a table of a level down (R272, R309). -/
def State.tableFrames (s : State) : Nat → Nat → List Nat
  | 0, table => [table / 65536]
  | lvl + 1, table => table / 65536 :: (List.range 512).flatMap (fun k =>
      let e : W64 := BitVec.ofNat 64 (Mem.readNat s.mem (table + 8 * k) 8)
      if e.getLsbD 0 && !e.getLsbD 1 then s.tableFrames lvl ((bits e 12 40).toNat * 4096) else [])

/-- EXPORT (R309): the native image of a saved context, with every frame that is its own or holds its page tables; busy in another state. -/
def execExportImage (ctx : Nat) (s : State) : Out :=
  match s.ctx? ctx with
  | none => .next (s.answered 6 ctx 1)
  | some c =>
    if c.state != .saved || s.hub.restores.any (fun r => r.ctx == ctx && r.held) then .next (s.answered 6 ctx 1)
    else
      let tables := (s.tableFrames 4 ((bits c.troot 12 40).toNat * 4096)).filter frameGiven
      let frames := (addAll (s.framesOf ctx) tables).map (fun f => (f, s.frameWord f, Mem.readBytes s.mem (65536 * f) 65536))
      let launches := s.launches.filter (fun l => l.2.ctx == ctx)
      let im : NativeImage := { key := s.imageKey, ctx, context := c, launches, nextId := s.nextId, cycle := s.now, frames, hash := [] }
      .next ((s.modHub (fun h => { h with images := h.images ++ [{ im with hash := sha512 im.bytes }] })).answered 6 ctx 0)

/-! The running numbers and times of an image (log 10): launches, teams, agents, operations and the marks of trapped paths are numbered anew,
above those of the device, and what stands in it as a time of the source stands as the time of the destination that is as long ago. -/

/-- How an image is taken over: what its numbers move up by, and the cycles of the export and of the import. -/
structure Rebase where
  ids : Nat
  src : Nat
  dst : Nat
  deriving DecidableEq, Repr

/-- A cycle of the source on the destination. -/
def Rebase.cycle (r : Rebase) (c : Nat) : Nat := c + r.dst - r.src

/-- A time in ticks. -/
def Rebase.tick (r : Rebase) (t : Nat) : Nat := t + r.dst * 5 / 6 - r.src * 5 / 6

/-- An epoch (R347); 0 is none. -/
def Rebase.epoch (r : Rebase) (e : W64) : W64 :=
  if e = 0 then 0 else BitVec.ofNat 64 (r.tick (e.toNat / 65536) * 65536 + e.toNat % 65536)

/-- A number moved up; 0 marks no trapped path. -/
def moveTok (d tok : Nat) : Nat := if tok = 0 then 0 else tok + d

/-- The keys of a map moved up. -/
def moveKeys {α : Type} (d : Nat) (m : FMap α) (f : α → α) : FMap α := m.map (fun x => (x.1 + d, f x.2))

/-- The values of a map changed. -/
def mapVals {α : Type} (m : FMap α) (f : α → α) : FMap α := m.map (fun x => (x.1, f x.2))

/-- A slot. -/
def Slot.renumber (r : Rebase) (sl : Slot) : Slot :=
  { sl with tok := moveTok r.ids sl.tok, notBefore := r.cycle sl.notBefore, lastIssue := r.cycle sl.lastIssue,
            park := match sl.park with | .cpyY o q t => .cpyY (o + r.ids) q t | .hold o w => .hold (o + r.ids) w | p => p }

/-- A release at a CLM location. -/
def SyncMark.renumber (r : Rebase) (m : SyncMark) : SyncMark :=
  { m with site := { m.site with uid := m.site.uid + r.ids, team := m.site.team + r.ids }, epoch := r.epoch m.epoch }

/-- An agent's fixed state. -/
def AgentState.renumber (r : Rebase) (a : AgentState) : AgentState :=
  { a with uid := a.uid + r.ids, start := r.cycle a.start, closed := a.closed.map r.epoch, horizon := r.epoch a.horizon,
           rels := mapVals a.rels r.epoch, seen := r.epoch a.seen, seenMarks := a.seenMarks.map (SyncMark.renumber r) }

/-- A register with a ready cycle. -/
def Cell64.renumber (r : Rebase) (c : Cell64) : Cell64 := { c with ready := r.cycle c.ready }

/-- A group. -/
def Group.renumber (r : Rebase) (g : Group) : Group :=
  { g.mapSlots (Slot.renumber r) with
    team := g.team + r.ids, launch := g.launch + r.ids, agent := g.agent.renumber r
    rows := mapVals g.rows (fun x => { x with ready := r.cycle x.ready, written := r.cycle x.written })
    qs := mapVals g.qs (Cell64.renumber r), ms := mapVals g.ms (Cell64.renumber r)
    handler := { g.handler with slot := g.handler.slot.renumber r, tok := moveTok r.ids g.handler.tok, eng := g.handler.eng.map (· + r.ids),
                                cycle := r.cycle g.handler.cycle }
    pending := g.pending.map (fun p => { p with tok := moveTok r.ids p.tok, eng := p.eng.map (· + r.ids), cycle := r.cycle p.cycle }) }

/-- A sequencer thread. -/
def Thread.renumber (r : Rebase) (t : Thread) : Thread :=
  { t with team := t.team + r.ids, launch := t.launch + r.ids, slot := t.slot.renumber r, agent := t.agent.renumber r
           xs := mapVals t.xs (Cell64.renumber r) }

/-- An operation. -/
def Op.renumber (r : Rebase) (o : Op) : Op :=
  { o with
    issuedAt := r.cycle o.issuedAt
    kind := match o.kind with
      | .entry k off x obj arr st => .entry (k + r.ids) off x obj arr st
      | .writeBack t core ls n => .writeBack (t + r.ids) core ls n
      | .spawn l rec dst old => .spawn (l + r.ids) rec dst old
      | .remote f n q d l m rep got ok => .remote f n { q with id := q.id + r.ids, fromGroup := q.fromGroup + r.ids } d l m rep got ok
      | .coll f d b => .coll f d { b with since := r.tick b.since }
      | k => k }

/-- A record's owner. -/
def RecordOwner.renumber (d : Nat) : RecordOwner → RecordOwner
  | .slot g tok => .slot g (moveTok d tok)
  | .engine g tok op => .engine g (moveTok d tok) (op + d)
  | w => w

/-- A core's image. -/
def CoreImage.renumber (r : Rebase) (im : CoreImage) : CoreImage :=
  { im with groups := mapVals im.groups (Group.renumber r), threads := mapVals im.threads (Thread.renumber r)
            teams := moveKeys r.ids im.teams (fun t => { t with launch := t.launch + r.ids })
            macros := mapVals im.macros (fun m => { m with team := m.team + r.ids })
            marks := mapVals im.marks (fun ms => ms.map (SyncMark.renumber r))
            ops := moveKeys r.ids im.ops (Op.renumber r) }

/-- A context as it stands on the device that takes its image: configured, with the state of the image (R309). -/
def Context.imported (r : Rebase) (c : Context) : Context :=
  { c with state := .configured, pairs := [], image := c.image.map (CoreImage.renumber r), slot := c.slot.map (· + r.ids)
           deffullAt := c.deffullAt.map r.cycle, ringfullAt := c.ringfullAt.map r.cycle
           faults := c.faults.map (fun p => { p with who := p.who.renumber r.ids }) }

/-- A frame of an image is taken over with its ownership entry. -/
def State.importFrame (s : State) (f : Nat × Nat × List Byte) : State :=
  let s := s.zeroFrame f.1
  { s with mem := Mem.writeBytes s.mem (65536 * f.1) (f.2.2.take 65536) }.setFrameWord f.1 f.2.1

/-- IMPORT (R309, R320, R364): a wrong key is status 6, a wrong hash 7, and both leave the device as it was; an accepted image is a configured
context whose state is that of the image. Busy before the dawn sequence has ended, where the id is in use, and where a frame is already
assigned, unless it is one of the same share group. -/
def execImageImport (image : NativeImage) (s : State) : Out :=
  let clash (f : Nat × Nat × List Byte) : Bool :=
    !frameGiven f.1 || (decide (0x8000 ≤ s.frameWord f.1) && !(s.frameWord f.1 == f.2.1 && f.2.1 / 0x4000 % 2 == 1))
  if image.key ≠ s.imageKey then .next (s.answered 7 image.ctx 6)
  else if image.hash ≠ sha512 { image with hash := [] }.bytes then .next (s.answered 7 image.ctx 7)
  else if s.hub.dawn < 6 || (s.ctx? image.ctx).isSome || image.ctx = 0 || 4096 ≤ image.ctx || image.frames.any clash then
    .next (s.answered 7 image.ctx 1)
  else
    let d := s.nextId
    let s := image.frames.foldl State.importFrame s
    .next ({ s with
      ctxs := FMap.put s.ctxs image.ctx (image.context.imported { ids := d, src := image.cycle, dst := s.now }), nextId := d + image.nextId
      launches := putAll s.launches (moveKeys d image.launches id) }.answered 7 image.ctx 0)

/-! Translations, frames, pairs, reports (R275, R308, R365, R369) -/

/-- TRANSLATION_INVALIDATE (R275): the context's cached translations, and the ownership entries cached with them, are dropped. -/
def execTranslationInvalidate (ctx : Nat) (s : State) : Out :=
  .next ({ s with tlb := s.tlb.filter (fun (t : TlbEntry) => t.ctx != ctx) }.answered 13 ctx 0)

/-- FRAME_TEST (R365): a quarantined frame is rewritten and checked; it is free again only if the check passes. -/
def execFrameTest (frame : Nat) (pass : Bool) (s : State) : Out :=
  if s.frameWord frame ≠ 0x8000 then .next (s.answered 8 0 1)
  else .next ((if pass then (s.zeroFrame frame).setFrameWord frame 0 else s).answered 8 0 0)

/-- SELF_TEST (R369): a pass clears SUSPECT. -/
def execSelfTest (pair : Nat) (pass : Bool) (s : State) : Out :=
  .next ((if pass then s.modHub (fun h => { h with suspect := NSet.del h.suspect pair }) else s).answered 9 0 0)

/-- Bytes 0x00 to 0xFF of a usage report (R308). -/
def State.reportBody (s : State) (owner : Nat) (nonce : List Byte) : List Byte :=
  let u := (FMap.at {} s.owners owner).usage
  leBytes 4 1 ++ leBytes 4 owner ++ leBytes 16 Config.serial.toNat ++ leBytes 8 s.hub.coldResets ++ nonce ++ leBytes 8 s.ticks ++
  (List.range 16).flatMap (fun k => leBytes 8 (FMap.at 0 u k).toNat) ++ List.replicate 56 0

/-- Usage counter 5 grows by what the system cores have sent over Ethernet for the owner's contexts, which no step of the model shows: a free
value, taken when a report samples it (R307, log 17). -/
def State.sampleUsage (s : State) (owner : Nat) : State :=
  let (v, s) := s.draw
  s.addUsage owner 5 (v.toNat % 2 ^ 40)

/-- The 512-byte signature of a report over its SHA-512 (R308), made with a key that the model does not hold (log 9). -/
def signature (body : List Byte) : List Byte := (Config.sign (sha512 body) ++ List.replicate 512 0).take 512

/-- USAGE_REPORT (R308): 768 bytes, signed over the SHA-512 of the first 256. -/
def execUsageReport (owner : Nat) (nonce : List Byte) (s : State) : Out :=
  stepOut s (do
    need (nonce.length == 32) "a nonce has 32 bytes"
    let s := s.sampleUsage owner
    let body := s.reportBody owner nonce
    pure ((s.modHub (fun h => { h with reports := h.reports ++ [body ++ signature body] })).answered 12 0 0))

/-! Register writes (R9) -/

/-- Whether a context's words may be written (R99, R301): it is configured or saved, and no restore holds pairs for it. -/
def State.wordsOpen (s : State) (ctx : Nat) : Bool :=
  (match s.ctx? ctx with | some c => c.state == .configured || c.state == .saved | none => false) &&
  s.hub.restores.all (fun r => r.ctx != ctx || !r.held)

/-- BOUND_WRITE (R99): refused with busy while the context holds a pair. -/
def execBoundWrite (ctx : Nat) (value : W64) (s : State) : Out :=
  if s.wordsOpen ctx then .next ((s.modCtx ctx (fun c => { c with bound := (bits value 0 25).toNat })).answered 10 ctx 0)
  else .next (s.answered 10 ctx 1)

/-- The bits of a slice word that software writes (R304): LENT, LENDER, DEADLINE. -/
def sliceMask : W64 := 0x8000003F01FFFFFF

/-- SLICE_WRITE (R304, R369): only while no context holds the pair; LENT on a SUSPECT pair is status 9. -/
def execSliceWrite (pair : Nat) (value : W64) (s : State) : Out :=
  if value.getLsbD 63 && s.hub.suspect.contains pair then .next (s.answered 11 0 9)
  else if s.pairHeld pair then .next (s.answered 11 0 1)
  else .next ((s.modHub (fun h => { h with slices := FMap.put h.slices pair (value &&& sliceMask) })).answered 11 0 0)

/-- The bits of QCFG that are not reserved (R261). -/
def qcfgMask : W64 := 0x800FFF3F3F000000

/-- QCFG_WRITE (R261): it takes effect only while EN is 0. -/
def execQcfgWrite (queue : Nat) (value : W64) (s : State) : Out :=
  stepOut s (do
    need (queue < 64) "no such queue"
    pure (if (FMap.at {} s.queues queue).qcfg.getLsbD 63 then s else s.modQueue queue (fun q => { q with qcfg := value &&& qcfgMask })))

/-- QTAIL_WRITE (R262). -/
def execQtailWrite (queue : Nat) (value : W64) (s : State) : Out :=
  stepOut s (do
    need (queue < 64) "no such queue"
    pure (s.modQueue queue (fun q => { q with qtail := bits value 0 16 })))

/-- A context word, where it may be written (R301). -/
def State.ctxWrite (s : State) (ctx : Nat) (f : Context → Context) : State :=
  if s.wordsOpen ctx then (s.modCtx ctx f).answered 14 ctx 0 else s.answered 14 ctx 1

/-- A tenant table word written under its access codes (R324). -/
def Tenant.write (t : Tenant) (index : Nat) (v : W64) : Tenant :=
  let half (x : BitVec 128) (hi : Bool) : BitVec 128 := if hi then v ++ (bits x 0 64) else (bits x 64 64) ++ v
  match index with
  | 0 => { t with w0 := v &&& 0x80000000FFFF003F }
  | 2 => { t with pfx0 := half t.pfx0 false }
  | 3 => { t with pfx0 := half t.pfx0 true }
  | 4 => { t with pfx1 := half t.pfx1 false }
  | 5 => { t with pfx1 := half t.pfx1 true }
  | 6 => { t with plens := bits v 0 16 }
  | _ =>
    if 8 ≤ index && index < 16 then
      let key := if t.key.length = 64 then t.key else List.replicate 64 (0 : Byte)
      { t with key := patchBytes key (8 * (index - 8)) (leBytes 8 v.toNat) }
    else t

/-- Clears the bits of COUNT that are written as 1 (R9, R366). -/
def clearCount (old v : W64) : W64 := old &&& ~~~(v &&& 0xFFFFFFFFFFFF)

/-- The management unit gives a frame to a context or a share group (R276): reserved bits, and [11:4] of a shared entry, stay zero, and the
table's own frames are never given. The contexts that reached the frame lose their cached translations first (R275, R340). -/
def State.ownFrame (s : State) (f e : Nat) : State :=
  if !frameGiven f then s
  else
    let old := s.frameWord f
    let e := if e / 0x4000 % 2 = 1 then e / 0x2000 * 0x2000 + e % 16 else e / 0x2000 * 0x2000 + e % 0x1000
    { s with tlb := s.tlb.filter (fun (t : TlbEntry) => !framePasses s t.ctx old false) }.setFrameWord f e

/-- The bits of TROOT that are not reserved (R271). -/
def trootMask : W64 := 0x000FFFFFFFFFF000

/-- The bits of DIRBASE that are not reserved (R284). -/
def dirbaseMask : W64 := 0x000FFFFFFFFFFFF0

/-- REGISTER_WRITE (R9, R80, R235, R246, R248, R261, R263, R271, R276, R284, R301, R323, R324, R356, R358, R366): any management or context
register without a behaviour of its own; reserved and read-only bits keep their values. ASSIGN's status 8 for a TROOT or DIRBASE that is not
aligned speaks of what was written, which the words, whose low bits read as zero, do not show (R8, R364, log 100). -/
def execRegisterWrite (r : MgmtReg) (value : W64) (s : State) : Out :=
  .next (match r with
  | .fgrp ctx => s.ctxWrite ctx (fun c => { c with fgrp := bits value 0 16 })
  | .troot ctx => s.ctxWrite ctx (fun c => { c with troot := value &&& trootMask, skewed := (value &&& ~~~trootMask != 0, c.skewed.2) })
  | .handler ctx => s.ctxWrite ctx (fun c => { c with handler := value })
  | .dirbase ctx => s.ctxWrite ctx (fun c => { c with dirbase := value &&& dirbaseMask, skewed := (c.skewed.1, value &&& ~~~dirbaseMask != 0) })
  | .dirlog2 ctx => s.ctxWrite ctx (fun c => { c with dirlog2 := value &&& 0x1F })
  | .sharemask ctx => s.modCtx ctx (fun c => { c with sharemask := bits value 0 16 })
  | .sliceList ctx l => s.modCtx ctx (fun c => { c with slices := l })
  | .freed ctx => s.modCtx ctx (fun c => { c with freed := value })
  | .defer ctx => s.modCtx ctx (fun c => { c with defer := value })
  | .share ctx => s.modCtx ctx (fun c => { c with share := value &&& shareMask })
  | .poolFrame ctx => if frameGiven value.toNat then s.modCtx ctx (fun c => { c with pool := c.pool ++ [value.toNat] }) else s
  | .frameOwner f => s.ownFrame f (bits value 0 16).toNat
  | .qbase q => if (FMap.at {} s.queues q).qcfg.getLsbD 63 then s else s.modQueue q (fun k => { k with qbase := value })
  | .ownerWord o => s.modOwner o (fun w => { w with configured := true, word := value &&& 0x3FF })
  | .quantum => s.modHub (fun h => { h with quantum := value &&& 0xFFFF })
  | .lfport => s.modHub (fun h => { h with lfport := (bits value 0 16).toNat })
  | .ctimeout => s.modHub (fun h => { h with ctimeout := value.toNat })
  | .logbase => s.modHub (fun h => { h with logbase := value })
  | .tenantWord e k => s.modHub (fun h => { h with tenants := FMap.put h.tenants e ((FMap.at {} h.tenants e).write k value) })
  | .tenantReject e => s.modHub (fun h =>
      let t : Tenant := FMap.at {} h.tenants e
      { h with tenants := FMap.put h.tenants e { t with reject := clearCount t.reject value } }))

/-! The L2 mode (R80, R81) -/

/-- L2_MODE_WRITE (R81): a change is asked for; it waits until no context is resident, and no context is assigned meanwhile. Software
asks for shared or partitioned mode only. -/
def execL2ModeWrite (mode : L2Mode) (s : State) : Out :=
  .next (if mode == .dawn || (mode == s.hub.l2mode && s.hub.l2want.isNone) then s else s.modHub (fun h => { h with l2want := some mode }))

/-- L2_WRITEBACK_COMPLETE (R81): every slice is written back and invalidated, the mode changes, and contexts resume. -/
def execL2WritebackComplete (s : State) : Out :=
  stepOut s (do
    let m ← getSome s.hub.l2want "no change of mode is under way"
    need (s.ctxs.all (fun c => c.2.pairs.isEmpty) && s.hub.restores.all (fun r => !r.held)) "a context is resident"
    pure (((s.l2Flush (fun _ _ => true)).modHub (fun h => { h with l2mode := m, l2want := none })).startWaiting))

end Sys2Proof.Machine
end

