-- ==== Sys2Proof/Machine/Platform.lean ====
section
/-! DEFINITION. The platform: launch frames (R323 to R325, R366), the dawn sequence and recovery (R320, R321), thermal points (R319, R368),
ECC (R349), and the release of share groups (R311). -/
namespace Sys2Proof.Machine

open Sys2Proof

/-! Launch frames (R323 to R325, R366) -/

/-- A word of a launch frame's payload. -/
def frameWordAt (bs : List Byte) (k : Nat) : W64 := BitVec.ofNat 64 (leNat ((bs.drop (8 * k)).take 8))

/-- Whether an address matches a prefix of a length (R324); a length of 0 disables it. -/
def prefixHit (src pfx : BitVec 128) (len : Nat) : Bool := len != 0 && decide (len ≤ 128) && src >>> (128 - len) == pfx >>> (128 - len)

/-- Ticks of one millisecond (R5). -/
def msTicks : Nat := 2000000

/-- Ticks-weighted frames that an entry's RATE still holds against it (R324): each accepted frame adds a millisecond's worth of RATE, and
RATE of it passes with every tick. -/
def Tenant.held (t : Tenant) (now : Nat) : Nat := t.count - (bits t.w0 16 16).toNat * (now - t.window)

/-- Whether RATE allows a frame (R324, R325). -/
def Tenant.rateOk (t : Tenant) (now : Nat) : Bool :=
  let rate := (bits t.w0 16 16).toNat
  rate == 0 || decide (t.held now + msTicks ≤ rate * msTicks)

/-- The number in [63:60] of the reject word of the first check that a frame fails (R325, R366). -/
def State.frameReason (s : State) (src : BitVec 128) (bs : List Byte) : Option Nat :=
  let w := frameWordAt bs
  let t : Tenant := FMap.at {} s.hub.tenants (bits (w 0) 32 12).toNat
  let qn := (bits (w 0) 0 6).toNat
  let q := FMap.at {} s.queues qn
  let teams := (bits (w 4) 0 33).toNat
  if bits (w 0) 48 16 ≠ 1 ∨ bits (w 0) 44 4 ≠ 0 ∨ bits (w 0) 6 26 ≠ 0 ∨ bits (w 4) 33 31 ≠ 0 then some 1
  else if !t.w0.getLsbD 63 then some 2
  else if !(prefixHit src t.pfx0 (bits t.plens 0 8).toNat || prefixHit src t.pfx1 (bits t.plens 8 8).toNat) then some 3
  else if qn ≠ (bits t.w0 0 6).toNat then some 4
  else if (hmac512 t.key (bs.take 40)).take 32 ≠ (bs.drop 40).take 32 then some 5
  else if (w 1).toNat ≤ t.lastSeq.toNat then some 6
  else if !t.rateOk s.ticks then some 7
  else if teams = 0 ∨ 2 ^ 32 < teams then some 8
  else if (q.qtail + 1 - q.qhead).toNat % 2 ^ q.log2n = 0 then some 9
  else none

/-- A dropped frame (R307, R325, R366): the reject word, the owner's counters 6 and 15, an event at most once per second for an entry. -/
def State.rejectFrame (s : State) (entry why : Nat) : State :=
  let t : Tenant := FMap.at {} s.hub.tenants entry
  let n := min ((bits t.reject 0 48).toNat + 1) (2 ^ 48 - 1)
  let word : W64 := BitVec.ofNat 64 (why * 2 ^ 60 + n)
  let due := match t.rejectAt with | some a => decide (a + oneSecond ≤ s.now) | none => true
  let t' : Tenant := { t with reject := word, rejectAt := if due then some s.now else t.rejectAt }
  let s := s.modHub (fun (h : Hub) => { h with tenants := FMap.put h.tenants entry t' })
  let s := if due then s.midnight 0x0D 0 0xFF 0 (BitVec.ofNat 64 entry) word else s
  let q : Queue := FMap.at {} s.queues (bits t.w0 0 6).toNat
  if q.owner != 0 then (s.addUsage q.owner 15 1).addUsage q.owner 6 72 else s

/-- An accepted frame (R325): the record is written at QTAIL, which advances. -/
def State.acceptFrame (s : State) (bs : List Byte) : State :=
  let w := frameWordAt bs
  let entry := (bits (w 0) 32 12).toNat
  let t : Tenant := FMap.at {} s.hub.tenants entry
  let qn := (bits (w 0) 0 6).toNat
  let q := FMap.at {} s.queues qn
  let held := if bits t.w0 16 16 = 0 then 0 else t.held s.ticks + msTicks
  let t' : Tenant := { t with lastSeq := w 1, count := held, window := s.ticks }
  let s := s.modHub (fun (h : Hub) => { h with tenants := FMap.put h.tenants entry t' })
  let a := q.qbase + BitVec.ofNat 64 (32 * (q.qtail.toNat % 2 ^ q.log2n))
  let rec4 : List W64 := [w 2, w 3, (bits (w 4) 0 33).setWidth 64, 0]
  let s := (rec4.mapIdx (fun k v => (k, v))).foldl (fun (s : State) kv => (s.hubWrite q.ctx (a + BitVec.ofNat 64 (8 * kv.1)) 8 kv.2.toNat).1) s
  (s.modQueue qn (fun q => { q with qtail := q.qtail + 1 })).addUsage q.owner 6 72

/-- LAUNCH_FRAME (R323, R325, R366): a datagram reaches the network interface; `port` is its UDP destination port. One that is no launch
frame has no effect here. -/
def execLaunchFrame (src : BitVec 128) (port : Nat) (payload : List Byte) (s : State) : Out :=
  stepOut s (do
    need (decide (6 ≤ s.hub.dawn)) "the Ethernet ports are down"
    if port ≠ s.hub.lfport || payload.length ≠ 72 then pure s
    else match s.frameReason src payload with
      | some why => pure (s.rejectFrame (bits (frameWordAt payload 0) 32 12).toNat why)
      | none => pure (s.acceptFrame payload))

/-! Reset, recovery and power (R307, R320, R321, R370) -/

/-- The machine that a reset leaves before the dawn sequence: flash, the count of cold resets, device time and the model's own fields are
kept; a warm reset keeps the midnight record and the usage counters (R307, R320, R370). -/
def State.resetTo (s : State) (warm : Bool) : State :=
  let h := s.hub
  let hub : Hub := { flash := h.flash, flashWriting := h.flashWriting, flashBad := h.flashBad, coldResets := h.coldResets,
                     midnight := if warm then h.midnight else [], mnhead := if warm then h.mnhead else 0 }
  { State.reset with now := s.now, agenda := s.agenda, free := s.free, nextId := s.nextId, hub,
                     owners := if warm then s.owners.map (fun (o : Nat × Owner) => (o.1, { usage := o.2.usage, debited := o.2.debited })) else [] }

/-- Whether step 1 of the dawn sequence accepts the image in flash (R320, R321): it is whole and verifies. -/
def Hub.imageOk (h : Hub) : Bool := !h.flashBad && Config.verify h.flash

/-- The dawn sequence (R320, R321): with an image that step 1 has read and verified steps 2 to 6 run; otherwise the hub stays in the recovery loader. The reason of the
firmware event is not stated: a free value. -/
def State.dawnRun (s : State) (warm readOk : Bool) (devid : BitVec 9) (firmware : W64) : State :=
  if readOk && s.hub.imageOk then
    (s.modHub (fun h => { h with dawn := 6, recovery := false, l2mode := .shared, portsUp := List.range 16, devid, firmware })).midnight
      0x01 0 0xFF 0 (if warm then 1 else 0) firmware
  else
    let (v, s) := s.draw
    (s.modHub (fun h => { h with dawn := 0, recovery := true, l2mode := .dawn })).midnight 0x0E 0 0xFF 3 1 v

/-- Flash after a completed write (R321). -/
def Hub.flashed (h : Hub) : Hub :=
  match h.flashWriting with
  | some im => { h with flash := im, flashWriting := none, flashBad := false }
  | none => h

/-- COLD_RESET (R320, R321): a write of a replacement image is complete before the loader resets; a partly written image fails step 1. -/
def execColdReset (readOk : Bool) (devid : BitVec 9) (firmware : W64) (s : State) : Out :=
  .next (((s.modHub (fun h => { h.flashed with coldResets := h.coldResets + 1 })).resetTo false).dawnRun false readOk devid firmware)

/-- WARM_RESET (R320, R321): none comes while the loader writes an image, which ends in a cold reset. -/
def execWarmReset (readOk : Bool) (devid : BitVec 9) (firmware : W64) (s : State) : Out :=
  stepOut s (do
    need s.hub.flashWriting.isNone "the loader writes an image"
    pure ((s.resetTo true).dawnRun true readOk devid firmware))

/-- RECOVERY_IMAGE (R321): an image that verifies is being written to flash, and a cold reset follows; another is discarded. -/
def execRecoveryImage (image : List Byte) (s : State) : Out :=
  stepOut s (do
    need (s.hub.recovery && s.hub.flashWriting.isNone) "the recovery loader does not wait for an image"
    pure (if Config.verify image then s.modHub (fun h => { h with flashWriting := some image }) else s))

/-- POWER_LOSS (R321): everything but flash is lost; a flash write under way stops after `keep` bytes, and its image fails step 1. -/
def execPowerLoss (keep : Nat) (s : State) : Out :=
  let h := s.hub
  let s := match h.flashWriting with
    | some im => s.modHub (fun h => { h with flash := im.take keep ++ h.flash.drop keep, flashWriting := none,
                                             flashBad := true })
    | none => s
  .next (s.resetTo false)

/-! Thermal points (R319, R368) -/

/-- The dies that a sensor stands for: its own, a stack's, or both for the hub. -/
def sensorDies (k : Nat) : List Nat :=
  if k < 2 then [k] else if k < 6 then [0] else if k < 10 then [1] else [0, 1]

/-- Whether a sensor is of a stack. -/
def isStack (k : Nat) : Bool := 2 ≤ k && k < 10

/-- Whether a reading in °C × 16 lies above a threshold, 10 °C lower for a stack (R368). -/
def above (r : Reading) (deg : Int) : Bool := decide ((deg - (if isStack r.sensor then 10 else 0)) * 16 < r.temp)

/-- Contexts that hold a pair on a die, those among them that are being restored there. -/
def State.ctxsOnDie (s : State) (die : Nat) : List Nat :=
  (s.ctxs.filter (fun c => c.2.pairs.any (fun p => p / 40 == die) ||
    s.hub.restores.any (fun r => r.ctx == c.1 && r.held && r.pairs.any (fun p => p / 40 == die)))).map Prod.fst

/-- The groups and threads of a context in the save area are fatal (R346, R368): they end at the restore. -/
def State.loseSaved (s : State) (ctx : Nat) : State :=
  match s.ctx? ctx with
  | none => s
  | some c =>
    let gs := c.image.flatMap (fun im => (im.groups.filter (fun g => !g.2.fatal)).map Prod.fst)
    let s := gs.foldl (fun s g => (s.midnight 0x04 ctx (g / 64) 3 0 0).dropRecords ctx (fun p => p.who.ofGroup g)) s
    s.modCtx ctx (fun c => { c with image := c.image.map (fun im =>
      { im with groups := mapVals im.groups Group.stopped, threads := mapVals im.threads (fun th => { th with fatal := true, slot := {} }) }) })

/-- A context on a die that has stopped hard is lost (R368): each of its groups, and its teams' threads, end as fatal, those in the save area
too. -/
def State.loseContext (s : State) (ctx : Nat) : State :=
  let s := s.loseSaved ctx
  let ts := (s.threads.filter (fun t => t.2.ctx == ctx)).map Prod.fst
  let s := ts.foldl (fun s t => s.fatalTeam t 0) s
  let gs := (s.groups.filter (fun g => g.2.ctx == ctx && !g.2.fatal)).map Prod.fst
  gs.foldl (fun s g => s.fatalGroup g 0) s

/-- What one reading does (R368). -/
def State.thermal (s : State) (r : Reading) : State :=
  let event (s : State) (sev : Nat) : State := s.midnight 0x0A 0 0xFF sev (BitVec.ofNat 64 r.sensor) (BitVec.ofInt 64 r.temp)
  let dies := sensorDies r.sensor
  let s := s.modHub (fun h => { h with sensors := FMap.put h.sensors r.sensor r.temp.toNat })
  if above r 115 then
    let s := (event s 3).dieCounters dies false
    let s := s.modHub (fun h => { h with stopped := addAll h.stopped dies, tripped := h.tripped.filter (fun d => !dies.contains d) })
    (addAll [] (dies.flatMap s.ctxsOnDie)).foldl State.loseContext s
  else if above r 105 then
    let s := event s 2
    let s := s.modHub (fun h => { h with tripped := addAll h.tripped (dies.filter (fun d => !h.stopped.contains d)) })
    let go (s : State) (c : Nat) : State := match s.ctx? c with | some x => s.startVacate c x.pairs [] [] false false | none => s
    ((addAll [] (dies.flatMap s.ctxsOnDie)).foldl go s).stopTripped
  else if above r 95 then event s 0
  else s

/-- Whether every sensor of a die reads below its restart point (R368); one that has not been read yet does. -/
def State.dieCool (s : State) (die : Nat) : Bool :=
  let low (k : Nat) : Bool := decide (FMap.at 0 s.hub.sensors k < (if isStack k then 75 else 85) * 16)
  low die && ((List.range 4).map (· + 2 + 4 * die)).all low

/-- THERMAL_SAMPLE (R368): the comparison of a millisecond. -/
def execThermalSample (readings : List Reading) (s : State) : Out :=
  let s := readings.foldl State.thermal s
  .next ([0, 1].foldl (fun (s : State) d => s.modHub (fun h =>
    { h with coolSince := if s.dieCool d then (if (FMap.find h.coolSince d).isSome then h.coolSince else FMap.put h.coolSince d s.now)
                          else FMap.del h.coolSince d })) s)

/-- DIE_RESTART (R368): the die's sensors have stayed below their restart points for a second. -/
def execDieRestart (die : Nat) (s : State) : Out :=
  stepOut s (do
    need (s.hub.stopped.contains die) "the die's clock runs"
    let t ← getSome (FMap.find s.hub.coolSince die) "the die is too warm"
    need (decide (t + oneSecond ≤ s.now)) "the second has not passed"
    pure ((s.modHub (fun h => { h with stopped := NSet.del h.stopped die })).dieCounters [die] true).startWaiting)

/-! ECC and share groups (R311, R349) -/

/-- ECC_ERROR (R349): a corrected error is counted and logged once a second, a clean cached line is fetched again (log 104), and any other line is
poisoned. -/
def execEccError (e : EccEvent) (s : State) : Out :=
  let log (s : State) (sev pa : Nat) : State := s.midnight 0x06 0 0xFF sev (BitVec.ofNat 64 (channelOf pa)) (BitVec.ofNat 64 pa)
  .next (match e with
  | .corrected pa =>
    let ch := channelOf pa
    let due := match FMap.find s.hub.eccAt ch with | some t => decide (t + oneSecond ≤ s.now) | none => true
    let s := s.modHub (fun h => { h with eccCount := FMap.put h.eccCount ch (FMap.at 0 h.eccCount ch + 1) })
    if due then log (s.modHub (fun h => { h with eccAt := FMap.put h.eccAt ch s.now })) 1 pa else s
  | .cleanLine core path pa =>
    let s := s.recall (pa / 64)
    let fresh := Mem.readBytes s.mem (pa / 64 * 64) 64
    log { s with caches := s.caches.map (fun (l : CacheLine) =>
      if l.core == core && l.path == path && l.line == pa / 64 then { l with data := fresh } else l) } 2 pa
  | .cleanL2 pa => match s.l2.find? (fun x => x.1 % 2 ^ 60 == pa / 64 && !x.2.dirty) with
    | some x => log (s.addUsage (s.ownerOf x.2.ctx) 2 64) 2 pa
    | none => s
  | .uncorrectable pa => log { s with poison := FMap.put s.poison (pa / 64) false, rewrites := FMap.del s.rewrites (pa / 64) } 2 pa)

/-- SHARE_GROUP_RELEASE (R311): the frames of a share group are zeroed and cleared to VALID 0. -/
def execShareGroupRelease (grp : Nat) (s : State) : Out :=
  let frames := s.framesWith (fun e => 0x8000 ≤ e && e / 0x4000 % 2 == 1 && e % 16 == grp)
  .next (frames.foldl (fun (s : State) f => (s.zeroFrame f).setFrameWord f 0) s)

end Sys2Proof.Machine
end

