-- ==== Sys2Proof/Machine/Dispatch.lean ====
section
/-! DEFINITION. One arm per instruction: each calls the meaning of its own. -/
namespace Sys2Proof.Machine

open Sys2Proof

def exec (i : Instr) (s : State) : Host.Outcome State Fault Refusal :=
  match i with
  | .nopShort f => Sys2Proof.Machine.execNopShort f s
  | .nopExt f => Sys2Proof.Machine.execNopExt f s
  | .bra f => Sys2Proof.Machine.execBra f s
  | .brd f => Sys2Proof.Machine.execBrd f s
  | .brx f => Sys2Proof.Machine.execBrx f s
  | .call f => Sys2Proof.Machine.execCall f s
  | .ret f => Sys2Proof.Machine.execRet f s
  | .mjoin f => Sys2Proof.Machine.execMjoin f s
  | .joinShort f => Sys2Proof.Machine.execJoinShort f s
  | .joinExt f => Sys2Proof.Machine.execJoinExt f s
  | .exitShort f => Sys2Proof.Machine.execExitShort f s
  | .exitExt f => Sys2Proof.Machine.execExitExt f s
  | .yieldShort f => Sys2Proof.Machine.execYieldShort f s
  | .yieldExt f => Sys2Proof.Machine.execYieldExt f s
  | .yieldExpiry a => Sys2Proof.Machine.execYieldExpiry a s
  | .setfmt f => Sys2Proof.Machine.execSetfmt f s
  | .getfmt f => Sys2Proof.Machine.execGetfmt f s
  | .trap f => Sys2Proof.Machine.execTrap f s
  | .tret f => Sys2Proof.Machine.execTret f s
  | .sreg f => Sys2Proof.Machine.execSreg f s
  | .nap f => Sys2Proof.Machine.execNap f s
  | .napExpiry a => Sys2Proof.Machine.execNapExpiry a s
  | .movShort f => Sys2Proof.Machine.execMovShort f s
  | .movExt f => Sys2Proof.Machine.execMovExt f s
  | .sel f => Sys2Proof.Machine.execSel f s
  | .addShort f => Sys2Proof.Machine.execAddShort f s
  | .addExt f => Sys2Proof.Machine.execAddExt f s
  | .subShort f => Sys2Proof.Machine.execSubShort f s
  | .subExt f => Sys2Proof.Machine.execSubExt f s
  | .mulShort f => Sys2Proof.Machine.execMulShort f s
  | .mulExt f => Sys2Proof.Machine.execMulExt f s
  | .mulh f => Sys2Proof.Machine.execMulh f s
  | .mad f => Sys2Proof.Machine.execMad f s
  | .div f => Sys2Proof.Machine.execDiv f s
  | .rem f => Sys2Proof.Machine.execRem f s
  | .minShort f => Sys2Proof.Machine.execMinShort f s
  | .minExt f => Sys2Proof.Machine.execMinExt f s
  | .maxShort f => Sys2Proof.Machine.execMaxShort f s
  | .maxExt f => Sys2Proof.Machine.execMaxExt f s
  | .abs f => Sys2Proof.Machine.execAbs f s
  | .neg f => Sys2Proof.Machine.execNeg f s
  | .andShort f => Sys2Proof.Machine.execAndShort f s
  | .andExt f => Sys2Proof.Machine.execAndExt f s
  | .orShort f => Sys2Proof.Machine.execOrShort f s
  | .orExt f => Sys2Proof.Machine.execOrExt f s
  | .xorShort f => Sys2Proof.Machine.execXorShort f s
  | .xorExt f => Sys2Proof.Machine.execXorExt f s
  | .andn f => Sys2Proof.Machine.execAndn f s
  | .not f => Sys2Proof.Machine.execNot f s
  | .shlShort f => Sys2Proof.Machine.execShlShort f s
  | .shlExt f => Sys2Proof.Machine.execShlExt f s
  | .shrShort f => Sys2Proof.Machine.execShrShort f s
  | .shrExt f => Sys2Proof.Machine.execShrExt f s
  | .sarShort f => Sys2Proof.Machine.execSarShort f s
  | .sarExt f => Sys2Proof.Machine.execSarExt f s
  | .rot f => Sys2Proof.Machine.execRot f s
  | .bfe f => Sys2Proof.Machine.execBfe f s
  | .bfi f => Sys2Proof.Machine.execBfi f s
  | .bit f => Sys2Proof.Machine.execBit f s
  | .cmp f => Sys2Proof.Machine.execCmp f s
  | .lea f => Sys2Proof.Machine.execLea f s
  | .cvt f => Sys2Proof.Machine.execCvt f s
  | .shfl f => Sys2Proof.Machine.execShfl f s
  | .vote f => Sys2Proof.Machine.execVote f s
  | .redg f => Sys2Proof.Machine.execRedg f s
  | .scan f => Sys2Proof.Machine.execScan f s
  | .mop f => Sys2Proof.Machine.execMop f s
  | .faddShort f => Sys2Proof.Machine.execFaddShort f s
  | .faddExt f => Sys2Proof.Machine.execFaddExt f s
  | .fsubShort f => Sys2Proof.Machine.execFsubShort f s
  | .fsubExt f => Sys2Proof.Machine.execFsubExt f s
  | .fmulShort f => Sys2Proof.Machine.execFmulShort f s
  | .fmulExt f => Sys2Proof.Machine.execFmulExt f s
  | .fma f => Sys2Proof.Machine.execFma f s
  | .fminShort f => Sys2Proof.Machine.execFminShort f s
  | .fminExt f => Sys2Proof.Machine.execFminExt f s
  | .fmaxShort f => Sys2Proof.Machine.execFmaxShort f s
  | .fmaxExt f => Sys2Proof.Machine.execFmaxExt f s
  | .fcmp f => Sys2Proof.Machine.execFcmp f s
  | .fdiv f => Sys2Proof.Machine.execFdiv f s
  | .fsqrt f => Sys2Proof.Machine.execFsqrt f s
  | .rcpa f => Sys2Proof.Machine.execRcpa f s
  | .rsqa f => Sys2Proof.Machine.execRsqa f s
  | .exp2a f => Sys2Proof.Machine.execExp2a f s
  | .log2a f => Sys2Proof.Machine.execLog2a f s
  | .sina f => Sys2Proof.Machine.execSina f s
  | .cosa f => Sys2Proof.Machine.execCosa f s
  | .frnd f => Sys2Proof.Machine.execFrnd f s
  | .fcls f => Sys2Proof.Machine.execFcls f s
  | .dot2 f => Sys2Proof.Machine.execDot2 f s
  | .fscl f => Sys2Proof.Machine.execFscl f s
  | .rnc f => Sys2Proof.Machine.execRnc f s
  | .rnx f => Sys2Proof.Machine.execRnx f s
  | .rnmad f => Sys2Proof.Machine.execRnmad f s
  | .pln f => Sys2Proof.Machine.execPln f s
  | .upl f => Sys2Proof.Machine.execUpl f s
  | .pldot f => Sys2Proof.Machine.execPldot f s
  | .ldShort f => Sys2Proof.Machine.execLdShort f s
  | .ldExt f => Sys2Proof.Machine.execLdExt f s
  | .stShort f => Sys2Proof.Machine.execStShort f s
  | .stExt f => Sys2Proof.Machine.execStExt f s
  | .ldlShort f => Sys2Proof.Machine.execLdlShort f s
  | .ldlExt f => Sys2Proof.Machine.execLdlExt f s
  | .stlShort f => Sys2Proof.Machine.execStlShort f s
  | .stlExt f => Sys2Proof.Machine.execStlExt f s
  | .ldc f => Sys2Proof.Machine.execLdc f s
  | .smp f => Sys2Proof.Machine.execSmp f s
  | .ldt f => Sys2Proof.Machine.execLdt f s
  | .stt f => Sys2Proof.Machine.execStt f s
  | .pref f => Sys2Proof.Machine.execPref f s
  | .atom f => Sys2Proof.Machine.execAtom f s
  | .red f => Sys2Proof.Machine.execRed f s
  | .fence f => Sys2Proof.Machine.execFence f s
  | .pfence f => Sys2Proof.Machine.execPfence f s
  | .cmap f => Sys2Proof.Machine.execCmap f s
  | .cunmap f => Sys2Proof.Machine.execCunmap f s
  | .cflush f => Sys2Proof.Machine.execCflush f s
  | .binit f => Sys2Proof.Machine.execBinit f s
  | .arrive f => Sys2Proof.Machine.execArrive f s
  | .waitb f => Sys2Proof.Machine.execWaitb f s
  | .waitbWake a => Sys2Proof.Machine.execWaitbWake a s
  | .drain f => Sys2Proof.Machine.execDrain f s
  | .pin f => Sys2Proof.Machine.execPin f s
  | .unpin f => Sys2Proof.Machine.execUnpin f s
  | .reclaim f => Sys2Proof.Machine.execReclaim f s
  | .cpy f => Sys2Proof.Machine.execCpy f s
  | .cpyY f => Sys2Proof.Machine.execCpyY f s
  | .cpyYReactivate a => Sys2Proof.Machine.execCpyYReactivate a s
  | .gth f => Sys2Proof.Machine.execGth f s
  | .sct f => Sys2Proof.Machine.execSct f s
  | .kick f => Sys2Proof.Machine.execKick f s
  | .requestEntryStart kick => Sys2Proof.Machine.execRequestEntryStart kick s
  | .requestEntryComplete op => Sys2Proof.Machine.execRequestEntryComplete op s
  | .waitc f => Sys2Proof.Machine.execWaitc f s
  | .empty f => Sys2Proof.Machine.execEmpty f s
  | .spawn f => Sys2Proof.Machine.execSpawn f s
  | .spawnEnqueue op => Sys2Proof.Machine.execSpawnEnqueue op s
  | .setom f => Sys2Proof.Machine.execSetom f s
  | .mldb f => Sys2Proof.Machine.execMldb f s
  | .mma f => Sys2Proof.Machine.execMma f s
  | .mzero f => Sys2Proof.Machine.execMzero f s
  | .mdrain f => Sys2Proof.Machine.execMdrain f s
  | .mscale f => Sys2Proof.Machine.execMscale f s
  | .setrp f => Sys2Proof.Machine.execSetrp f s
  | .setcp f => Sys2Proof.Machine.execSetcp f s
  | .sfmt f => Sys2Proof.Machine.execSfmt f s
  | .matrixOpStart core => Sys2Proof.Machine.execMatrixOpStart core s
  | .guardRelease op => Sys2Proof.Machine.execGuardRelease op s
  | .matrixOpComplete op => Sys2Proof.Machine.execMatrixOpComplete op s
  | .vest f => Sys2Proof.Machine.execVest f s
  | .vbound f => Sys2Proof.Machine.execVbound f s
  | .vcost f => Sys2Proof.Machine.execVcost f s
  | .vprobe f => Sys2Proof.Machine.execVprobe f s
  | .vpol f => Sys2Proof.Machine.execVpol f s
  | .rld f => Sys2Proof.Machine.execRld f s
  | .rst f => Sys2Proof.Machine.execRst f s
  | .ratom f => Sys2Proof.Machine.execRatom f s
  | .coll f => Sys2Proof.Machine.execColl f s
  | .sysr f => Sys2Proof.Machine.execSysr f s
  | .sysw f => Sys2Proof.Machine.execSysw f s
  | .mapf f => Sys2Proof.Machine.execMapf f s
  | .fltr f => Sys2Proof.Machine.execFltr f s
  | .cnt f => Sys2Proof.Machine.execCnt f s
  | .dbg f => Sys2Proof.Machine.execDbg f s
  | .loadDataArrival op => Sys2Proof.Machine.execLoadDataArrival op s
  | .storeAck a => Sys2Proof.Machine.execStoreAck a s
  | .refillComplete op => Sys2Proof.Machine.execRefillComplete op s
  | .spillWrite g row ok => Sys2Proof.Machine.execSpillWrite g row ok s
  | .regionFillComplete team region line => Sys2Proof.Machine.execRegionFillComplete team region line s
  | .copyBytesLanded op => Sys2Proof.Machine.execCopyBytesLanded op s
  | .copyRetire op => Sys2Proof.Machine.execCopyRetire op s
  | .gatherRetire op => Sys2Proof.Machine.execGatherRetire op s
  | .windowWriteLand op => Sys2Proof.Machine.execWindowWriteLand op s
  | .engineFaultPark op => Sys2Proof.Machine.execEngineFaultPark op s
  | .engineErrorRetire op => Sys2Proof.Machine.execEngineErrorRetire op s
  | .groupEnd g => Sys2Proof.Machine.execGroupEnd g s
  | .dispatcherVisit => Sys2Proof.Machine.execDispatcherVisit s
  | .teamAdmit ctx => Sys2Proof.Machine.execTeamAdmit ctx s
  | .compactStart team => Sys2Proof.Machine.execCompactStart team s
  | .compactSwap team => Sys2Proof.Machine.execCompactSwap team s
  | .quiescence core => Sys2Proof.Machine.execQuiescence core s
  | .stallLimit a => Sys2Proof.Machine.execStallLimit a s
  | .vacate ctx pairs => Sys2Proof.Machine.execVacate ctx pairs s
  | .recallPair pair => Sys2Proof.Machine.execRecall pair s
  | .drainComplete core => Sys2Proof.Machine.execDrainComplete core s
  | .saveComplete core lost => Sys2Proof.Machine.execSaveComplete core lost s
  | .vacateCommit ctx => Sys2Proof.Machine.execVacateCommit ctx s
  | .create ctx owner => Sys2Proof.Machine.execCreate ctx owner s
  | .assign ctx pairs nowait => Sys2Proof.Machine.execAssign ctx pairs nowait s
  | .restoreComplete ctx => Sys2Proof.Machine.execRestoreComplete ctx s
  | .release ctx => Sys2Proof.Machine.execRelease ctx s
  | .zeroingComplete ctx failed => Sys2Proof.Machine.execZeroingComplete ctx failed s
  | .exportImage ctx => Sys2Proof.Machine.execExportImage ctx s
  | .imageImport image => Sys2Proof.Machine.execImageImport image s
  | .driverReplay ctx record => Sys2Proof.Machine.execDriverReplay ctx record s
  | .driverCancel ctx record => Sys2Proof.Machine.execDriverCancel ctx record s
  | .translationInvalidate ctx => Sys2Proof.Machine.execTranslationInvalidate ctx s
  | .frameTest frame pass => Sys2Proof.Machine.execFrameTest frame pass s
  | .selfTest pair pass => Sys2Proof.Machine.execSelfTest pair pass s
  | .usageReport owner nonce => Sys2Proof.Machine.execUsageReport owner nonce s
  | .boundWrite ctx value => Sys2Proof.Machine.execBoundWrite ctx value s
  | .sliceWrite pair value => Sys2Proof.Machine.execSliceWrite pair value s
  | .qcfgWrite queue value => Sys2Proof.Machine.execQcfgWrite queue value s
  | .qtailWrite queue value => Sys2Proof.Machine.execQtailWrite queue value s
  | .l2ModeWrite mode => Sys2Proof.Machine.execL2ModeWrite mode s
  | .registerWrite r value => Sys2Proof.Machine.execRegisterWrite r value s
  | .hvResourceTake r => Sys2Proof.Machine.execHvResourceTake r s
  | .hvResourceFree r => Sys2Proof.Machine.execHvResourceFree r s
  | .traceUnitArm unit conf => Sys2Proof.Machine.execTraceUnitArm unit conf s
  | .triggerFire source value => Sys2Proof.Machine.execTriggerFire source value s
  | .breakArm ctx on => Sys2Proof.Machine.execBreakArm ctx on s
  | .debugResume ctx => Sys2Proof.Machine.execDebugResume ctx s
  | .research => Sys2Proof.Machine.execResearch s
  | .freedRingPush ctx => Sys2Proof.Machine.execFreedRingPush ctx s
  | .remoteRequestReceive r => Sys2Proof.Machine.execRemoteRequestReceive r s
  | .remoteReply op r => Sys2Proof.Machine.execRemoteReply op r s
  | .replayNotice n failed => Sys2Proof.Machine.execReplayNotice n failed s
  | .remoteTimeout op => Sys2Proof.Machine.execRemoteTimeout op s
  | .collStepStart op => Sys2Proof.Machine.execCollStepStart op s
  | .collStepComplete op a data => Sys2Proof.Machine.execCollStepComplete op a data s
  | .receiveReduce op h off data => Sys2Proof.Machine.execReceiveReduce op h off data s
  | .innetRequest op granted => Sys2Proof.Machine.execInnetRequest op granted s
  | .collTimeout op => Sys2Proof.Machine.execCollTimeout op s
  | .portDown port => Sys2Proof.Machine.execPortDown port s
  | .flitCrcError port => Sys2Proof.Machine.execFlitCrcError port s
  | .launchFrame src port payload => Sys2Proof.Machine.execLaunchFrame src port payload s
  | .coldReset readOk devid firmware => Sys2Proof.Machine.execColdReset readOk devid firmware s
  | .warmReset readOk devid firmware => Sys2Proof.Machine.execWarmReset readOk devid firmware s
  | .recoveryImage image => Sys2Proof.Machine.execRecoveryImage image s
  | .thermalSample readings => Sys2Proof.Machine.execThermalSample readings s
  | .dieRestart die => Sys2Proof.Machine.execDieRestart die s
  | .eccError e => Sys2Proof.Machine.execEccError e s
  | .mapfCompletion op => Sys2Proof.Machine.execMapfCompletion op s
  | .pinSearchComplete op => Sys2Proof.Machine.execPinSearchComplete op s
  | .ownerDeficitDebit owner => Sys2Proof.Machine.execOwnerDeficitDebit owner s
  | .powerLoss keep => Sys2Proof.Machine.execPowerLoss keep s
  | .portRetrain port => Sys2Proof.Machine.execPortRetrain port s
  | .logBufferReplay seq discard => Sys2Proof.Machine.execLogBufferReplay seq discard s
  | .shareGroupRelease grp => Sys2Proof.Machine.execShareGroupRelease grp s
  | .l2WritebackComplete => Sys2Proof.Machine.execL2WritebackComplete s
  | .drainChargeElapsed op => Sys2Proof.Machine.execDrainChargeElapsed op s

end Sys2Proof.Machine
end

