-- ==== Sys2Proof/Machine/Order.lean ====
section
/-! DEFINITION. The order in which agents issue and steps of the part take place (R106, R253, R267; log 1). -/
namespace Sys2Proof.Machine

open Sys2Proof

/-- An agent fetches, decodes and runs one instruction. -/
def State.issue (s : State) (a : Agent) : Host.Outcome State Fault Refusal :=
  match s.fetch a with
  | .run s i => exec i s
  | .done o => o

/-- Whether an agent that tried to issue in `s` has done more than wait in `t`: its instruction has issued, or its slot has trapped or ended. -/
def State.moved (s t : State) (a : Agent) : Bool :=
  let icnt (x : State) : Nat := ((x.agentState? a).map (fun (g : AgentState) => g.icnt.toNat)).getD 0
  icnt s != icnt t || (match t.slot? a with | some sl => sl.status != .live | none => true)

/-- The sequencer threads of one core that pass their checks in one cycle (R106, R253): each check sees the increases of those that passed
before it. -/
def State.threadsPassing (s : State) : List Agent → List Agent
  | [] => []
  | a :: rest =>
    match s.issue a with
    | .next t =>
      if s.moved t a then a :: ({ t with now := s.now }.modCore a.core (fun c => { c with seqFree := (s.core a.core).seqFree })).threadsPassing rest
      else s.threadsPassing rest
    | _ => s.threadsPassing rest

/-- Of several threads of one core that could issue in the same cycle, the least recently issued one that passes its checks (R253); they are
checked in the order st0 to st3 (R106). Where none passes, the least recently issued one tries. -/
def State.chooseThread (s : State) (t : Nat) (x : Agent × Nat) (threads : List (Agent × Nat)) : Agent :=
  let passing := ({ s with now := t }).threadsPassing (threads.map Prod.fst)
  match threads.filter (fun y => passing.contains y.fst) with
  | [] => x.1
  | y :: ys => (ys.foldl betterCandidate y).fst

/-- The agent that tries to issue next, and the cycle in which it can (R106, R267): the earliest; in one cycle in the order of the checks. -/
def State.choose (s : State) : Option (Nat × Agent) :=
  match s.contenders with
  | [] => none
  | c :: cs =>
    let best := cs.foldl earlier c
    match best.2.1 with
    | .thread _ =>
      let same := ((c :: cs).filter (fun y => y.1 == best.1)).map (fun y => y.2)
      if same.length ≤ 1 then some (best.1.1, best.2.1) else some (best.1.1, s.chooseThread best.1.1 best.2 same)
    | .group _ _ => some (best.1.1, best.2.1)

/-- What a step does: an agent tries to issue, a step of the part takes place, or time passes. -/
inductive Turn where
  | issue (s : State) (a : Agent)
  | event (s : State) (i : Instr)
  | pass (s : State)
  deriving Repr

/-- The agent that can still try to issue in this cycle. -/
def State.stillToTry (s : State) : Option Agent := (s.choose.filter (fun x => decide (x.1 ≤ s.now))).map (fun x => x.2)

/-- The next turn (log 1). An agent issues only in its turn (R106, R267). A step of the part that the agenda names takes place before the
checks of its cycle (R106): where some have been made, the rest of the cycle's candidates try, and it takes place in the next cycle. A cycle
ends when no candidate is left that could try in it. -/
def State.turn (s : State) : Turn :=
  match s.agenda with
  | [] => match s.choose with
    | some x => .issue s x.2
    | none => .pass (s.elapse (s.now + 1))
  | .issue a :: rest =>
    if s.choose.map (fun x => x.2) = some a then .issue { s with agenda := rest } a else .pass { s with agenda := rest }
  | .event i :: rest =>
    if s.checked ≤ s.now then .event { s with agenda := rest } i
    else match s.stillToTry with
      | some a => .issue s a
      | none => .event ({ s with agenda := rest }.elapse (s.now + 1)) i
  | .delay a n :: rest => .pass ({ s with agenda := rest }.delay a (s.now + n))
  | .tick 0 :: rest => .pass { s with agenda := rest }
  | .tick (n + 1) :: rest => match s.stillToTry with
    | some a => .issue s a
    | none => .pass ({ s with agenda := .tick n :: rest }.elapse (s.now + 1))

end Sys2Proof.Machine
end

