-- ==== Sys2Proof/Machine/Step.lean ====
section
/-! DEFINITION. One step of the machine: the next move of the agenda, or else the agent that the issue order picks. -/
namespace Sys2Proof.Machine

open Sys2Proof

/-- One step: an agent tries to issue, a step of the part takes place, or time passes, as the agenda and the issue order have it. -/
def step (s : State) : Host.Outcome State Fault Refusal :=
  match s.turn with
  | .issue s a => s.issue a
  | .event s i => exec i s
  | .pass s => .next s

/-- `s` with an instruction's words placed where the next step fetches (log 7). -/
def State.withFetchWord (s : State) (nbits w : Nat) : State :=
  (s.placeProgram (tableAgent nbits w) (natBytes 20 (w % 2 ^ nbits))).delayOthers (tableAgent nbits w)

end Sys2Proof.Machine
end

