-- ==== Sys2Proof/Safety.lean ====
section
/-! DEFINITION. The terms in which claims are stated: what a safe run is, when an instruction passes the checks made at its issue,
and how a completed instruction leaves the machine. -/
namespace Sys2Proof.Machine

open Sys2Proof

/-- A step completes: it answers a next state. -/
def Completes (s : State) : Prop := ∃ t, step s = .next t

/-- An instruction completes: it answers a next state. -/
def Runs (i : Instr) (s : State) : Prop := ∃ t, exec i s = .next t

/-- Both memories have the canonical form: HBM (R82) and core-local memory (R68). -/
def State.MemOk (s : State) : Prop := s.mem.wf = true ∧ s.clm.wf = true

/-- Whether the agent that issues is a sequencer thread (R9). -/
def State.inSeq (s : State) : Bool := match s.cur with | .thread _ => true | _ => false

/-- The issuing agent's instruction with opcode `op` and fields `f` passes every check made at issue (R106, R327), no cause is held
for its agent that it has to take (R342, R350), no row that it reads has lost its spilled contents (R330), and it acts: it is not a U = 1 form with
an empty effective mask (R118). `i` are its operands, `p` what the checks leave for its end. -/
structure Passes (h : Hooks) (op : Nat) (short : Bool) (f : Ext) (s : State) (i : Iss) (p : Prep) : Prop where
  operands : mkIss s op short f = some i
  checks : prepare h i s = .ok p
  whole : p.lost = none
  held : heldTrap h i s = none
  acts : ¬ (f.u = true ∧ i.eff = 0)

/-- How an instruction that goes on in program order ends, its effect having left `s`: its rows are settled (R46), the PC moves past
its words (R114), and it is counted (R146). -/
def Iss.complete (i : Iss) (p : Prep) (s : State) : State := i.issued (i.nextPc (i.settle p s))

/-- How an instruction that has set the PC itself ends, its effect having left `s`. -/
def Iss.completeCtl (i : Iss) (p : Prep) (s : State) : State := i.issued (i.settle p s)

/-- Where `ins` passes its checks and `c` holds, it completes, and its effect leaves the state `e`. -/
def Effect (ins : Instr) (h : Hooks) (op : Nat) (short : Bool) (f : Ext) (c : Iss → State → Prop) (e : Iss → State → State) (s : State) :
    Prop :=
  ∀ i p, Passes h op short f s i p → c i s → exec ins s = .next (i.complete p (e i s))

/-- Where `ins`, which sets the PC itself, passes its checks and `c` holds, it completes, and its effect leaves the state `e`. -/
def CtlEffect (ins : Instr) (h : Hooks) (op : Nat) (short : Bool) (f : Ext) (c : Iss → State → Prop) (e : Iss → State → State)
    (s : State) : Prop :=
  ∀ i p, Passes h op short f s i p → c i s → exec ins s = .next (i.completeCtl p (e i s))

/-- Where `ins` passes its checks and `c` holds, it takes the trap `t` on the state before it (R326). -/
def Traps (ins : Instr) (h : Hooks) (op : Nat) (short : Bool) (f : Ext) (c : Iss → State → Prop) (t : Iss → State → Trap) (s : State) :
    Prop :=
  ∀ i p, Passes h op short f s i p → c i s → exec ins s = .next ((i.markLen s).takeTrap i.agent (t i s))

/-- `ins` has a result in every lane: where it passes its checks it completes, and D takes `v` in each active lane (R118, R155). -/
def LaneResults (ins : Instr) (h : Hooks) (op : Nat) (short : Bool) (f : Ext) (v : Iss → State → Nat → W64) (s : State) : Prop :=
  ∀ i p, Passes h op short f s i p → exec ins s = .next (i.complete p (i.writeD s (i.eachLane (v i s))))

/-- `ins` is a group operation with a result in every lane (R148): where it passes its checks it completes, and D takes `v` in each
lane in which it acts, which with U = 1 is the lowest lane of the effective mask alone (the model's reading, notes/assumptions/80.md). -/
def OwnResults (ins : Instr) (h : Hooks) (op : Nat) (f : Ext) (v : Iss → State → Nat → W64) (s : State) : Prop :=
  ∀ i p, Passes h op false f s i p → exec ins s = .next (i.complete p (i.writeOwn s (i.eachLane (v i s))))

/-- `ins` has one group-wide result (R148): where it passes its checks it completes, and D takes `v`. -/
def GroupResult (ins : Instr) (h : Hooks) (op : Nat) (f : Ext) (v : Iss → State → W64) (s : State) : Prop :=
  ∀ i p, Passes h op false f s i p → exec ins s = .next (i.complete p (i.writeGroup s (v i s)))

/-- The lanes in which D is written (R118): with U = 1 every lane of the effective mask takes the one value. -/
def Iss.targets (i : Iss) : List Nat := if i.f.u && !i.seq then lanesOf i.width i.eff else i.lanes

/-- The lane whose result a lane of D takes (R118). -/
def Iss.sourceLane (i : Iss) (l : Nat) : Nat := if i.f.u && !i.seq then i.lanes.headD 0 else l

/-- What reading a register gives of a value written to it (R57): the bits that the name covers. -/
def Reg.keeps (r : Reg) (v : W64) : W64 :=
  match r with
  | .vec _ .word => (bits v 0 32).setWidth 64
  | .vec _ (.half _) => (bits v 0 16).setWidth 64
  | .vec _ (.byte _) => (bits v 0 8).setWidth 64
  | _ => v

/-- In how many places of a group a lane is: its PC slots that are not free, and the path and arrived entries of its stack (R25, R27). -/
def Group.places (g : Group) (l : Nat) : Nat :=
  let slot (sl : Slot) : Nat := if sl.status ≠ .free ∧ sl.mask.getLsbD l then 1 else 0
  slot g.s0 + slot g.s1 + (g.stack.filter (fun e => e.kind != .join && e.mask.getLsbD l)).length

/-- What a completed register instruction of a group leaves as it was (R46, R51, R118): `rows`, `qs` and `masks` are the registers that it
writes; beside them, rows that its last-use bits release and rows spilled for room change, and the slot's PC, issue times and stall, the
counts and the ports. Memory, core-local memory, banks, macros, tables, operations, the other slots, groups and threads stay. -/
structure RegisterFrame (i : Iss) (p : Prep) (rows qs masks : List Nat) (s t : State) : Prop where
  memory : t.mem = s.mem ∧ t.clm = s.clm ∧ t.dirty = s.dirty ∧ t.caches = s.caches ∧ t.partials = s.partials ∧ t.stamps = s.stamps ∧
    t.poison = s.poison ∧ t.rewrites = s.rewrites ∧ t.l2 = s.l2 ∧ t.marks = s.marks ∧ t.copied = s.copied
  matrix : t.banks = s.banks ∧ t.bankBusy = s.bankBusy ∧ t.macros = s.macros ∧ t.shadow = s.shadow
  tables : t.threads = s.threads ∧ t.ops = s.ops ∧ t.teams = s.teams ∧ t.launches = s.launches ∧ t.ctxs = s.ctxs ∧ t.queues = s.queues ∧
    t.hub = s.hub ∧ t.tlb = s.tlb ∧ t.now = s.now
  groups : ∀ k, k ≠ i.gi → (∀ n, (k, n) ∉ p.spills) → t.group? k = s.group? k
  own : ∀ g, s.group? i.gi = some g → ∃ g', t.group? i.gi = some g' ∧
    (∀ n, n ∉ rows → n ∉ i.releases → (i.gi, n) ∉ p.spills → g'.row n = g.row n) ∧
    (∀ n, n ∉ qs → g'.q n = g.q n) ∧ (∀ n, n ∉ masks → g'.m n = g.m n) ∧ g'.pns = g.pns ∧
    g'.vw1 = g.vw1 ∧ g'.vw2 = g.vw2 ∧ g'.vw3 = g.vw3 ∧ g'.stack = g.stack ∧ g'.pending = g.pending ∧ g'.errors = g.errors ∧
    g'.copies = g.copies ∧ g'.gathers = g.gathers ∧ g'.fabric = g.fabric ∧ g'.logged = g.logged ∧ g'.agent.ack = g.agent.ack ∧
    g'.agent.late = g.agent.late ∧ g'.relrd = (g.relrd || p.relrd) ∧
    ∀ j, (i.agent ≠ .group i.gi j → g'.slotOf j = g.slotOf j) ∧
      (g'.slotOf j).mask = (g.slotOf j).mask ∧ (g'.slotOf j).fmt = (g.slotOf j).fmt ∧ (g'.slotOf j).status = (g.slotOf j).status ∧
      (g'.slotOf j).park = (g.slotOf j).park

end Sys2Proof.Machine
end

