-- ==== Sys2Proof/Certificates/Slice0/Obligations.lean ====
section
/-! DEFINITION. The statements for the provers, grouped as the spec groups its rules. Each docstring cites the rules that it rests on. -/
open Sys2Proof Sys2Proof.Machine

/-! Stepping, decoding, reset -/

/-- R106, R114 to R116, R131, R267: where it is an agent's turn to issue, and the words from its PC on decode to an instruction, the step
is that instruction's execution on the state that the fetch leaves, with the agent current and the time moved to the cycle in which its
slot and the port that takes the instruction are free. It is the agent's turn where the issue order names it and the agenda is empty or
begins with its issue; an issue of another agent is passed over. An event of the agenda is executed on the state without it, before the
checks of its cycle; where some have been made, the agents that can still try in the cycle come first, and the event comes in the next
cycle. That the agenda, a list of moves in State, gives the order of events is the model's choice (notes/assumptions/1.md). -/
def Obligations.StepRunsDecoded : Prop :=
  ∀ (s : State) (a : Agent) (sl : Slot) (w0 : W32) (ws : List W32) (s1 s2 : State) (i : Instr) (n : Nat) (rest : List Move),
    let ready (r : State) : Prop :=
      let r0 : State := { r.elapse (max r.now sl.notBefore) with cur := a }
      r.canIssue a = true ∧ r.slot? a = some sl ∧
      r0.fetchWord a.core (r0.ctxOf a) sl.pc = (s1, .ok w0) ∧
      s1.fetchWords a.core (r0.ctxOf a) (sl.pc + 4) (lengthOf w0 - 1) = (s2, .ok ws) ∧
      decode (s2.decEnv a) (w0 :: ws) = .ok i n
    let runs : Host.Outcome State Fault Refusal := exec i (s2.elapse (s2.portFree a i)).tries
    let turn (b : Agent) : Prop := s.choose.map (fun x => x.2) = some b
    (s.agenda = .issue a :: rest → turn a → ready { s with agenda := rest } → step s = runs) ∧
    (s.agenda = .issue a :: rest → ¬ turn a → step s = .next { s with agenda := rest }) ∧
    (s.agenda = [] → turn a → ready s → step s = runs) ∧
    (∀ ev, s.agenda = .event ev :: rest →
      (s.checked ≤ s.now → step s = exec ev { s with agenda := rest }) ∧
      (s.now < s.checked → s.stillToTry = some a → ready s → step s = runs) ∧
      (s.now < s.checked → s.stillToTry = none → step s = exec ev ({ s with agenda := rest }.elapse (s.now + 1))))

/-- R115, R131, R330: words at the PC that decode to no instruction take ILLEGAL with the code of the first check that fails, whatever
they would do; the slot keeps the length that word 0 gives. R131: decoding refuses with the first failing check, so a well-formed
instruction is one that no check refuses; each opcode has one meaning in each form. -/
def Obligations.IllegalAtDecode : Prop :=
  (∀ (s : State) (a : Agent) (sl : Slot) (w0 : W32) (ws : List W32) (s1 s2 : State) (c : Nat) (rest : List Move),
    let r : State := { s with agenda := rest }
    let r0 : State := { r.elapse (max r.now sl.notBefore) with cur := a }
    s.agenda = .issue a :: rest → s.choose.map (fun x => x.2) = some a → r.canIssue a = true → r.slot? a = some sl →
    r0.fetchWord a.core (r0.ctxOf a) sl.pc = (s1, .ok w0) →
    s1.fetchWords a.core (r0.ctxOf a) (sl.pc + 4) (lengthOf w0 - 1) = (s2, .ok ws) →
    decode (s2.decEnv a) (w0 :: ws) = .illegal c →
    step s = .next ((s2.tries.modSlot a (fun sl => { sl with tlen := lengthOf w0 })).takeTrap a (Trap.illegal c))) ∧
  (∀ (env : DecEnv) (i : Instr) (rest : List W32) (c : Nat),
    (∃ f op, encOf i = some (.ext op f) ∧ ofExt op f = some i ∧ checkFields env op false f = some c) ∨
    (∃ f op, encOf i = some (.short op f) ∧ ofShort op f = some i ∧ checkFields env op true (shortExt env.seq op f) = some c) →
    decode env (encode i ++ rest) = .illegal c)

/-- The worked encodings of the spec, word by word, decode to the instructions that they stand for, with their lengths. -/
def Obligations.WorkedEncodings : Prop :=
  decode {} [0xA25A6800, 0x80, 0] = .ok (.addShort { u := true, d := 52, a := 52, lit := some 128 }) 3 ∧
  decode {} [0x46814050, 0x03020B99, 0] =
    .ok (.fma { d := 10, a := 2, la := true, b := 3, c := 4, fc := true, pm := 3, pn := true, ty := 6, rm := 1 }) 3 ∧
  decode {} [0xEE74A000, 0x14, 0, 0x1000, 0] = .ok (.vcost { u := true, d := 165, ty := 5, lit := some 4096 }) 5 ∧
  decode { seq := true } [0xEE74A000, 0x14, 0, 0x1000, 0] = .illegal 9 ∧
  decode {} [0x40400040, 0, 0x5000] = .ok (.brd { a := 2, imm := 5 }) 3 ∧
  decode {} [0x00E00000] = .ok (.joinShort {}) 1 ∧
  decode {} [0x01000000] = .ok (.exitShort {}) 1 ∧
  decode {} [0x41C00000, 0, 0] = .ok (.sreg {}) 3 ∧
  decode {} [0x42C04020, 0xA8548008, 0] = .ok (.mad { d := 2, a := 1, b := 168, c := 169, ty := 2 }) 3 ∧
  decode {} [0x0940E800] = .ok (.ldShort { d := 1, a := 52 }) 1 ∧
  decode {} [0x496014C0, 0x0081C000, 0x2] = .ok (.stExt { a := 166, lb := true, c := 3, lc := true, xs := 2 }) 3 ∧
  decode {} [0x4AA00002, 0, 0x400] = .ok (.fence { sub := 2, sc := 2 }) 3 ∧
  decode {} [0x4C201540, 0xA4538000, 0x02008001] = .ok (.cpy { a := 170, b := 164, c := 167, imm := 0x2008, xs := 1 }) 3 ∧
  decode { seq := true } [0xED002140, 0x20, 0x400000, 0x400080, 0] =
    .ok (.setom { u := true, d := 1, a := 10, ty := 8, imm := 1024, lit := some 0x400080 }) 5 ∧
  decode {} [0x46006060, 0x05000000, 0] = .ok (.mop { d := 3, a := 3, b := 5 }) 3 ∧
  decode {} [0x6C158000, 0xA5000000, 0] = .ok (.reclaim { u := true, d := 172, b := 165 }) 3 ∧
  decode {} [0x4F211680, 0x0A060500, 0] = .ok (.coll { d := 8, a := 180, b := 10, c := 12, pm := 5 }) 3 ∧
  decode { seq := true } [0x6E228002, 0x14, 0] = .ok (.vest { u := true, d := 20, sub := 2, ty := 5 }) 3

/-- R114, R115, R117, R119, R121: for every well-formed instruction, whatever words follow, decoding its words gives it back, with the
length in words that it has. -/
def Obligations.DecodeOfEncode : Prop :=   ∀ (env : DecEnv) (i : Instr) (rest : List W32), i.wf env = true → decode env (encode i ++ rest) = .ok i (encode i).length

/-- R115, R117, R119, R121: no bit of an instruction's words is dropped: the encoding of a decoded instruction is the words that it was
decoded from, and the instruction is well formed. -/
def Obligations.EncodeOfDecode : Prop :=   ∀ (env : DecEnv) (ws : List W32) (i : Instr) (n : Nat), decode env ws = .ok i n → encode i = ws.take n ∧ i.wf env = true

/-- What the spec says that a reset leaves: a row is unbacked and full (R10, R45), a uniform or mask register is zero and full (R10),
queue registers are zero (R261), an owner's words are zero (R263, R307), QUANTUM is 100 (R263), LFPORT 19513 (R323), CTIMEOUT 33,554,432
ticks (R358), the L2 is in dawn mode (R80), the midnight record and the log buffer are empty, no context exists (R301). The last clause,
that every byte of memory reads zero, is the model's choice (notes/assumptions/4.md), as is every other value here for which the spec
gives no reset value (notes/assumptions/6.md). -/
def Obligations.ResetValues : Prop :=
  let s := State.reset
  let r : Row := {}
  let c : Cell64 := {}
  let q : Queue := {}
  let o : Owner := {}
  (r.backed = false ∧ r.full = true ∧ ∀ l, r.lane l = 0) ∧ (c.val = 0 ∧ c.full = true) ∧
  (q.qcfg = 0 ∧ q.qbase = 0 ∧ q.qtail = 0 ∧ q.qhead = 0 ∧ q.qphase = 0 ∧ q.qpcnt = 0 ∧ s.queues = []) ∧
  (o.word = 0 ∧ o.deficit = 0 ∧ o.usage = [] ∧ s.owners = []) ∧
  s.hub.quantum = 100 ∧ s.hub.lfport = 19513 ∧ s.hub.ctimeout = 33554432 ∧ s.hub.l2mode = .dawn ∧ s.hub.midnight = [] ∧
  s.hub.mnhead = 0 ∧ s.hub.log = [] ∧ s.ctxs = [] ∧ s.groups = [] ∧ s.threads = [] ∧ (∀ a, s.mem.read a = 0)

/-- Both memories hold nothing at reset, and so have their canonical form: addresses rising, no listed zero. -/
def Obligations.ResetMemoriesOk : Prop := State.MemOk State.reset

/-- Every step keeps the canonical form of HBM (R82) and of core-local memory (R68), so that equal memories are equal data. -/
def Obligations.StepKeepsMemories : Prop := ∀ (s t : State), s.MemOk → step s = .next t → t.MemOk

/-! Issue: checks, results and frames -/

/-- R46, R50, R51, R54, R105, R106, R131: when a group's instruction passes the checks made at issue. Its predicate mask, sources and
destinations are full, its predicate and sources ready; the rows that it reads and writes are backed; nothing holds it, it is legal, its Δ
is zero, and no cause is held for its slot, its group or its agent. -/
def Obligations.ChecksPass : Prop :=
  ∀ (h : Hooks) (i : Iss) (s : State) (g : Group),
    s.group? i.gi = some g → i.seq = false → (∃ sl, i.agent = .group i.gi sl ∧ (g.slotOf sl).owes = none) →
    (i.f.pm ≠ 0 → (g.m i.f.pm.toNat).full = true ∧ (g.m i.f.pm.toNat).ready ≤ s.now) →
    s.searching i.agent = false → ¬ (i.f.u = true ∧ i.eff = 0) →
    (∀ x ∈ i.srcs, ∀ u ∈ x.reg.units, s.unitFull i.gi g u = true ∧ g.unitReady u ≤ s.now) →
    (∀ r ∈ i.dsts, ∀ u ∈ r.units, s.unitFull i.gi g u = true) →
    (∀ n ∈ rowsOf (i.srcs.map (fun (x : Src) => x.reg) ++ i.dsts), (g.row n).backed = true ∧ (g.row n).spilled = false) →
    h.hold i s = false → h.illegal i s = false → h.delta i s = {} →
    g.agent.late = [] → g.errors = [] → s.lostBank i = none →
    prepare h i s = .ok {} ∧ heldTrap h i s = none

/-- R51, R54, R330: a source without `?` that is full but read before its ready cycle takes SCHED, with the register and how many cycles
too early in DETAIL; an empty source marked `?`, read when nothing else holds the instruction, takes FEMPTY, with the register and the
operand in DETAIL. R326, R327: where a check or the effect of a program instruction finds a precise trap, the step takes it on the state
before the instruction; an instruction whose data include a row that its spill has lost takes DATAERR with the row (R330), where it has no
cause of its own and need not wait; a wait leaves the instruction to be tried again in a later cycle, which is the model's reading of an
attempt at issue (notes/assumptions/11.md). R118: with U = 1 and an empty effective mask, a predicable instruction whose predicate is full
does nothing: its PC moves on, and it is counted; that it backs and releases no row is the model's reading of R46 against R118
(notes/assumptions/19.md). -/
def Obligations.IssueOutcomes : Prop :=
  (∀ (h : Hooks) (i : Iss) (s : State) (g : Group),
    s.group? i.gi = some g → i.seq = false → i.f.pm = 0 → s.searching i.agent = false → ¬ (i.f.u = true ∧ i.eff = 0) →
    h.hold i s = false → h.illegal i s = false → (∀ r ∈ i.dsts, ∀ u ∈ r.units, s.unitFull i.gi g u = true) →
    (∀ n ∈ rowsOf (i.srcs.map (fun (x : Src) => x.reg) ++ i.dsts), (g.row n).backed = true ∧ (g.row n).spilled = false) →
    (∀ (x : Src) (u : Unit1), i.srcs = [x] → x.reg.units = [u] → s.unitFull i.gi g u = true → s.now < g.unitReady u →
      prepare h i s = .error (.trap { cause := .sched, detail := u.detail ||| BitVec.ofNat 64 (65536 * (g.unitReady u - s.now)) })) ∧
    (∀ (x : Src) (u : Unit1), i.srcs = [x] → x.reg.units = [u] → s.unitFull i.gi g u = false → x.trp = true → g.unitReady u ≤ s.now →
      (∀ n, u = .row n → (g.row n).refilling = false) →
      prepare h i s = .error (.trap { cause := .fempty, detail := u.detail ||| BitVec.ofNat 64 (65536 * x.idx) })) ∧
    (∀ (x : Src) (u : Unit1), x ∈ i.srcs → u ∈ x.reg.units → s.unitFull i.gi g u = false → x.trp = false →
      prepare h i s = .error (.wait s))) ∧
  (∀ (h : Hooks) (op : Nat) (short ctl : Bool) (f : Ext) (body : Iss → State → Res State) (s : State) (i : Iss),
    mkIss s op short f = some i →
    (∀ t, prepare h i s = .error (.trap t) → runIss h op short ctl f body s = .next ((i.markLen s).takeTrap i.agent t)) ∧
    (∀ t s', prepare h i s = .error (.trapAt s' t) → runIss h op short ctl f body s = .next ((i.markLen s').takeTrap i.agent t)) ∧
    (∀ p t s' s'', prepare h i s = .ok p → p.lost = none → ¬ (f.u = true ∧ i.eff = 0) → heldTrap h i s = some (s', t) → body i s = .ok s'' →
      runIss h op short ctl f body s = .next ((i.markLen s').takeTrap i.agent t)) ∧
    (∀ p n s'', prepare h i s = .ok p → p.lost = some n → ¬ (f.u = true ∧ i.eff = 0) → body i s = .ok s'' →
      runIss h op short ctl f body s = .next ((i.markLen s).takeTrap i.agent { cause := .dataerr, detail := BitVec.ofNat 64 n })) ∧
    (∀ p t, Passes h op short f s i p → body i s = .error (.trap t) →
      runIss h op short ctl f body s = .next ((i.markLen s).takeTrap i.agent t)) ∧
    (∀ s', prepare h i s = .error (.wait s') →
      runIss h op short ctl f body s = .next (s'.modSlot i.agent (fun sl =>
        { sl with notBefore := s'.now + 1, tlen := i.words, leaf := i.waitLeaf s', stall := if s'.failedCheck i.agent then sl.stall else none })))) ∧
  (∀ (h : Hooks) (op : Nat) (short : Bool) (f : Ext) (body : Iss → State → Res State) (s : State) (i : Iss),
    mkIss s op short f = some i → f.u = true → i.eff = 0 → i.desc.pred = true →
    (f.pm = 0 ∨ i.seq = true ∨ s.fullFor i (.m f.pm.toNat) = true) → (0x4A ≤ op → s.searching i.agent = false) →
    runIss h op short false f body s = .next (i.complete {} s) ∧ i.backs = [] ∧ i.releases = [])

/-- R46, R57, R118: what an instruction that writes D leaves in it. Each target lane reads the result of its source lane, cut to the bits
that the name covers, and every other lane of a vector destination reads as before: zero where the row was unbacked. -/
def Obligations.DestinationReadsBack : Prop :=
  ∀ (op : Nat) (short : Bool) (f : Ext) (s : State) (i : Iss) (p : Prep) (v : Nat → W64) (l : Nat),
    mkIss s op short f = some i → i.seq = false → p.spills = [] → l < i.width →
    (∀ n part, i.d = some (.vec n part) → rowsOf i.dsts = rowsOf i.d.toList →
      i.read (i.complete p (i.writeD s (i.eachLane v))) i.d l =
        if l ∈ i.targets ∧ i.lanes ≠ [] then (Reg.vec n part).keeps (v (i.sourceLane l)) else i.read s i.d l) ∧
    (∀ n, i.d = some (.q n) → i.lanes ≠ [] →
      i.read (i.complete p (i.writeD s (i.eachLane v))) i.d l = v (i.lanes.headD 0))

/-- R46, R51, R118: the frame of every group instruction that writes its results to D lane by lane, to D for the whole group, or to a mask
register: nothing but its destination changes, beside what `RegisterFrame` names. -/
def Obligations.RegisterFrames : Prop :=
  ∀ (op : Nat) (short : Bool) (f : Ext) (s : State) (i : Iss) (p : Prep) (vals : FMap W64) (v : W64) (b : Nat → Bool),
    mkIss s op short f = some i → i.seq = false →
    let rows := rowsOf i.d.toList ++ i.backs
    let qs := i.d.toList.filterMap (fun (r : Reg) => match r with | .q n => some n | _ => none)
    let masks := i.d.toList.filterMap (fun (r : Reg) => match r with | .mask n => some n | _ => none)
    RegisterFrame i p rows qs [] s (i.complete p (i.writeD s vals)) ∧
    RegisterFrame i p rows qs [] s (i.complete p (i.writeOwn s vals)) ∧
    RegisterFrame i p rows qs [] s (i.complete p (i.writeGroup s v)) ∧
    RegisterFrame i p i.backs [] masks s (i.complete p (i.writeMask s b)) ∧
    RegisterFrame i p i.backs [] masks s (i.complete p (i.putMask s v)) ∧
    RegisterFrame i p i.backs [] [] s (i.complete p s)

/-! Control, divergence, special registers -/

/-- R135, R136, R139, R141 to R143: `nop` changes nothing; `bra` changes the slot's PC by its condition over the slot's mask; `call` and
`ret` link and jump, and take ALIGN at a misaligned target; `yield` and `nap` park the slot for 32 and min(B, 2^20) cycles; `setfmt` and
`getfmt` write and read the slot's fmt; `trap n` takes SWTRAP with the code n. R145 to R147: `sreg` writes the value of its selector in
every active lane; `.lo` also latches the high half of the count in the agent's shadow, the other selectors leave the shadows alone;
`sreg.w gstat` clears RELRD where bit 0 of B is 1. -/
def Obligations.ControlAndSpecialRegisters : Prop :=
  (∀ (f : Ext) (g : Short) (s : State),
    let always : Iss → State → Prop := fun _ _ => True
    let go (i : Iss) (s : State) (pc : W64) : State := s.modSlot i.agent (fun sl => { sl with pc })
    let label (i : Iss) : W64 := i.pc + f.imm.signExtend 64 * 4
    let next (i : Iss) : W64 := i.pc + BitVec.ofNat 64 (4 * i.words)
    let c (i : Iss) (s : State) : W64 := i.va s 0 &&& i.smask
    let takes (i : Iss) (s : State) : Bool :=
      match f.sub.toNat, i.seq with
      | 0, _ => true
      | 3, true => i.va s 0 == 0
      | _, true => i.va s 0 != 0
      | 1, false => c i s != 0
      | 2, false => c i s == i.smask
      | _, false => c i s == 0
    let crooked (v : W64) : Prop := bits v 0 2 ≠ 0
    let align (t : W64) : Trap := { cause := .align, addr := t, detail := memDetail false .fetch 0 0 0 }
    let link (i : Iss) (s : State) : State :=
      match i.d with | some r => i.writeTo s r [(0, next i)] (some s.now) | none => s
    let park (i : Iss) (s : State) (p : Park) : State := s.modSlot i.agent (fun sl => { sl with park := p })
    let length (i : Iss) (s : State) : Nat := min (i.vb s 0).toNat (2 ^ 20)
    Effect (.nopExt f) {} 0x00 false f always (fun _ s => s) s ∧
    Effect (.nopShort g) {} 0x00 true (shortExt s.inSeq 0x00 g) always (fun _ s => s) s ∧
    CtlEffect (.bra f) {} 0x01 false f always (fun i s => go i s (if takes i s then label i else next i)) s ∧
    CtlEffect (.call f) {} 0x04 false f (fun _ _ => f.sub.toNat ≠ 1) (fun i s => go i (link i s) (if f.sub = 0 then label i else i.vb s 0)) s ∧
    CtlEffect (.call f) {} 0x04 false f (fun i s => f.sub.toNat = 1 ∧ ¬ crooked (i.vb s 0)) (fun i s => go i (link i s) (i.vb s 0)) s ∧
    Traps (.call f) {} 0x04 false f (fun i s => f.sub.toNat = 1 ∧ crooked (i.vb s 0)) (fun i s => align (i.vb s 0)) s ∧
    CtlEffect (.ret f) {} 0x05 false f (fun i s => ¬ crooked (i.vb s 0)) (fun i s => go i s (i.vb s 0)) s ∧
    Traps (.ret f) {} 0x05 false f (fun i s => crooked (i.vb s 0)) (fun i s => align (i.vb s 0)) s ∧
    Effect (.yieldExt f) {} 0x09 false f always (fun i s => park i s (.yield (s.now + 33))) s ∧
    Effect (.yieldShort g) {} 0x09 true (shortExt s.inSeq 0x09 g) always (fun i s => park i s (.yield (s.now + 33))) s ∧
    Effect (.nap f) {} 0x0F false f (fun i s => length i s ≠ 0) (fun i s => park i s (.nap (s.now + length i s + 1))) s ∧
    Effect (.nap f) {} 0x0F false f (fun i s => length i s = 0) (fun _ s => s) s ∧
    Effect (.setfmt f) { illegal := fun i s => !fmtLegal ((i.vb s 0).setWidth 32) } 0x0A false f always
      (fun i s => s.modSlot i.agent (fun sl => { sl with fmt := (i.vb s 0).setWidth 32 })) s ∧
    LaneResults (.getfmt f) {} 0x0B false f (fun i _ _ => i.fmt.setWidth 64) s ∧
    Traps (.trap f) {} 0x0C false f always (fun _ _ => { cause := .swtrap, detail := (bits f.imm 0 16).setWidth 64 }) s) ∧
  (∀ (f : Ext) (s : State) (ag : AgentState), s.agentState? s.cur = some ag →
    let sel := f.imm.toNat % 256
    let vcyc : W64 := BitVec.ofNat 64 (ag.held + (s.now - ag.start))
    let value (i : Iss) (l : Nat) : W64 :=
      if sel = 0x00 then BitVec.ofNat 64 l
      else if sel = 0x01 then (match s.group? i.gi with | some g => gstat i.gi g | none => 0)
      else if sel = 0x02 then (match s.team? i.team with | some t => BitVec.ofNat 64 (t.baseOn i.core) | none => 0)
      else if sel = 0x03 then ctxWord s i.ctx
      else if sel = 0x04 then BitVec.ofNat 64 i.width
      else if sel = 0x05 then BitVec.ofNat 64 i.core
      else if sel = 0x06 then BitVec.ofNat 64 (i.gi % 4)
      else if sel = 0x08 then vcyc
      else if sel = 0x09 then (bits vcyc 0 32).setWidth 64
      else if sel = 0x0A then ag.vShadow.setWidth 64
      else if sel = 0x0C then ag.icnt
      else if sel = 0x0D then (bits ag.icnt 0 32).setWidth 64
      else if sel = 0x0E then ag.iShadow.setWidth 64
      else 0
    let written (i : Iss) (s : State) : State := i.writeD s (i.eachLane (value i))
    let lo : Iss → State → Prop := fun _ _ => f.sub = 0 ∧ sel = 0x09
    let lo' : Iss → State → Prop := fun _ _ => f.sub = 0 ∧ sel = 0x0D
    let plain : Iss → State → Prop := fun _ _ => f.sub = 0 ∧ sel ≠ 0x09 ∧ sel ≠ 0x0D
    Effect (.sreg f) {} 0x0E false f plain written s ∧
    Effect (.sreg f) {} 0x0E false f lo
      (fun i s => (written i s).modAgent i.agent (fun ag' => { ag' with vShadow := bits (ag'.vcyc (written i s).now) 32 32 })) s ∧
    Effect (.sreg f) {} 0x0E false f lo'
      (fun i s => (written i s).modAgent i.agent (fun ag' => { ag' with iShadow := bits ag'.icnt 32 32 })) s ∧
    Effect (.sreg f) {} 0x0E false f (fun i s => f.sub ≠ 0 ∧ (i.vb s 0).getLsbD 0 = true)
      (fun i s => s.modGroup i.gi (fun g => { g with relrd := false })) s ∧
    Effect (.sreg f) {} 0x0E false f (fun i s => f.sub ≠ 0 ∧ (i.vb s 0).getLsbD 0 = false) (fun _ s => s) s)

/-- R27, R137, R138, R140: where they pass their checks, the stack has room and no lost entry returns, `brd`, `brx`, `mjoin`, `join` and
`exit` in a PC slot change the group's slots and stack as the operations of R27's table do, and the entries that come back to the core are
read from the lines that the model gives the stack (its choice, notes/assumptions/111.md); a `brd`, `brx` or `mjoin` without room and a
`join` that matches no J take DIVSTK. R27, row by row, for a live path P in a PC slot. `mjoin` sets O aside, frees its slot and pushes J;
`brd` sets O aside and, where some lanes take the branch and some do not, gives the others to P and the taken ones to the other slot, live
with P's fmt; where all or none take it and O is free below an empty stack or a J, P alone moves. A `join` whose arrived lanes are J's
mask gives P's slot J's rejoin PC, mask and fmt and frees the other; another `join` leaves P waiting, merged with a waiting O. After any
event, no slot is free while the top entry is not a J. -/
def Obligations.DivergenceResults : Prop :=
  (∀ (f : Ext) (g : Short) (s : State) (gr : Group),
    let group (i : Iss) (s : State) : Prop := s.group? i.gi = some gr ∧ i.handler = false ∧ i.seq = false
    let next (i : Iss) : W64 := i.pc + BitVec.ofNat 64 (4 * i.words)
    let label (i : Iss) : W64 := i.pc + f.imm.signExtend 64 * 4
    let home (old new : Group) : Prop := lostReload old.stack new.stack = none
    let mA (i : Iss) (s : State) : W64 := i.va s 0
    let tgt (i : Iss) (s : State) (l : Nat) : W64 := i.entry + ((i.vb s l).setWidth 32).signExtend 64 * 4
    let first (i : Iss) : Nat := (lanesOf i.width i.smask).headD 0
    let same (i : Iss) (s : State) : W64 := maskOf ((lanesOf i.width i.smask).filter (fun l => tgt i s l == tgt i s (first i)))
    let room (i : Iss) (n : Nat) : Prop := gr.stackRoom i.slot n = true
    let full : Iss → State → Trap := fun _ _ => { cause := .divstk, detail := BitVec.ofNat 64 (gr.stack.length * 65536) }
    let none' : Iss → State → Trap := fun _ _ => { cause := .divstk, detail := BitVec.ofNat 64 (gr.stack.length * 65536 + 1) }
    let put (i : Iss) (s : State) (new : Group) : State :=
      (stackReads i.ctx i.gi gr.stack new.stack).foldl (fun s l => s.areaRead i.core i.ctx l) (s.setGroup i.gi new)
    let hBrd : Hooks := { illegal := fun i s => splitsHandler i (i.va s 0) }
    let hBrx : Hooks := { illegal := fun i s => splitsHandler i (brxTaken i s).1 }
    let hJoin : Hooks := { illegal := fun i _ => i.handler }
    CtlEffect (.brd f) hBrd 0x02 false f
      (fun i s => group i s ∧ room i 0 ∧ home gr (gr.brd i.slot (mA i s) (label i) (next i)))
      (fun i s => put i s (gr.brd i.slot (mA i s) (label i) (next i))) s ∧
    Traps (.brd f) hBrd 0x02 false f (fun i s => group i s ∧ ¬ room i 0) full s ∧
    CtlEffect (.brx f) hBrx 0x03 false f
      (fun i s => group i s ∧ room i 0 ∧ home gr (gr.brd i.slot (same i s) (tgt i s (first i)) (next i)))
      (fun i s => put i s (gr.brd i.slot (same i s) (tgt i s (first i)) (next i))) s ∧
    Traps (.brx f) hBrx 0x03 false f (fun i s => group i s ∧ ¬ room i 0) full s ∧
    CtlEffect (.mjoin f) hJoin 0x06 false f
      (fun i s => group i s ∧ room i 1 ∧ home gr (gr.mjoin i.slot (label i) (next i)))
      (fun i s => put i s (gr.mjoin i.slot (label i) (next i))) s ∧
    Traps (.mjoin f) hJoin 0x06 false f (fun i s => group i s ∧ ¬ room i 1) full s ∧
    (∀ gr', CtlEffect (.joinExt f) hJoin 0x07 false f
      (fun i s => group i s ∧ gr.join i.slot = some gr' ∧ home gr gr') (fun i s => put i s gr') s) ∧
    (∀ gr', CtlEffect (.joinShort g) hJoin 0x07 true (shortExt s.inSeq 0x07 g)
      (fun i s => group i s ∧ gr.join i.slot = some gr' ∧ home gr gr') (fun i s => put i s gr') s) ∧
    Traps (.joinExt f) hJoin 0x07 false f (fun i s => group i s ∧ gr.join i.slot = none) none' s ∧
    Traps (.joinShort g) hJoin 0x07 true (shortExt s.inSeq 0x07 g) (fun i s => group i s ∧ gr.join i.slot = none) none' s ∧
    CtlEffect (.exitExt f) exitHooks 0x08 false f (fun i s => group i s ∧ home gr (gr.exitSlot i.slot))
      (fun i s => put i s (gr.exitSlot i.slot)) s ∧
    CtlEffect (.exitShort g) exitHooks 0x08 true (shortExt s.inSeq 0x08 g) (fun i s => group i s ∧ home gr (gr.exitSlot i.slot))
      (fun i s => put i s (gr.exitSlot i.slot)) s ∧
    CtlEffect (.exitExt f) exitHooks 0x08 false f (fun i _ => i.seq = true) (fun i s => s.endThread i.gi) s ∧
    CtlEffect (.exitShort g) exitHooks 0x08 true (shortExt s.inSeq 0x08 g) (fun i _ => i.seq = true) (fun i s => s.endThread i.gi) s) ∧
  (∀ (g : Group) (i : SlotId) (m t next : W64),
    let p := g.slotOf i
    let o := g.slotOf i.other
    i ≠ .handler → p.status = .live →
    let aside : List StackEntry :=
      if o.status = .free then g.stack
      else if o.status = .waiting then { kind := .arrived, mask := o.mask } :: g.stack
      else { kind := .path, mask := o.mask, poff := g.poff o.pc, fmt := o.fmt.setWidth 30,
             held := if o.status = .live ∧ o.park = .none ∧ o.owes = none then none else some o } :: g.stack
    let taken := p.mask &&& m
    let joinTop (st : List StackEntry) : Prop := ∀ e, st.head? = some e → e.kind = .join
    let tops (st : List StackEntry) : List StackEntry := st.mapIdx (fun k e => if k < 2 then { e with stored := false } else e)
    let homed (g : Group) : Group := { g with stack := tops g.stack }
    (let r := g.mjoin i t next
     r.stack = tops ({ kind := .join, mask := p.mask, poff := g.poff t, fmt := p.fmt.setWidth 30 } :: aside) ∧
     r.slotOf i = { p with pc := next } ∧ (r.slotOf i.other).status = .free) ∧
    (taken ≠ 0 → taken ≠ p.mask →
      let r := g.brd i m t next
      r.stack = tops aside ∧ r.slotOf i = { p with pc := next, mask := p.mask &&& ~~~m } ∧
      r.slotOf i.other = { status := .live, pc := t, mask := taken, fmt := p.fmt }) ∧
    (o.status = .free → joinTop g.stack →
      (taken = p.mask → g.brd i m t next = homed (g.setSlot i { p with pc := t })) ∧
      (taken = 0 → p.mask ≠ 0 → g.brd i m t next = homed (g.setSlot i { p with pc := next }))) ∧
    (∀ above j below, splitJ g.stack = some (above, j, below) →
      let arr := g.arrived above p.mask
      (arr = j.mask → joinTop below →
        ∃ r, g.join i = some r ∧ r.stack = tops below ∧
          r.slotOf i = { p with pc := g.pcOf j.poff, mask := j.mask, fmt := j.fmt.setWidth 32 } ∧ (r.slotOf i.other).status = .free) ∧
      (arr &&& ~~~j.mask ≠ 0 → g.join i = none) ∧
      (arr ≠ j.mask → arr &&& ~~~j.mask = 0 → joinTop g.stack →
        ∃ r, g.join i = some r ∧ r.stack = tops g.stack ∧ (r.slotOf i).status = .waiting ∧
          (r.slotOf i).mask = (if o.status = .waiting then p.mask ||| o.mask else p.mask) ∧
          (o.status = .waiting → (r.slotOf i.other).status = .free))) ∧
    (let r := g.settleSlots
     r.s0.status = .free ∨ r.s1.status = .free → joinTop r.stack))

/-- R27: `brd` and `mjoin` neither lose a lane nor give it to two paths. Where every lane of a group is in one place at most, and the
slots kept on the stack agree with their entries, each lane is in as many places after as before. -/
def Obligations.BranchesKeepLanes : Prop :=
  ∀ (g : Group) (i : SlotId) (m t next : W64) (l : Nat),
    i ≠ .handler → (g.slotOf i).status = .live → (∀ k, g.places k ≤ 1) →
    (∀ e ∈ g.stack, ∀ sl, e.held = some sl → sl.mask = e.mask ∧ sl.status ≠ .free) →
    (g.brd i m t next).places l = g.places l ∧ (g.mjoin i t next).places l = g.places l

/-! Integer, bit and group operations -/

/-- R159 to R162: the integer arithmetic instructions, in every form, complete where they pass their checks, and D takes the exact result,
wrapped or saturated to the type, in each active lane. -/
def Obligations.IntegerArithmeticResults : Prop :=
  ∀ (f : Ext) (g : Short) (s : State),
    let t := f.ty.toNat
    let fit (v : Int) : W64 := if f.sub.toNat = 1 then satTy t v else wrapTy t v
    let x (i : Iss) (s : State) (l : Nat) : Int := intOf i.f.ty.toNat (i.va s l)
    let y (i : Iss) (s : State) (l : Nat) : Int := intOf i.f.ty.toNat (i.vb s l)
    let z (i : Iss) (s : State) (l : Nat) : Int := intOf i.f.ty.toNat (i.vc s l)
    let u (op : Nat) : Ext := shortExt s.inSeq op g
    LaneResults (.addExt f) {} 0x12 false f (fun i s l => fit (x i s l + y i s l)) s ∧
    LaneResults (.addShort g) {} 0x12 true (u 0x12) (fun i s l => wrapTy i.f.ty.toNat (x i s l + y i s l)) s ∧
    LaneResults (.subExt f) {} 0x13 false f (fun i s l => fit (x i s l - y i s l)) s ∧
    LaneResults (.subShort g) {} 0x13 true (u 0x13) (fun i s l => wrapTy i.f.ty.toNat (x i s l - y i s l)) s ∧
    LaneResults (.mulExt f) {} 0x14 false f (fun i s l => wrapTy t (x i s l * y i s l)) s ∧
    LaneResults (.mulShort g) {} 0x14 true (u 0x14) (fun i s l => wrapTy i.f.ty.toNat (x i s l * y i s l)) s ∧
    LaneResults (.mulh f) {} 0x15 false f (fun i s l => wrapTy t ((x i s l * y i s l).fdiv (2 ^ tyBits t))) s ∧
    LaneResults (.mad f) {} 0x16 false f (fun i s l =>
      if f.sub.toNat = 2 then wrapTy t ((x i s l * y i s l).fdiv (2 ^ tyBits t) + z i s l) else fit (x i s l * y i s l + z i s l)) s ∧
    LaneResults (.div f) {} 0x17 false f (fun i s l => if y i s l = 0 then wrapTy t (-1) else wrapTy t ((x i s l).tdiv (y i s l))) s ∧
    LaneResults (.rem f) {} 0x18 false f (fun i s l => if y i s l = 0 then wrapTy t (x i s l) else wrapTy t ((x i s l).tmod (y i s l))) s ∧
    LaneResults (.minExt f) {} 0x19 false f (fun i s l => wrapTy t (min (x i s l) (y i s l))) s ∧
    LaneResults (.minShort g) {} 0x19 true (u 0x19) (fun i s l => wrapTy i.f.ty.toNat (min (x i s l) (y i s l))) s ∧
    LaneResults (.maxExt f) {} 0x1A false f (fun i s l => wrapTy t (max (x i s l) (y i s l))) s ∧
    LaneResults (.maxShort g) {} 0x1A true (u 0x1A) (fun i s l => wrapTy i.f.ty.toNat (max (x i s l) (y i s l))) s ∧
    LaneResults (.abs f) {} 0x1B false f (fun i s l => if signedTy t then fit (y i s l).natAbs else wrapTy t (y i s l)) s ∧
    LaneResults (.neg f) {} 0x1C false f (fun i s l =>
      if !signedTy t && f.sub.toNat == 1 then 0 else fit (-(y i s l))) s

/-- R163 to R166: the bitwise, shift, rotate, field and bit-count instructions complete where they pass their checks, and D takes in each
active lane what the rules give, on the n bits of the type. A shift amount and a field control are read at 32 bits. -/
def Obligations.LogicAndShiftResults : Prop :=
  ∀ (f : Ext) (g : Short) (s : State),
    let t (i : Iss) : Nat := i.f.ty.toNat
    let n (i : Iss) : Nat := tyBits (t i)
    let u (op : Nat) : Ext := shortExt s.inSeq op g
    let a (i : Iss) (s : State) (l : Nat) : Nat := natOf (t i) (i.va s l)
    let k (i : Iss) (s : State) (l : Nat) : Nat := (bits (i.vb s l) 0 32).toNat
    let ext (i : Iss) (v : W64) : W64 := extendTy (t i) (natOf (t i) v)
    let shl (i : Iss) (s : State) (l : Nat) : W64 := if n i ≤ k i s l then 0 else extendTy (t i) (a i s l <<< k i s l)
    let shr (i : Iss) (s : State) (l : Nat) : W64 := if n i ≤ k i s l then 0 else extendTy (t i) (a i s l >>> k i s l)
    let sar (i : Iss) (s : State) (l : Nat) : W64 := extendTy (t i) ((BitVec.ofNat (n i) (a i s l)).sshiftRight (k i s l)).toNat
    let p (i : Iss) (s : State) (l : Nat) : Nat := (bits (i.vb s l) 0 8).toNat
    let len (i : Iss) (s : State) (l : Nat) : Nat := min (bits (i.vb s l) 8 8).toNat (n i - p i s l)
    LaneResults (.andExt f) {} 0x1D false f (fun i s l => ext i (i.va s l &&& i.vb s l)) s ∧
    LaneResults (.andShort g) {} 0x1D true (u 0x1D) (fun i s l => ext i (i.va s l &&& i.vb s l)) s ∧
    LaneResults (.orExt f) {} 0x1E false f (fun i s l => ext i (i.va s l ||| i.vb s l)) s ∧
    LaneResults (.orShort g) {} 0x1E true (u 0x1E) (fun i s l => ext i (i.va s l ||| i.vb s l)) s ∧
    LaneResults (.xorExt f) {} 0x1F false f (fun i s l => ext i (i.va s l ^^^ i.vb s l)) s ∧
    LaneResults (.xorShort g) {} 0x1F true (u 0x1F) (fun i s l => ext i (i.va s l ^^^ i.vb s l)) s ∧
    LaneResults (.andn f) {} 0x20 false f (fun i s l => ext i (i.va s l &&& ~~~i.vb s l)) s ∧
    LaneResults (.not f) {} 0x21 false f (fun i s l => ext i (~~~i.vb s l)) s ∧
    LaneResults (.shlExt f) {} 0x22 false f shl s ∧
    LaneResults (.shlShort g) {} 0x22 true (u 0x22) shl s ∧
    LaneResults (.shrExt f) {} 0x23 false f shr s ∧
    LaneResults (.shrShort g) {} 0x23 true (u 0x23) shr s ∧
    LaneResults (.sarExt f) {} 0x24 false f sar s ∧
    LaneResults (.sarShort g) {} 0x24 true (u 0x24) sar s ∧
    LaneResults (.rot f) {} 0x25 false f (fun i s l =>
      if f.sub = 0 then extendTy (t i) ((BitVec.ofNat (n i) (a i s l)).rotateLeft (k i s l)).toNat
      else extendTy (t i) ((BitVec.ofNat (n i) (a i s l)).rotateRight (k i s l)).toNat) s ∧
    LaneResults (.bfe f) {} 0x26 false f (fun i s l =>
      let v := a i s l >>> p i s l % 2 ^ len i s l
      if len i s l = 0 then 0
      else if f.sub = 1 then extendTy (t i) (((BitVec.ofNat (len i s l) v).signExtend (n i)).toNat) else extendTy (t i) v) s ∧
    LaneResults (.bfi f) {} 0x27 false f (fun i s l =>
      let m : BitVec (n i) := (BitVec.allOnes (len i s l)).setWidth (n i) <<< p i s l
      let field : BitVec (n i) := BitVec.ofNat (n i) (i.vc s l).toNat <<< p i s l
      extendTy (t i) ((BitVec.ofNat (n i) (a i s l) &&& ~~~m) ||| (field &&& m)).toNat) s ∧
    LaneResults (.bit f) {} 0x28 false f (fun i s l =>
      let b := natOf (t i) (i.vb s l)
      let ones (lo hi : Nat) : List Nat := (List.range (n i)).filter (fun j => b.testBit j && decide (lo ≤ j) && decide (j < hi))
      if f.sub = 0 then extendTy (t i) (ones 0 (n i)).length
      else if f.sub = 1 then extendTy (t i) (if b = 0 then n i else n i - 1 - b.log2)
      else if f.sub = 2 then extendTy (t i) (((List.range (n i)).find? (fun j => b.testBit j)).getD (n i))
      else extendTy (t i) (BitVec.ofNat (n i) b).reverse.toNat) s

/-- R158, R167 to R169: `mov` and `sel` copy the bits of the type, `lea` forms base + index * 2^XS + IMM, `cvt` converts by the pair of
types, `cmp` writes the truth of its condition on exact values to a mask register, or 1 or 0 to an x register of a thread. R148 to R153:
`shfl` moves lanes by index, distance, exclusive-or or broadcast; `vote` forms its value over the active lanes; `redg` and `scan` reduce
the active lanes, or a lane's run of them; `mop` writes the lanes of the effective mask, `mop.to` a whole q register. With U = 1 a vector
destination takes its result in the lowest lane alone, which is the model's reading of R148 (notes/assumptions/80.md). -/
def Obligations.MoveCompareAndGroupResults : Prop :=
  (∀ (f : Ext) (g : Short) (s : State),
    let t (i : Iss) : Nat := i.f.ty.toNat
    let copy (i : Iss) (v : W64) : W64 := extendTy (t i) (v.toNat % 2 ^ tyBits (t i))
    let picks (i : Iss) (s : State) (l : Nat) : Bool := if i.seq then i.vc s l != 0 else (i.vc s l).getLsbD l
    let src (i : Iss) : Nat := (bits i.f.c 0 5).toNat
    let int (n : Nat) : Bool := n < 6 || 9 < n
    let x (i : Iss) (s : State) (l : Nat) : Int := intOf (src i) (i.vb s l)
    let y (i : Iss) (s : State) (l : Nat) : FVal := unpack (fmtOf (src i)) (natOf (src i) (i.vb s l))
    let float (i : Iss) (v : Nat) : W64 := extendTy (t i) (flushIf (fmtOf (t i)) i.ftz v)
    let holds (i : Iss) (s : State) (l : Nat) : Bool :=
      let a := intOf (t i) (i.va s l)
      let b := intOf (t i) (i.vb s l)
      match f.sub.toNat with
      | 0 => a == b | 1 => a != b | 2 => decide (a < b) | 3 => decide (a ≤ b) | 4 => decide (b < a) | _ => decide (b ≤ a)
    LaneResults (.movExt f) {} 0x10 false f (fun i s l => copy i (i.vb s l)) s ∧
    LaneResults (.movShort g) {} 0x10 true (shortExt s.inSeq 0x10 g) (fun i s l => copy i (i.vb s l)) s ∧
    LaneResults (.sel f) {} 0x11 false f (fun i s l => copy i (if picks i s l then i.va s l else i.vb s l)) s ∧
    LaneResults (.lea f) {} 0x2A false f (fun i s l =>
      let b := bits (i.vb s l) 0 32
      i.va s l + ((if f.ty.toNat = 4 then b.signExtend 64 else b.setWidth 64) <<< (bits f.xs 0 3).toNat) + f.imm.signExtend 64) s ∧
    LaneResults (.cvt f) {} 0x2B false f (fun i s l =>
      if int (src i) ∧ int (t i) then (if f.xs.getLsbD 0 then satTy (t i) (x i s l) else wrapTy (t i) (x i s l))
      else if int (src i) then float i (fpOfInt (fmtOf (t i)) i.rm (x i s l))
      else if int (t i) then toIntTy (t i) i.rm (y i s l)
      else float i (packVal (fmtOf (t i)) i.rm (y i s l))) s ∧
    Effect (.cmp f) {} 0x29 false f (fun i _ => i.seq = false) (fun i s => i.writeMask s (holds i s)) s ∧
    Effect (.cmp f) {} 0x29 false f (fun i _ => i.seq = true)
      (fun i s => i.writeD s (i.eachLane (fun l => if holds i s l then 1 else 0))) s) ∧
  (∀ (f : Ext) (s : State),
    let t := f.ty.toNat
    let sub := f.sub.toNat
    let a (i : Iss) (s : State) (l : Nat) : W64 := extendTy i.f.ty.toNat (natOf i.f.ty.toNat (i.va s l))
    let b (i : Iss) (s : State) (l : Nat) : Nat := natOf t (i.vb s l)
    let n (i : Iss) (s : State) (l : Nat) : Nat := (i.vb s l).toNat % 64
    let source (i : Iss) (s : State) (l : Nat) : Nat :=
      if sub = 0 then (i.vb s l).toNat % 2 ^ 32 % i.width
      else if sub = 1 then (if n i s l ≤ l then l - n i s l else l)
      else if sub = 2 then (if l + n i s l < i.width then l + n i s l else l)
      else if sub = 3 then l ^^^ (n i s l % i.width)
      else n i s l % i.width
    let yes (i : Iss) (s : State) : List Nat := i.lanes.filter (fun l => b i s l != 0)
    let reduce (i : Iss) (s : State) (ls : List Nat) : W64 :=
      let xs := ls.map (fun l => intOf t (i.vb s l))
      let ns := ls.map (b i s)
      if sub = 0 then wrapTy t (xs.foldl (· + ·) 0)
      else if sub = 1 then wrapTy t (xs.foldl min (maxTy t))
      else if sub = 2 then wrapTy t (xs.foldl max (minTy t))
      else if sub = 3 then extendTy t (ns.foldl (· &&& ·) (2 ^ tyBits t - 1))
      else if sub = 4 then extendTy t (ns.foldl (· ||| ·) 0)
      else if sub = 5 then extendTy t (ns.foldl (· ^^^ ·) 0)
      else extendTy t (pairSum i.rm i.ftz i.width (ls.map (fun l => (l, i.vb s l))))
    let mask (i : Iss) (s : State) : W64 :=
      let x := i.va s 0
      let y := i.vb s 0
      match sub with
      | 0 => x &&& y | 1 => x ||| y | 2 => x ^^^ y | 3 => x &&& ~~~y | 4 => y | 5 => BitVec.allOnes 64 | 6 => 0 | 7 => y | _ => ~~~y
    (sub = 4 → GroupResult (.shfl f) {} 0x2C f (fun i s => a i s (n i s 0 % i.width)) s) ∧
    (sub ≠ 4 → OwnResults (.shfl f) {} 0x2C f (fun i s l => a i s (source i s l)) s) ∧
    GroupResult (.vote f) {} 0x2D f (fun i s =>
      match sub with
      | 0 => maskOf (yes i s)
      | 1 => if yes i s = [] then 0 else 1
      | 2 => if yes i s = i.lanes then 1 else 0
      | _ => BitVec.ofNat 64 (yes i s).length) s ∧
    GroupResult (.redg f) {} 0x2E f (fun i s => reduce i s i.lanes) s ∧
    OwnResults (.scan f) {} 0x2F f (fun i s l => reduce i s (i.lanes.filter (fun k => if f.xs.getLsbD 0 then k < l else k ≤ l))) s ∧
    (sub = 8 → GroupResult (.mop f) {} 0x30 f (fun i s => i.vb s 0) s) ∧
    (sub ≠ 8 → ∀ g d, Effect (.mop f) {} 0x30 false f (fun i s => s.group? i.gi = some g ∧ i.d = some (.mask d))
      (fun i s => i.putMask s (((g.m d).val &&& ~~~i.eff) ||| (mask i s &&& i.eff))) s))

/-! Floating point, residues, bit planes -/

/-- R172, R174 to R181: the floating-point instructions complete where they pass their checks, and D takes in each active lane the once
rounded result of the operation on the operands' values, flushed where fmt.FTZ says so; an extended form rounds by its RM, a short form by
fmt.RM; `fcmp` writes the truth of its condition; `fcls` writes a class mask; `dot2` takes its source format from XS or fmt.NSRC. -/
def Obligations.FloatResults : Prop :=
  ∀ (f : Ext) (g : Short) (s : State),
    let t (i : Iss) : Fmt := fmtOf i.f.ty.toNat
    let a (i : Iss) (s : State) (l : Nat) : Nat := natOf i.f.ty.toNat (i.va s l)
    let b (i : Iss) (s : State) (l : Nat) : Nat := natOf i.f.ty.toNat (i.vb s l)
    let c (i : Iss) (s : State) (l : Nat) : Nat := natOf i.f.ty.toNat (i.vc s l)
    let out (i : Iss) (v : Nat) : W64 := extendTy i.f.ty.toNat (flushIf (t i) i.ftz v)
    let add (i : Iss) (s : State) (l : Nat) : W64 := out i (fpAdd (t i) i.rm (a i s l) (b i s l))
    let sub (i : Iss) (s : State) (l : Nat) : W64 := out i (fpSub (t i) i.rm (a i s l) (b i s l))
    let mul (i : Iss) (s : State) (l : Nat) : W64 := out i (fpMul (t i) i.rm (a i s l) (b i s l))
    let min (i : Iss) (s : State) (l : Nat) : W64 := out i (fpMinMax (t i) false (a i s l) (b i s l))
    let max (i : Iss) (s : State) (l : Nat) : W64 := out i (fpMinMax (t i) true (a i s l) (b i s l))
    let approx (k : Nat) (i : Iss) (s : State) (l : Nat) : W64 := out i (fpApprox k (b i s l))
    let source (i : Iss) : Nat := if f.xs = 0 then nsrcOf i.fmt else f.xs.toNat
    let u (op : Nat) : Ext := shortExt s.inSeq op g
    LaneResults (.faddExt f) {} 0x31 false f add s ∧ LaneResults (.faddShort g) {} 0x31 true (u 0x31) add s ∧
    LaneResults (.fsubExt f) {} 0x32 false f sub s ∧ LaneResults (.fsubShort g) {} 0x32 true (u 0x32) sub s ∧
    LaneResults (.fmulExt f) {} 0x33 false f mul s ∧ LaneResults (.fmulShort g) {} 0x33 true (u 0x33) mul s ∧
    LaneResults (.fma f) {} 0x34 false f (fun i s l => out i (fpFma (t i) i.rm (a i s l) (b i s l) (c i s l))) s ∧
    LaneResults (.fminExt f) {} 0x35 false f min s ∧ LaneResults (.fminShort g) {} 0x35 true (u 0x35) min s ∧
    LaneResults (.fmaxExt f) {} 0x36 false f max s ∧ LaneResults (.fmaxShort g) {} 0x36 true (u 0x36) max s ∧
    Effect (.fcmp f) {} 0x37 false f (fun i _ => i.seq = false)
      (fun i s => i.writeMask s (fun l => fpCmp (t i) f.sub.toNat (a i s l) (b i s l))) s ∧
    LaneResults (.fdiv f) {} 0x38 false f (fun i s l => out i (fpDiv (t i) i.rm (a i s l) (b i s l))) s ∧
    LaneResults (.fsqrt f) {} 0x39 false f (fun i s l => out i (fpSqrt (t i) i.rm (b i s l))) s ∧
    LaneResults (.rcpa f) {} 0x3A false f (approx 0) s ∧ LaneResults (.rsqa f) {} 0x3B false f (approx 1) s ∧
    LaneResults (.exp2a f) {} 0x3C false f (approx 2) s ∧ LaneResults (.log2a f) {} 0x3D false f (approx 3) s ∧
    LaneResults (.sina f) {} 0x3E false f (approx 4) s ∧ LaneResults (.cosa f) {} 0x3F false f (approx 5) s ∧
    LaneResults (.frnd f) {} 0x40 false f (fun i s l => out i (fpRnd (t i) (rmOf f.sub.toNat) (b i s l))) s ∧
    LaneResults (.fcls f) {} 0x41 false f (fun i s l => BitVec.ofNat 64 (fpClass (t i) (b i s l))) s ∧
    LaneResults (.dot2 f) { illegal := fun i _ => dot2Fmt i != 8 && dot2Fmt i != 9 } 0x42 false f (fun i s l =>
      extendTy 6 (flushIf .f32 i.ftz (fpDot2 (fmtOf (source i)) i.rm (natOf 6 (i.va s l)) (natOf 6 (i.vb s l)) (natOf 6 (i.vc s l))))) s ∧
    LaneResults (.fscl f) {} 0x43 false f (fun i s l => out i (fpScl (t i) i.rm (a i s l) (intOf 2 (i.vb s l)))) s ∧
    (∀ i h op short p, Passes h op short f s i p → i.rm = if short then rmOf (bits i.fmt 0 2).toNat else rmOf f.rm.toNat)

/-- R58, R172: every NaN result is the default NaN of its format, in every rounding mode, whatever the inputs. R58: a value that the
format represents rounds to itself in every mode. R176, R177: `fmin` and `fmax` return one of their operands unless both are NaN; of two
patterns exactly one of lt, eq, gt and unord holds, ord is the opposite of unord, ne of eq, and an unordered pair has ne alone. -/
def Obligations.FloatProperties : Prop :=
  (∀ (t : Fmt) (rm : RM) (x y z : Nat) (k : Int), t = .f16 ∨ t = .bf16 ∨ t = .f32 ∨ t = .f64 →
    ∀ r ∈ [fpAdd t rm x y, fpSub t rm x y, fpMul t rm x y, fpFma t rm x y z, fpDiv t rm x y, fpSqrt t rm x, fpRnd t rm x, fpScl t rm x k,
           fpMinMax t false x y, fpMinMax t true x y], isNaN t r = true → r = t.nan) ∧
  (∀ (t : Fmt) (rm : RM) (b : Nat) (neg : Bool) (m : Nat) (e : Int), t = .f16 ∨ t = .bf16 ∨ t = .f32 ∨ t = .f64 →
    b < 2 ^ t.width → unpack t b = .fin neg m e → roundTo t rm neg m e = b) ∧
  (∀ (t : Fmt) (x y : Nat), t = .f16 ∨ t = .bf16 ∨ t = .f32 ∨ t = .f64 → x < 2 ^ t.width → y < 2 ^ t.width →
    (isNaN t x = false ∨ isNaN t y = false → ∀ m, fpMinMax t m x y = x ∨ fpMinMax t m x y = y) ∧
    (isNaN t x = false → isNaN t y = true → ∀ m, fpMinMax t m x y = x ∧ fpMinMax t m y x = x) ∧
    ([fpCmp t 2 x y, fpCmp t 0 x y, fpCmp t 4 x y, fpCmp t 7 x y].count true = 1) ∧
    fpCmp t 6 x y = !fpCmp t 7 x y ∧ fpCmp t 1 x y = !fpCmp t 0 x y ∧
    (fpCmp t 7 x y = true ↔ isNaN t x = true ∨ isNaN t y = true) ∧
    fpCmp t 3 x y = (fpCmp t 2 x y || fpCmp t 0 x y) ∧ fpCmp t 5 x y = (fpCmp t 4 x y || fpCmp t 0 x y))

/-- R183 to R188: the residue and plane instructions complete where they pass their checks. `rnc` and `rnx` convert to and from a residue
format, `rnmad` multiplies and adds channel by channel, `pln` gathers one plane of a row into its window of a q register, `upl` makes
elements of planes, `pldot` adds 32 products of elements held in planes to C. The format is TY's, or fmt's where TY is 0. -/
def Obligations.ResidueAndPlaneResults : Prop :=
  ∀ (f : Ext) (s : State),
    let fmt (i : Iss) : Nat := i.planeFmt
    let chan (i : Iss) (k : Nat) (v : W64) : Nat := rnsChannel (fmt i) k (natOf 0 v)
    let rns : Hooks := { illegal := fun i _ => !isRns i.planeFmt }
    let off : Nat := f.imm.toNat % 64
    let kept (i : Iss) (s : State) (l : Nat) : Nat := if f.lit.isSome then (bits (i.vb s l) 0 32).toNat else (i.vb s l).toNat
    let plane (i : Iss) (s : State) : Nat := (i.vb s 0).toNat % 32
    let inPlane (i : Iss) (s : State) (l : Nat) : Bool := plane i s < tyPlanes (fmt i) && planeBit (fmt i) (natOf 0 (i.va s l)) (plane i s)
    let aBit (i : Iss) (s : State) (e p : Nat) : Bool := (i.qAfter s p).getLsbD e
    let bBit (i : Iss) (s : State) (l e p : Nat) : Bool := (i.bPlane s l p).getLsbD e
    let half : Nat := if f.xs.getLsbD 0 then 32 else 0
    let kA (i : Iss) : Nat := planesKept (fmt i) (f.imm.toNat % 32)
    let kB (i : Iss) : Nat := planesKept (fmt i) (f.imm.toNat / 32 % 32)
    LaneResults (.rnc f) rns 0x44 false f (fun i s l =>
      let h : Int := rnsM (fmt i) / 2
      BitVec.ofNat 64 (rnsWord (fmt i) (fun _ => max (-h) (min (h - 1) (intOf 2 (i.vb s l)))))) s ∧
    LaneResults (.rnx f) rns 0x45 false f (fun i s l => wrapTy 2 (rnsOut (fmt i) (fun c => chan i c (i.vb s l)))) s ∧
    LaneResults (.rnmad f) rns 0x46 false f (fun i s l => BitVec.ofNat 64 (rnsWord (fmt i) (fun k =>
      (chan i k (i.va s l) : Int) * chan i k (i.vb s l) + chan i k (i.vc s l)))) s ∧
    GroupResult (.pln f) { illegal := fun i _ => tyPlanes i.planeFmt == 0 } 0x47 f (fun i s =>
      let window : W64 := allLanes i.width <<< off
      (i.vd s 0 &&& ~~~window) ||| ((maskOf (i.lanes.filter (inPlane i s)) <<< off) &&& window)) s ∧
    LaneResults (.upl f) { illegal := fun i _ => tyPlanes i.planeFmt == 0 } 0x48 false f (fun i s l =>
      if isRns (fmt i) then BitVec.ofNat 64 (rnsWord (fmt i) (fun c => planeChannel (fmt i) c (aBit i s (off + l))))
      else wrapTy (if fmt i = 18 then 3 else 2) (planeInt (fmt i) (planesKept (fmt i) (kept i s l)) (aBit i s (off + l)))) s ∧
    LaneResults (.pldot f) { illegal := fun i _ => tyPlanes i.planeFmt == 0 } 0x49 false f (fun i s l =>
      if isRns (fmt i) then BitVec.ofNat 64 (rnsWord (fmt i) (fun k => (List.range 32).foldl (fun (n : Int) j =>
        n + (planeChannel (fmt i) k (aBit i s (half + j)) * planeChannel (fmt i) k (bBit i s l j) : Nat)) (chan i k (i.vc s l))))
      else wrapTy 2 ((List.range 32).foldl (fun n j =>
        n + planeInt (fmt i) (kA i) (aBit i s (half + j)) * planeInt (fmt i) (kB i) (bBit i s l j)) (intOf 2 (i.vc s l)))) s

/-- R64: the conversions of a residue format. The value that `RnsOut` makes of three channels is the one of the range -M/2 to M/2 - 1 that
has those remainders, and reading back what `RnsIn` made gives the value clamped to that range. R62, R63, R185: the planes of an element
of i4, i2 or b1 make its value again, and the top k planes make that value with its lower planes cleared. -/
def Obligations.ResidueAndPlaneProperties : Prop :=
  (∀ (fmt : Nat) (x : Int) (ch : Nat → Nat), fmt = 14 ∨ fmt = 15 →
    let h : Int := rnsM fmt / 2
    ((∀ c < 3, ch c < rnsMod fmt c) →
      -h ≤ rnsOut fmt ch ∧ rnsOut fmt ch < h ∧ ∀ c < 3, rnsOut fmt ch % (rnsMod fmt c : Nat) = ch c) ∧
    rnsOut fmt (fun c => rnsChannel fmt c (rnsIn fmt x)) = max (-h) (min (h - 1) x)) ∧
  (∀ (fmt w k : Nat), fmt = 16 ∨ fmt = 17 ∨ fmt = 18 → 1 ≤ k → k ≤ tyPlanes fmt →
    let n := tyPlanes fmt
    let v : Int := if fmt ≠ 18 ∧ 2 ^ (n - 1) ≤ w % 2 ^ n then ((w % 2 ^ n : Nat) : Int) - 2 ^ n else (w % 2 ^ n : Nat)
    planeInt fmt n (planeBit fmt w) = v ∧ planeInt fmt k (planeBit fmt w) = v - v % 2 ^ (n - k))

/-! Memory -/

/-- R191, R197: the address of a lane: base + sign-extended index * 2^XS[2:0] + IMM, without the index where XS[3] is 1; in the tile
layout, 512-byte tiles of 8 rows of 64 bytes, in which the 16-byte chunks are exchanged by row. R7, R76, R194, R277: what an access of one
element does at its home. A read that misses its path's cache gives the little-endian bytes of HBM where the ownership check passes and no
byte is poisoned or held in an update-only line; a write leaves its bytes there; a refused access gives OWNER and changes no byte. -/
def Obligations.AddressesAndHome : Prop :=
  (∀ (i : Iss) (s : State) (l : Nat),
    let idx : W64 := if i.f.xs.toNat < 8 then (bits (i.vb s l) 0 32).signExtend 64 else 0
    let size := tyBits i.f.ty.toNat / 8
    let row := (bits (i.vb s l) 0 32).toNat
    let byte := (bits (i.read s i.bRun.head? l) 0 32).toNat * size
    let tile := row / 8 * i.f.imm.toNat + byte / 64
    i.addr s l = i.va s l + idx * BitVec.ofNat 64 (2 ^ (i.f.xs.toNat % 8)) + i.f.imm.signExtend 64 ∧
    i.tileAddr s l =
      i.va s l + BitVec.ofNat 64 (512 * tile + 64 * (row % 8) + 16 * ((byte / 16 % 4) ^^^ (row % 4)) + byte % 16)) ∧
  (∀ (s : State) (core : Nat) (path : Path) (ctx me : Nat) (ag : AgentState) (pa n hint : Nat) (bs : List Byte),
    s.partials = [] → s.mem.wf = true →
    let line := pa / 64
    let r := s.pathRead core path ctx me ag pa n hint
    let w := s.pathWrite core path ctx me ag pa bs
    (∀ c ∈ s.caches, ¬ (c.core = core ∧ c.path = path ∧ c.line = line)) →
    FMap.find s.poison line = none →
    (s.homePasses ctx pa false = true → r.2.1 = .ok (Mem.readNat s.mem pa n) ∧ r.1.mem = s.mem) ∧
    (s.homePasses ctx pa false = false → r.2.1 = .error (.owner, 2) ∧ r.1.mem = s.mem) ∧
    (s.homePasses ctx pa true = true → w.2 = .ok () ∧ Mem.readBytes w.1.mem pa bs.length = bs ∧
      ∀ a, a < pa ∨ pa + bs.length ≤ a → w.1.mem.read a = s.mem.read a) ∧
    (s.homePasses ctx pa true = false → w.2 = .error (.owner, 2) ∧ w.1.mem = s.mem))

/-- R193 to R197, R328, R341: loads and stores of global memory. All active lanes are translated before any effect; where one fails, the
instruction takes the trap of the first cause. Otherwise the lanes are read or written through the instruction's path, ascending; a load
leaves its destination empty until its data arrives, a store raises the acknowledgement counter; a cause found then comes late. R83, R342,
R348: where the home refuses lanes of a store, their OWNER comes late and no byte of any lane is written; else the races of all lanes are
checked before the first is written, and they come late. -/
def Obligations.LoadStoreResults : Prop :=
  ∀ (f : Ext) (g : Short) (s : State) (s1 : State) (pas : FMap Nat) (t : Trap),
    let n (i : Iss) : Nat := tyBits i.f.ty.toNat / 8
    let flat (i : Iss) (s : State) : FMap W64 := i.lanes.map (fun l => (l, i.addr s l))
    let tile (i : Iss) (s : State) : FMap W64 := i.lanes.map (fun l => (l, i.tileAddr s l))
    let reads (i : Iss) (s : State) (las : FMap W64) : State × Except Trap (FMap Nat) :=
      s.translateLanes i.core i.ctx { r := true } .load las (n i)
    let writes (i : Iss) (s : State) (las : FMap W64) : State × Except Trap (FMap Nat) :=
      s.translateLanes i.core i.ctx { w := true } .store las (n i)
    let load (path : Path) (hint : Nat) (las : Iss → State → FMap W64) (i : Iss) (s : State) : State :=
      let r := i.readLanes path hint (n i) (las i s) pas s1
      i.startLoad r.1 (r.2.1.map (fun lv => (lv.1, extendTy i.f.ty.toNat lv.2))) none (i.late .load i.dstNames r.2.2)
    let hint : Nat := f.ht.toNat
    let ok (las : Iss → State → FMap W64) (i : Iss) (s : State) : Prop := i.lanes ≠ [] ∧ reads i s (las i s) = (s1, .ok pas)
    let okW (las : Iss → State → FMap W64) (i : Iss) (s : State) : Prop := i.lanes ≠ [] ∧ writes i s (las i s) = (s1, .ok pas)
    let stored (path : Path) (las : Iss → State → FMap W64) (ins : Instr) (op : Nat) (short : Bool) (e : Ext) : Prop :=
      ∀ i p, Passes ackHooks op short e s i p → okW las i s →
        let pa (l : Nat) : Nat := FMap.at 0 pas l
        let refused := (las i s).filter (fun la => !s1.homePasses i.ctx (pa la.1) true)
        let r := i.raceLanes (n i) (las i s) pas s1
        let w := (las i s).foldl (fun (acc : State × List LaneFail) la =>
          let x := acc.1.pathWrite i.core path i.ctx (i.state acc.1).uid (i.state acc.1) (pa la.1) (leBytes (n i) (i.vc acc.1 la.1).toNat)
          (x.1, match x.2 with | .ok () => acc.2 | .error c => acc.2 ++ [(la.1, la.2, c.1, c.2)])) r
        (refused ≠ [] → exec ins s = .next (i.complete p (i.raiseAck (refused.foldl (fun (x : State) la => x.ownerEvent i.ctx (pa la.1)) s1)
          (i.late .store [] (refused.map (fun la => (la.1, la.2, Cause.owner, 2))))))) ∧
        (refused = [] → ∃ s2, exec ins s = .next (i.complete p (i.raiseAck s2 (i.late .store [] w.2))) ∧ s2.mem = w.1.mem ∧
          s2.caches = w.1.caches ∧ s2.stamps = w.1.stamps)
    let traps (x : Iss → State → State × Except Trap (FMap Nat)) (h : Hooks) (ins : Instr) (op : Nat) (short : Bool) (e : Ext) : Prop :=
      ∀ i p, Passes h op short e s i p → i.lanes ≠ [] → x i s = (s1, .error t) → exec ins s = .next ((i.markLen s1).takeTrap i.agent t)
    let uLd := shortExt s.inSeq 0x4A g
    let uSt := shortExt s.inSeq 0x4B g
    Effect (.ldExt f) {} 0x4A false f (ok flat) (load .ls hint flat) s ∧
    Effect (.ldShort g) {} 0x4A true uLd (ok flat) (load .ls 0 flat) s ∧
    Effect (.ldc f) {} 0x4E false f (ok flat) (load .cn 0 flat) s ∧
    Effect (.ldt f) {} 0x50 false f (ok tile) (load .tl hint tile) s ∧
    stored .ls flat (.stExt f) 0x4B false f ∧ stored .ls flat (.stShort g) 0x4B true uSt ∧ stored .tl tile (.stt f) 0x51 false f ∧
    traps (fun i s => reads i s (flat i s)) {} (.ldExt f) 0x4A false f ∧ traps (fun i s => reads i s (flat i s)) {} (.ldShort g) 0x4A true uLd ∧
    traps (fun i s => reads i s (flat i s)) {} (.ldc f) 0x4E false f ∧ traps (fun i s => reads i s (tile i s)) {} (.ldt f) 0x50 false f ∧
    traps (fun i s => writes i s (flat i s)) ackHooks (.stExt f) 0x4B false f ∧
    traps (fun i s => writes i s (flat i s)) ackHooks (.stShort g) 0x4B true uSt ∧
    traps (fun i s => writes i s (tile i s)) ackHooks (.stt f) 0x51 false f

/-- R194: the frame of the loads and stores of global memory. A load changes no byte of memory; a store changes none but the bytes of its
lanes, at the translation of the address that the instruction computes; neither touches core-local memory. A byte of an update-only line
that the access meets takes its reduced value (R97). R31, R69, R71, R105: a store into the team's block writes its bytes there, and to the
block's copy where the compactor is moving it, and no other byte, makes the lines it touches dirty and no other, and, within one line of a
mapped region, marks the bytes it wrote in the line's mask; global memory is unchanged. -/
def Obligations.LoadStoreFrames : Prop :=
  (∀ (f : Ext) (g : Short) (s s1 t : State) (pas : FMap Nat) (i : Iss) (p : Prep) (a : Nat),
    let n := tyBits i.f.ty.toNat / 8
    let flat : FMap W64 := i.lanes.map (fun l => (l, i.addr s l))
    let tile : FMap W64 := i.lanes.map (fun l => (l, i.tileAddr s l))
    let calm : Prop := ∀ x ∈ s.partials, ¬ (x.addr ≤ a ∧ a < x.addr + 8)
    let outside : Prop := ∀ x ∈ pas, ¬ (x.2 ≤ a ∧ a < x.2 + n)
    let same : Prop := t.mem.read a = s.mem.read a ∧ t.clm = s.clm ∧ t.dirty = s.dirty ∧ t.banks = s.banks ∧ t.macros = s.macros
    calm →
    (∀ ins ∈ [(Instr.ldExt f, 0x4A), (Instr.ldc f, 0x4E), (Instr.ldt f, 0x50)], Passes {} ins.2 false f s i p →
      exec ins.1 s = .next t → same) ∧
    (Passes {} 0x4A true (shortExt s.inSeq 0x4A g) s i p → exec (.ldShort g) s = .next t → same) ∧
    (Passes ackHooks 0x4B true (shortExt s.inSeq 0x4B g) s i p →
      s.translateLanes i.core i.ctx { w := true } .store flat n = (s1, .ok pas) → outside → exec (.stShort g) s = .next t → same) ∧
    (Passes ackHooks 0x4B false f s i p → s.translateLanes i.core i.ctx { w := true } .store flat n = (s1, .ok pas) → outside →
      exec (.stExt f) s = .next t → same) ∧
    (Passes ackHooks 0x51 false f s i p → s.translateLanes i.core i.ctx { w := true } .store tile n = (s1, .ok pas) → outside →
      exec (.stt f) s = .next t → same)) ∧
  (∀ (s : State) (tid core o : Nat) (bs : List Byte) (t : Team), s.team? tid = some t →
    let r := s.clmStore tid core o bs
    r.mem = s.mem ∧ r.groups = s.groups ∧ r.threads = s.threads ∧ r.banks = s.banks ∧
    let copy (c : Compaction) : Nat := clmBytes * core + c.target + o
    let mine (c : Compaction) : Prop := c ∈ s.compactions ∧ c.team = tid ∧ c.core = core
    ((∀ c, mine c → copy c + bs.length ≤ t.key core o ∨ t.key core o + bs.length ≤ copy c) →
      s.clm.wf = true → Mem.readBytes r.clm (t.key core o) bs.length = bs) ∧
    (∀ a, a < t.key core o ∨ t.key core o + bs.length ≤ a → (∀ c, mine c → a < copy c ∨ copy c + bs.length ≤ a) → r.clm.read a = s.clm.read a) ∧
    (t.baseOn core % 64 = 0 → ∀ k, k ∈ r.dirty ↔ k ∈ s.dirty ∨ ∃ l ∈ linesOf o bs.length, k = t.lineKey core (64 * l)) ∧
    (∀ k x, t.regionAt core o = some (k, x) → bs ≠ [] → o % 64 + bs.length ≤ 64 →
      let l := (o - x.off) / 64
      let x' : Region := { x with state := FMap.put x.state l (FMap.at 0 x.state l ||| byteMask (o % 64) bs.length) }
      ∃ t', r.team? tid = some t' ∧ FMap.find t'.regions k = some x' ∧
      ∀ j, j < bs.length → (byteMask (o % 64) bs.length).getLsbD (o % 64 + j) = true))

/-- R68, R69, R71, R194, R340, R345: loads and stores of core-local memory. Where every active lane resolves to the team's block, and no
line that it meets is untouched, written back, read-only to a store, guarded against it, or lost to a load, a load takes the little-endian
bytes there, a store writes its lanes ascending and is acknowledged where it goes to the partner core's share. Where lanes fail, or the
fill of an untouched line faults, it takes the first cause of all; else the instruction waits: for a write-back, a guard or a member not
yet started, or for the untouched lines, which it asks for. -/
def Obligations.ClmLoadStoreResults : Prop :=
  ∀ (f : Ext) (g : Short) (s : State) (t : Team) (tr : Trap),
    let n (i : Iss) : Nat := tyBits i.f.ty.toNat / 8
    let accs (i : Iss) (s : State) : List ClmAcc := (resolveLanes t i.core (n i) (i.lanes.map (fun l => (l, i.addr s l)))).1
    let bad (i : Iss) (s : State) : List LaneFail := (resolveLanes t i.core (n i) (i.lanes.map (fun l => (l, i.addr s l)))).2
    let ready (store : Bool) (i : Iss) (s : State) : Prop :=
      s.team? i.team = some t ∧ bad i s = [] ∧ ∀ a ∈ accs i s, s.clmGate i.team t a.core a.o (n i) store = .ok
    let loaded (i : Iss) (s : State) : State :=
      if accs i s = [] then s
      else i.startLoad s ((accs i s).map (fun a => (a.lane, extendTy i.f.ty.toNat (leNat (s.clmRead t a.core a.o (n i)))))) none none
    let stored (i : Iss) (s : State) : State :=
      let s2 := (accs i s).foldl (fun (r : State) a => r.clmStore i.team a.core a.o (leBytes (n i) (i.vc r a.lane).toNat)) s
      if (accs i s).any (fun a => a.core != i.core) then i.raiseAck s2 none else s2
    let lines (i : Iss) (s : State) : List (Nat × Nat × Nat) := s.untouchedLines i.team t (n i) (accs i s)
    let filled (i : Iss) (s : State) : State := (s.fillFails t (lines i s)).1
    let fails (store : Bool) (i : Iss) (s : State) : Option Trap :=
      let ro := if store then (filled i s).readOnlyLanes i.team t (n i) (accs i s) else []
      kindTrap 0 (byLane ((bad i s ++ ro).map (fun x => (x, if store then .store else .load)) ++
        (s.fillFails t (lines i s)).2.map (fun x => (x, .regionFill))))
    let held (store : Bool) (i : Iss) (s : State) : Prop :=
      ∃ a ∈ accs i s, (filled i s).clmGate i.team t a.core a.o (n i) store = .wait
    let stops (ins : Instr) (h : Hooks) (op : Nat) (short : Bool) (e : Ext) (store : Bool) : Prop :=
      ∀ i p, Passes h op short e s i p → s.team? i.team = some t →
        let w := ((lines i s).map Prod.snd).foldl (fun (r : State) rl => r.askFill i.team rl.1 rl.2) (filled i s)
        (fails store i s = some tr → exec ins s = .next ((i.markLen (filled i s)).takeTrap i.agent tr)) ∧
        (fails store i s = none → held store i s → exec ins s = .next (i.waited (filled i s))) ∧
        (fails store i s = none → ¬ held store i s → lines i s ≠ [] → exec ins s = .next (i.waited w))
    let uL := shortExt s.inSeq 0x4C g
    let uS := shortExt s.inSeq 0x4D g
    Effect (.ldlExt f) {} 0x4C false f (ready false) loaded s ∧ Effect (.ldlShort g) {} 0x4C true uL (ready false) loaded s ∧
    Effect (.stlExt f) stlHooks 0x4D false f (ready true) stored s ∧ Effect (.stlShort g) stlHooks 0x4D true uS (ready true) stored s ∧
    stops (.ldlExt f) {} 0x4C false f false ∧ stops (.ldlShort g) {} 0x4C true uL false ∧
    stops (.stlExt f) stlHooks 0x4D false f true ∧ stops (.stlShort g) stlHooks 0x4D true uS true

/-- R118, R196: `smp`. With no active lane it completes and does nothing. Where its descriptor is aligned and every texel that its lanes
read is translated, it completes: its destination is empty until the lanes' values arrive, and each lane in which no texel failed has the
filtered value of its coordinates, flushed. A texel that a border texture does not hold needs no access. A descriptor that is not aligned
takes ALIGN, a texel that is not translated the first cause of all. The filter gives the default NaN where a coordinate is no number or
infinite, the one texel under the point where FILT is 0, and else the two roundings of rows, each after the two roundings of columns. -/
def Obligations.SamplerResults : Prop :=
  ∀ (f : Ext) (s s1 : State) (pas : List (W64 × Nat)) (tr : Trap),
    let h : Hooks := { illegal := fun i s => !i.lanes.isEmpty && (bits (i.sampler s).d 59 5 != 0 || (i.sampler s).amode == 3) }
    let x (i : Iss) (l : Nat) : Nat := (bits (i.vb s l) 0 32).toNat
    let y (i : Iss) (l : Nat) : Nat := (bits (i.read s i.bRun.head? l) 0 32).toNat
    let crooked (i : Iss) : Prop := (i.sampler s).base.toNat % (i.sampler s).e ≠ 0 ∨ (i.sampler s).pitch % (i.sampler s).e ≠ 0
    let las (i : Iss) : List (Nat × W64) := i.lanes.flatMap (fun l => ((i.sampler s).texels (x i l) (y i l)).filterMap
      (fun c => ((i.sampler s).texAddr c).map (fun a => (l, a))))
    (∀ i p, Passes h 0x4F false f s i p → i.lanes = [] → exec (.smp f) s = .next (i.complete p s)) ∧
    (∀ i p, Passes h 0x4F false f s i p → i.lanes ≠ [] → ¬ crooked i → las i = [] →
      exec (.smp f) s = .next (i.complete p (i.startLoad s
        (i.eachLane (fun l => BitVec.ofNat 64 (flushIf .f32 i.ftz ((i.sampler s).filter (x i l) (y i l) (fun _ => 0))))) none none))) ∧
    (∀ i p, Passes h 0x4F false f s i p → i.lanes ≠ [] → ¬ crooked i → i.texelPages s (las i) = (s1, pas, []) →
      let r := i.texelReads s1 (i.sampler s).e pas (las i)
      let tex (c : Int × Int) : Nat := match (i.sampler s).texAddr c with
        | some a => packVal .f32 .rne (unpack (fmtOf f.ty.toNat) (((r.2.1.find? (fun v => v.1 == a)).map Prod.snd).getD 0))
        | none => 0
      let value (l : Nat) : W64 := if r.2.2.any (fun b => b.1 == l) then 0
        else BitVec.ofNat 64 (flushIf .f32 i.ftz ((i.sampler s).filter (x i l) (y i l) tex))
      exec (.smp f) s = .next (i.complete p (i.startLoad r.1 (i.eachLane value) none (i.late .load i.dstNames r.2.2)))) ∧
    (∀ i p, Passes h 0x4F false f s i p → i.lanes ≠ [] → crooked i →
      exec (.smp f) s = .next ((i.markLen s).takeTrap i.agent (Trap.mem .align (i.sampler s).base (maskOf i.lanes) .load 0))) ∧
    (∀ i p bad, Passes h 0x4F false f s i p → i.lanes ≠ [] → ¬ crooked i → i.texelPages s (las i) = (s1, pas, bad) →
      laneTrap .load 0 bad = some tr → exec (.smp f) s = .next ((i.markLen s1).takeTrap i.agent tr)) ∧
    (∀ (d : Sampler) (u v : Nat) (tex : Int × Int → Nat),
      (notFinite32 u = true ∨ notFinite32 v = true → d.filter u v tex = 0x7FC00000) ∧
      (notFinite32 u = false → notFinite32 v = false → d.d.getLsbD 58 = false → d.filter u v tex = tex (floor32 u, floor32 v)) ∧
      (notFinite32 u = false → notFinite32 v = false → d.d.getLsbD 58 = true →
        ∃ i fx gx j fy gy, bilinear u = (i, fx, gx) ∧ bilinear v = (j, fy, gy) ∧
          d.filter u v tex =
            rneAdd (rneMul (rneAdd (rneMul (tex (i, j)) gx) (rneMul (tex (i + 1, j)) fx)) gy)
              (rneMul (rneAdd (rneMul (tex (i, j + 1)) gx) (rneMul (tex (i + 1, j + 1)) fx)) fy)))

/-- R198: `pref` completes whatever its addresses are, and changes no byte that a load could read. R88, R203, R204, R347: the fences end
the agent's race region; `fence.acquire` and `fence.full` of core scope or wider invalidate the core's L1; `pfence` drops the lines of the
paths that XS names. -/
def Obligations.FenceResults : Prop :=
  ∀ (f : Ext) (s : State),
    let hFence : Hooks :=
      { hold := fun i s => (i.f.sub != 1 && releaseHeld i s i.scope) || (i.f.sub != 2 && s.loadsOut i.agent), sync := true
        takes := fun i e => i.f.sub != 1 && i.scope == 6 && e.discarded }
    let wide (i : Iss) (s : State) : State := if 2 ≤ f.sc.toNat then s.dropLines (fun l => l.core == i.core && l.path == .ls) else s
    Effect (.fence f) hFence 0x55 false f (fun _ _ => f.sub.toNat = 0) (fun i s => wide i (s.fullFence i.agent f.sc.toNat)) s ∧
    Effect (.fence f) hFence 0x55 false f (fun _ _ => f.sub.toNat = 1) (fun i s => wide i (s.acquireFence i.agent f.sc.toNat)) s ∧
    Effect (.fence f) hFence 0x55 false f (fun _ _ => f.sub.toNat = 2) (fun i s => s.releaseFence i.agent f.sc.toNat) s ∧
    Effect (.pfence f) { hold := fun i s => (i.state s).ack != 0, sync := true } 0x56 false f (fun _ _ => True)
      (fun i s => s.dropLines (fun l => l.core == i.core && (match l.path with
        | .ls => f.xs.getLsbD 0 | .cn => f.xs.getLsbD 1 | .sm => f.xs.getLsbD 2 | .tl => f.xs.getLsbD 3))) s ∧
    (∀ i p, Passes {} 0x52 false f s i p → s.partials = [] →
      ∃ t, exec (.pref f) s = .next t ∧ t.mem = s.mem ∧ t.clm = s.clm ∧ ∀ c ∈ t.caches, c ∉ s.caches →
        c.core = i.core ∧ c.path = .ls ∧ c.data = Mem.readBytes s.mem (64 * c.line) 64)

/-- R200: the new value of an atomic operation from the old value o and the operands b and c, at the width of its type. R87, R199, R201,
R202: `atom` with global addresses that are aligned and translated completes: its destination is empty until its data arrives, and its
acknowledgement is outstanding. With a relaxed ordering, no partial of a reduction held, and locations that pass the ownership check and
are not poisoned, the lanes act in ascending order: each has its location's value then as its old value, and leaves the new one there. On
CLM-tagged addresses, aligned, in the team's block and not to be waited for, they do so in core-local memory, and global memory stays.
`red` likewise completes, accepting its lanes in ascending order; where all its lanes are CLM-tagged it takes PROT with REASON 5. R97,
R277: the update-only state. A `red` to a location that no core has in that state sets the core's partial to its operand; a later `red` of
core's, of any agent of its, with that operation and type combines into it; a recall combines the partial into the home's value where the
ownership check passes and the line is not poisoned (R349), and else changes no byte; nothing of it is left. -/
def Obligations.AtomicResults : Prop :=
  (∀ (ty : Nat) (old b c : Nat),
    let n := if ty = 1 ∨ ty = 4 ∨ ty = 5 ∨ ty = 7 then 64 else 32
    let o : BitVec n := BitVec.ofNat n old
    let x : BitVec n := BitVec.ofNat n b
    let new (op : Nat) : BitVec n := BitVec.ofNat n (atomNew op ty old b c)
    let less (u v : BitVec n) : Bool := if ty = 2 ∨ ty = 4 then u.slt v else u.ult v
    new 0 = o + x ∧ new 1 = (if less x o then x else o) ∧ new 2 = (if less o x then x else o) ∧
    new 3 = o &&& x ∧ new 4 = o ||| x ∧ new 5 = o ^^^ x ∧ new 6 = x ∧
    new 7 = (if o = BitVec.ofNat n c then x else o) ∧
    new 8 = (if x.ule o then 0 else o + 1) ∧ new 9 = (if o = 0 ∨ x.ult o then x else o - 1) ∧
    (ty = 6 → new 10 = BitVec.ofNat n (rneAdd o.toNat x.toNat)) ∧
    ∀ op < 10, atomNew op ty old b c < 2 ^ n) ∧
  (∀ (f : Ext) (s : State) (tm : Team) (pa core off : Nat → Nat),
    let n (i : Iss) : Nat := if i.f.ty.toNat = 1 ∨ i.f.ty.toNat = 4 ∨ i.f.ty.toNat = 5 ∨ i.f.ty.toNat = 7 then 8 else 4
    let fine (i : Iss) : Prop := s.team? i.team = some tm ∧ i.lanes ≠ [] ∧ ∀ l ∈ i.lanes, (i.va s l).toNat % n i = 0 ∧ clmTag (i.va s l) = none ∧
      s.translate i.core i.ctx (i.va s l) { r := true, w := true } = (s, .ok (pa l))
    let new (i : Iss) (l old : Nat) : Nat := atomNew f.sub.toNat f.ty.toNat old (i.vb s l).toNat (i.vc s l).toNat
    let given (i : Iss) (olds : FMap Nat) (l : Nat) : W64 := extendTy f.ty.toNat ((FMap.find olds l).getD 0)
    (∀ i p, Passes (atomHooks (f.xs != 0)) 0x53 false f s i p → fine i →
      ∃ (s2 : State) (old : Nat → W64) (succ : Option (Nat × W64)) (late : Option Late),
        exec (.atom f) s = .next (i.complete p (i.raiseAck (i.startLoad s2 (i.eachLane old) succ late) none)) ∧
        (succ.isSome = true ↔ i.f.sub = 7 ∧ i.f.imm.toNat % 8 ≠ 0 ∧ i.seq = false)) ∧
    (∀ i p, Passes (atomHooks (f.xs != 0)) 0x53 false f s i p → fine i → f.xs = 0 → s.partials = [] →
      (∀ l ∈ i.lanes, s.homePasses i.ctx (pa l) true = true ∧ FMap.find s.poison (pa l / 64) = none ∧ pa l + 8 ≤ 0x7FFF000000) →
      let r := i.lanes.foldl (fun (x : Mem × FMap Nat) l =>
        let old := Mem.readNat x.1 (pa l) (n i)
        (Mem.writeBytes x.1 (pa l) (leBytes (n i) (new i l old)), x.2 ++ [(l, old)])) (s.mem, [])
      ∃ (s2 : State) (succ : Option (Nat × W64)),
        exec (.atom f) s = .next (i.complete p (i.raiseAck (i.startLoad s2 (i.lanes.map (fun l => (l, given i r.2 l))) succ none) none)) ∧
        s2.mem = r.1 ∧ s2.clm = s.clm) ∧
    (∀ i p, Passes (atomHooks (f.xs != 0)) 0x53 false f s i p → s.team? i.team = some tm → i.lanes ≠ [] → f.xs = 0 →
      (∀ l ∈ i.lanes, ∃ o, clmTag (i.va s l) = some o ∧ o.toNat % n i = 0 ∧ tm.resolve i.core o (n i) = some (core l, off l) ∧
        s.clmGate i.team tm (core l) (off l) (n i) true = .ok ∧ s.lostLine tm (core l) (off l) (n i) = none) →
      let r := i.lanes.foldl (fun (x : State × FMap Nat) l =>
        let old := leNat (x.1.clmRead tm (core l) (off l) (n i))
        (x.1.clmStore i.team (core l) (off l) (leBytes (n i) (new i l old)), x.2 ++ [(l, old)])) (s, [])
      ∃ (s2 : State) (succ : Option (Nat × W64)),
        exec (.atom f) s = .next (i.complete p (i.raiseAck (i.startLoad s2 (i.lanes.map (fun l => (l, given i r.2 l))) succ none) none)) ∧
        s2.clm = r.1.clm ∧ s2.dirty = r.1.dirty ∧ s2.mem = s.mem) ∧
    (∀ i p, Passes ackHooks 0x54 false f s i p → fine i →
      exec (.red f) s = .next (i.complete p (i.raiseAck (i.lanes.foldl (fun r l => i.redLane l (pa l) (i.vb r l) r) s) none))) ∧
    Traps (.red f) ackHooks 0x54 false f
      (fun i s => i.lanes ≠ [] ∧ ∀ l ∈ i.lanes, (i.va s l).toNat % n i = 0 ∧ (clmTag (i.va s l)).isSome = true)
      (fun i s => { cause := .prot, addr := i.va s (i.lanes.headD 0), lanes := some (maskOf i.lanes), detail := memDetail false .atomic 0 5 0 }) s) ∧
  (∀ (i : Iss) (s : State) (pa l k : Nat) (b c : W64),
    let n := atomSize i.f.ty.toNat
    let ty := tyOf i.f.ty.toNat
    let op := if i.f.sub.toNat = 6 then 10 else i.f.sub.toNat
    let v : W64 := BitVec.ofNat 64 (b.toNat % 2 ^ (8 * n))
    let s1 := i.redLane l pa b s
    let part (v : W64) (lanes : W64) : Partial :=
      { core := i.core, addr := pa, op := i.f.sub.toNat, ty, val := v, ctx := i.ctx,
        sources := [{ uid := (i.state s).uid, cycle := s.now, va := i.va s l, lanes, poff := poffOf i.entry i.pc }] }
    i.f.ty.toNat < 7 → i.f.sub.toNat < 7 → i.core < 160 → s.partials = [] →
    s1.partials = [part v (1 <<< l)] ∧ s1.mem = s.mem ∧
    (i.redLane k pa c s1).partials = [part (BitVec.ofNat 64 (atomNew op i.f.ty.toNat v.toNat c.toNat 0)) (1 <<< l ||| 1 <<< k)] ∧
    (∀ (j : Iss), j.core = i.core → j.f.ty = i.f.ty → j.f.sub = i.f.sub → (j.redLane k pa c s1).partials.map (fun q => (q.core, q.addr, q.val)) =
      [(i.core, pa, BitVec.ofNat 64 (atomNew op i.f.ty.toNat v.toNat c.toNat 0))]) ∧
    (s1.recall (pa / 64)).partials = [] ∧
    (FMap.find s.poison (pa / 64) ≠ none → (s1.recall (pa / 64)).mem = s.mem) ∧
    (s.homePasses i.ctx pa true = false → (s1.recall (pa / 64)).mem = s.mem) ∧
    (s.homePasses i.ctx pa true = true → FMap.find s.poison (pa / 64) = none → (s1.recall (pa / 64)).mem = Mem.writeNat s.mem pa n (atomNew op i.f.ty.toNat (Mem.readNat s.mem pa n) v.toNat 0)))

/-- R70, R71, R205, R345: `cmap` places the region and makes its lines untouched, clean and not lost, where its control word and address
break no limit; otherwise it takes PROT with REASON 6, and with KIND 0, which is the model's choice (notes/assumptions/35.md). R72, R206:
`cflush` and `cunmap` take the dirty lines of the region that B names as one operation of the copy counter, charged for the dirty bytes,
and leave the lines untouched or the region unmapped, the lines of a `cflush` still dirty in the save term until they are written (the
model's reading, notes/assumptions/114.md); an index with no region gives a zero-byte copy. -/
def Obligations.MappedRegionResults : Prop :=
  ∀ (f : Ext) (s : State) (t : Team) (r : Region),
    let ctl (i : Iss) (s : State) : W64 := i.vb s 0
    let va (i : Iss) (s : State) : W64 := i.va s 0
    let lines (i : Iss) (s : State) : Nat := (bits (ctl i s) 20 13).toNat
    let idx (i : Iss) (s : State) : Nat := (bits (ctl i s) 40 4).toNat
    let sound (i : Iss) (s : State) (core o : Nat) : Prop :=
      bits (ctl i s) 44 20 = 0 ∧ bits (ctl i s) 37 3 = 0 ∧ bits (ctl i s) 33 3 = 0 ∧ 1 ≤ lines i s ∧ lines i s ≤ 4096 ∧
      bits (ctl i s) 0 6 = 0 ∧ bits (va i s) 0 6 = 0 ∧ FMap.find t.regions (idx i s) = none ∧
      t.resolve i.core ((bits (ctl i s) 0 20).setWidth 64) (64 * lines i s) = some (core, o) ∧
      ∀ q ∈ t.regions, ¬ (q.2.core = core ∧ q.2.off < o + 64 * lines i s ∧ o < q.2.off + 64 * q.2.lines)
    let inside (i : Iss) (s : State) (core o k : Nat) : Bool := decide (t.lineKey core o ≤ k) && decide (k < t.lineKey core o + lines i s)
    let copyOf (i : Iss) (core : Nat) (ls : List (Nat × W64 × W64)) (s : State) : State :=
      (s.issueOp { agent := i.agent, core := i.core, ctx := i.ctx, cls := .memory, charge := 32 + (dirtyBytes ls + 63) / 64, counter := .copy,
                   poff := poffOf i.entry i.pc, kind := .writeBack i.team core ls (dirtyBytes ls) }).2
    let named (i : Iss) (s : State) (r? : Option Region) : Prop := s.team? i.team = some t ∧ FMap.find t.regions (i.vb s 0).toNat = r?
    (∀ core o, Effect (.cmap f) {} 0x57 false f (fun i s => s.team? i.team = some t ∧ sound i s core o)
      (fun i s =>
        let q : Region := { core, off := o, lines := lines i s, va := va i s, we := (ctl i s).getLsbD 36 }
        { s with dirty := s.dirty.filter (fun k => !inside i s core o k), copied := s.copied.filter (fun k => !inside i s core o k),
                 lost := s.lost.filter (fun k => !inside i s core o k) }.modTeam i.team
          (fun t => { t with regions := FMap.put t.regions (idx i s) q })) s) ∧
    Traps (.cmap f) {} 0x57 false f (fun i s => s.team? i.team = some t ∧ ∀ core o, ¬ sound i s core o)
      (fun i s => { cause := .prot, addr := va i s, detail := memDetail false .load 0 6 0 }) s ∧
    Effect (.cflush f) (writeBackHooks false) 0x59 false f (fun i s => named i s none) (fun i s => copyOf i i.core [] s) s ∧
    Effect (.cunmap f) (writeBackHooks true) 0x58 false f (fun i s => named i s none) (fun i s => copyOf i i.core [] s) s ∧
    Effect (.cflush f) (writeBackHooks false) 0x59 false f (fun i s => named i s (some r))
      (fun i s => copyOf i r.core r.dirtyLines
        (s.modTeam i.team (fun t => { t with regions := FMap.put t.regions (i.vb s 0).toNat { r with state := [], asked := [] } }))) s ∧
    Effect (.cunmap f) (writeBackHooks true) 0x58 false f (fun i s => named i s (some r))
      (fun i s => copyOf i r.core r.dirtyLines
        ({ s with dirty := (s.unmapDirty t r).foldl NSet.add s.dirty }.modTeam i.team
          (fun t => { t with regions := FMap.del t.regions (i.vb s 0).toNat }))) s

/-- R13, R207, R208: the barrier object. `binit` sets EXP to the count, 0 taken as 1, clears ARR, BYTES and ERR and keeps PHASE; an
arrival adds its bytes and counts; a completion of n bytes takes them off, sets ERR where it was refused and counts where it is asked to;
after each, the phase flips and ARR is cleared exactly when ARR is EXP and BYTES is 0. An object keeps its fields and its reserved bits in
memory. R13, R89, R208: `binit`, `arrive` and `drain` change the object at A + IMM as one operation; the arrivals end the agent's region
and release at team scope. `waitb` completes where the phase differs from B[0], and otherwise parks its slot with nothing else done but
its stop site; it is woken, and the agent goes on after it, once the phase has flipped. -/
def Obligations.BarrierResults : Prop :=
  (∀ (b : BarObj) (n : Nat) (v : BitVec 40) (e a : Bool) (old : Nat),
    let flips (arrived : Nat) (bytes : BitVec 40) : Bool := decide (arrived = b.expect) && decide (bytes = 0)
    let arr := (b.arrived + 1) % 65536
    let c := if a then arr else b.arrived
    (b.init n = { b with expect := if n % 65536 = 0 then 1 else n % 65536, arrived := 0, bytes := 0, err := false }) ∧
    (b.arrive v = { b with bytes := b.bytes + v, arrived := if flips arr (b.bytes + v) then 0 else arr,
                           phase := if flips arr (b.bytes + v) then !b.phase else b.phase }) ∧
    (b.complete n e a = { b with bytes := b.bytes - BitVec.ofNat 40 n, err := b.err || e,
                                 arrived := if flips c (b.bytes - BitVec.ofNat 40 n) then 0 else c,
                                 phase := if flips c (b.bytes - BitVec.ofNat 40 n) then !b.phase else b.phase }) ∧
    (b.expect < 65536 → b.arrived < 65536 → old < 2 ^ 128 →
      BarObj.ofNat (b.toNat old) = b ∧ b.toNat old < 2 ^ 128 ∧ b.toNat old / 2 ^ 34 % 2 ^ 30 = old / 2 ^ 34 % 2 ^ 30 ∧
      b.toNat old / 2 ^ 104 = old / 2 ^ 104)) ∧
  (∀ (f : Ext) (s : State) (t : Team) (core o : Nat),
    let here (store : Bool) (i : Iss) (s : State) : Prop :=
      i.object s store = .ok (t, core, o) ∧ s.clmGate i.team t core o 16 store = .ok ∧ s.lostLine t core o 16 = none
    let line := t.lineKey core o
    let arrive (i : Iss) (s : State) (bytes : BitVec 40) : State :=
      let r := (s.modBar i.team core o (fun b => b.arrive bytes)).closeRegion i.agent
      r.2.releaseAt i.agent line (some (1, r.1))
    let phase := (s.barObj t core o).phase
    Effect (.binit f) { delta := objDelta } 0x5A false f (here true) (fun i s => s.modBar i.team core o (fun b => b.init (i.vb s 0).toNat)) s ∧
    Effect (.arrive f) { delta := objDelta, sync := true } 0x5B false f (here true)
      (fun i s => arrive i s (if f.xs = 1 then bits (i.vb s 0) 0 40 else 0)) s ∧
    Effect (.drain f) { hold := fun i s => (i.state s).ack != 0, delta := objDelta, sync := true } 0x5D false f (here true)
      (fun i s => arrive i s 0) s ∧
    Effect (.waitb f) { sync := true } 0x5C false f (fun i s => here false i s ∧ phase ≠ (i.vb s 0).getLsbD 0)
      (fun i s => (s.closeRegion i.agent).2.acquireAt i.agent line (some 1)) s ∧
    (∀ i p, Passes { sync := true } 0x5C false f s i p → here false i s → f.s = false → phase = (i.vb s 0).getLsbD 0 → i.seq = false →
      ∃ t, exec (.waitb f) s = .next t ∧ t.mem = s.mem ∧ t.clm = s.clm ∧
        (t.slot? i.agent).map (fun (sl : Slot) => (sl.park, sl.pc)) =
          (s.slot? i.agent).map (fun (sl : Slot) => (Park.waitb (i.va s 0 + f.imm.signExtend 64) ((i.vb s 0).getLsbD 0) i.words, sl.pc))) ∧
    (∀ (a : Agent) (sl : Slot) (obj : W64) (par : Bool) (words : Nat) (g : Nat) (gr : Group) (j : SlotId),
      a = .group g j → s.group? g = some gr → gr.slotOf j = sl → s.team? gr.team = some t → t.resolve (g / 64) obj 16 = some (core, o) →
      (sl.park = .woken obj words ∨ sl.park = .waitb obj par words ∧ (s.barObj t core o).phase ≠ par) →
      ∃ r, exec (.waitbWake a) s = .next r ∧ r.mem = s.mem ∧
        (r.slot? a).map (fun (x : Slot) => (x.park, x.pc)) = some (Park.none, sl.pc + BitVec.ofNat 64 (4 * words))))

/-- R209, R210: `pin` and `unpin` replace the name of pin register K in the register and the core's CAM; `pin` is a full fence of device
scope. The removal of a name waits until every earlier access of the group is performed, its engines' and its logged stores among them.
`reclaim` fences, leaves its destination empty and holds its slot until the search ends; its search gives status 0 for the name 0. R210,
R283, R287 to R289, R361: what the search of a non-zero name answers, made as a full fence of device scope. A pinned name that the
deferred list holds already gives status 1; one that it takes gives 1 and is entered; one for which it has no room gives 2. An unpinned
name whose push succeeds gives 0; a ring whose record is bad gives 2; a full ring keeps a running core's `reclaim` waiting. -/
def Obligations.PinResults : Prop :=
  (∀ (f : Ext) (s : State) (g : Group),
    let hold : Iss → State → Bool := fun i s => (i.state s).ack != 0 || s.loadsOut i.agent
    let set (i : Iss) (s : State) (name : W64) : State :=
      ((s.modGroup i.gi (fun x => { x with pns := FMap.put x.pns (f.d.toNat % 8) name })).camAdd i.core i.ctx name).camRemove i.core i.ctx
        (FMap.at 0 g.pns (f.d.toNat % 8))
    Effect (.pin f) { hold := fun i s => hold i s || (i.oldPin s != 0 && s.accessesOut i.agent), sync := true } 0x5E false f (fun i s => s.group? i.gi = some g)
      (fun i s => ((set i s (i.vb s 0)).fullFence i.agent 4).dropLines (fun l => l.core == i.core && l.path == .ls)) s ∧
    Effect (.unpin f) { hold := fun i s => hold i s || s.accessesOut i.agent } 0x5F false f (fun i s => s.group? i.gi = some g)
      (fun i s => set i s 0) s ∧
    (∀ i : Iss, s.group? i.gi = some g → i.oldPin s = FMap.at 0 g.pns (i.f.d.toNat % 8)) ∧
    (∀ gi j x, s.accessesOut (.group gi j) = false → s.group? gi = some x → x.logged = 0) ∧
    (∀ i p dst, Passes { hold, sync := true } 0x60 false f s i p → i.d = some dst →
      exec (.reclaim f) s = .next (i.completeCtl p (i.holdFor s (.search (i.vb s 0) dst (i.vd s 0) none)))) ∧
    (∀ op o dst old, FMap.find s.ops op = some o → o.kind = .search 0 dst old none →
      exec (.pinSearchComplete op) s = .next (((s.fullFence o.agent 4).dropLines (fun l => l.core == o.core && l.path == .ls)).statusDone op o dst 0))) ∧
  (∀ (s s1 s2 s3 : State) (op : Nat) (o : Op) (name : W64) (dst : Reg) (old : W64) (l : Option (List W64)),
    let r := (s.fullFence o.agent 4).invalidateL1 o.core
    FMap.find s.ops op = some o → o.kind = .search name dst old none → name ≠ 0 →
    let done (r : State) (status : W64) : Host.Outcome State Fault Refusal := .next (r.statusDone op o dst status)
    (r.pinFound o.ctx name = true → r.deferList o.ctx = (s1, l) →
      ((slotWith l name).isSome = true → exec (.pinSearchComplete op) s = done s1 1) ∧
      ((slotWith l name).isSome = false → s1.deferName o.ctx name = (s2, true) → exec (.pinSearchComplete op) s = done s2 1) ∧
      ((slotWith l name).isSome = false → s1.deferName o.ctx name = (s2, false) →
        exec (.pinSearchComplete op) s = done (s2.deffull o.ctx 0) 2)) ∧
    (r.pinFound o.ctx name = false →
      (r.freeName o.ctx name = (s1, .ok) → exec (.pinSearchComplete op) s = done s1 0) ∧
      (r.freeName o.ctx name = (s1, .bad) → exec (.pinSearchComplete op) s = done s1 2) ∧
      (r.freeName o.ctx name = (s1, .full) → s1.deferList o.ctx = (s3, l) → (s3.core o.core).phase = .running →
        exec (.pinSearchComplete op) s = .next (s3.modOp op (fun o => { o with kind := .search name dst old (some (slotWith l name).isSome) })))))

/-- R283: a search finds a name exactly where it is not 0 and the directory is known to be incomplete, a CAM of the context's cores holds
a pin of it, or the directory's bucket of it has a count. R282: a CAM counts the pins of a name; a removal takes one off, and leaves the
other names alone. A CAM holds a name of a context once, and that stays so. R287 to R289: a queued re-search takes the first name of the
queue. A name that the list holds no longer, or that a pin holds, is left; another is freed, or waits for room in the ring. A push that
waited is made once there is room, and its name leaves the queue or its `reclaim` has a status. The ring takes a name where PUT - TAKE is
below its size, at 32 + 8 x (PUT mod 2^k), and PUT rises by one. -/
def Obligations.PinsAreFound : Prop :=
  (∀ (s : State) (ctx core : Nat) (c : Context) (x : W64),
    let once (s : State) : Prop := ∀ y k, ((s.core core).pins.filter (fun e => e.name == y && e.ctx == k)).length ≤ 1
    s.ctx? ctx = some c →
    (s.pinFound ctx 0 = false) ∧
    (x ≠ 0 → (s.pinFound ctx x = true ↔ c.dirfull = true ∨
      (∃ q ∈ c.pairs, s.camCount (2 * q) ctx x ≠ 0 ∨ s.camCount (2 * q + 1) ctx x ≠ 0) ∨
      (∃ a, (s.probe c x 64 0 none).1 = some a ∧ Mem.readNat s.mem (a + 8) 4 ≠ 0))) ∧
    (x ≠ 0 → (s.camAdd core ctx x).camCount core ctx x = s.camCount core ctx x + 1) ∧
    (∀ y, y ≠ x → (s.camAdd core ctx x).camCount core ctx y = s.camCount core ctx y) ∧
    (once s → once (s.camAdd core ctx x) ∧ once (s.camRemove core ctx x)) ∧
    (once s → x ≠ 0 → s.camCount core ctx x ≠ 0 →
      (s.camRemove core ctx x).camCount core ctx x = s.camCount core ctx x - 1 ∧
      ∀ y, y ≠ x → (s.camRemove core ctx x).camCount core ctx y = s.camCount core ctx y)) ∧
  (∀ (s s1 s2 : State) (ctx op : Nat) (x : W64) (rest : List (Nat × W64)) (l : Option (List W64)) (o : Op) (dst : Reg) (old : W64) (c : Context),
    (s.hub.rehunts = (ctx, x) :: rest → (s.modHub (fun h => { h with rehunts := rest })).deferList ctx = (s1, l) →
      (slotWith l x = none ∨ s1.pinFound ctx x = true → exec .research s = .next s1) ∧
      (slotWith l x ≠ none → s1.pinFound ctx x = false →
        (∀ r, s1.freeName ctx x = (s2, r) → r ≠ .full → exec .research s = .next s2) ∧
        (s1.freeName ctx x = (s2, .full) → exec .research s = .next (s2.modHub (fun h =>
          { h with pushes := if h.pushes.contains (ctx, x) then h.pushes else h.pushes ++ [(ctx, x)] }))))) ∧
    (s.hub.pushes.find? (fun p => p.1 == ctx) = some (ctx, x) → s.deferList ctx = (s1, l) →
      let done (u : State) : State := u.modHub (fun h => { h with pushes := h.pushes.erase (ctx, x) })
      (slotWith l x = none ∨ s1.pinFound ctx x = true → exec (.freedRingPush ctx) s = .next (done s1)) ∧
      (slotWith l x ≠ none → s1.pinFound ctx x = false → ∀ r, s1.freeName ctx x = (s2, r) → r ≠ .full → exec (.freedRingPush ctx) s = .next (done s2))) ∧
    (s.hub.pushes.find? (fun p => p.1 == ctx) = none → s.ops = [(op, o)] → o.ctx = ctx → (∀ w, o.kind = .search x dst old (some w) →
      s.deferList ctx = (s1, l) →
      (w = true → slotWith l x = none → exec (.freedRingPush ctx) s = .next (s1.statusDone op o dst 0)) ∧
      (w = false ∨ slotWith l x ≠ none →
        (s1.freeName ctx x = (s2, .ok) → exec (.freedRingPush ctx) s = .next (s2.statusDone op o dst 0)) ∧
        (s1.freeName ctx x = (s2, .bad) → exec (.freedRingPush ctx) s = .next (s2.statusDone op o dst 2))))) ∧
    (∀ put take lg, s.ctx? ctx = some c → s.hubWords ctx c.freed 3 = (s1, .ok [put, take, lg]) →
      let n := 2 ^ (lg.toNat % 32)
      (lg.toNat % 32 < 4 ∨ 24 < lg.toNat % 32 → (s.pushFreed ctx x).2 = .bad) ∧
      (4 ≤ lg.toNat % 32 → lg.toNat % 32 ≤ 24 →
        (put - take = BitVec.ofNat 64 n → s.pushFreed ctx x = (s1, .full)) ∧
        (put - take ≠ BitVec.ofNat 64 n →
          s.pushFreed ctx x =
            (((s1.hubWrite ctx (c.freed + BitVec.ofNat 64 (32 + 8 * (put.toNat % n))) 8 x.toNat).1.hubRelease ctx c.freed 8 (put + 1).toNat).1,
              .ok)))))

/-- R33, R50, R51, R71, R194, R201, R330, R342: what returns to the agents. The data of a load fills its destination, with the success
mask of a `cas` in its lanes, and a cause found with it comes late; an acknowledgement lowers the counter and brings its cause; a refill
makes its row full, or leaves it spilled and lost where its read has failed (R330); a spilled row leaves the write buffer for its lines of
the group state area, lost where its write was refused, and stays marked as spilled, which is the model's reading of R45
(notes/assumptions/89.md); a fill puts its line's bytes into core-local memory, clean. R51, R57, R194, R201: the arrival of a load's data.
The destination is full and reads the value in each of its lanes; the operation is gone; no other register of the group changes but the
success mask, and no byte of memory. -/
def Obligations.Arrivals : Prop :=
  (∀ (s : State) (op : Nat) (o : Op) (a : Agent) (ag : AgentState) (gi row : Nat) (g : Group) (t : Team) (r : Region) (region line pa v : Nat),
    (∀ ty dst lanes vals succ late, FMap.find s.ops op = some o → o.kind = .load ty dst lanes vals succ late →
      exec (.loadDataArrival op) s = .next (s.loadArrives op o dst lanes vals succ late)) ∧
    (s.agentState? a = some ag → s.remoteStores a < ag.ack →
      exec (.storeAck a) s = .next ((s.modAgent a (fun x =>
        { x with ack := x.ack - 1, ackLate := x.ackLate.drop 1, late := x.late ++ x.ackLate.take 1 })).endIfFatal a)) ∧
    (∀ j, FMap.find s.ops op = some o → o.kind = .refill row → o.agent = .group gi j →
      exec (.refillComplete ⟨op, true⟩) s =
        .next ((s.modGroup gi (fun x => x.setRow row { x.row row with full := true, refilling := false })).dropOp op) ∧
      exec (.refillComplete ⟨op, false⟩) s = .next ((s.modGroup gi (fun x => x.setRow row
        { x.row row with backed := false, spilled := true, full := true, refilling := false, lost := true })).dropOp op)) ∧
    (s.group? gi = some g → row < 256 → (g.row row).spilled = true → (g.row row).inBuffer = true →
      let written (lost : Bool) : State := (rowLines g.ctx gi g.width row).foldl (fun (x : State) l => x.areaWrite g.ctx l)
        (s.modGroup gi (fun x => x.setRow row { x.row row with inBuffer := false, lost }))
      exec (.spillWrite gi row true) s = .next (written false) ∧
      exec (.spillWrite gi row false) s = .next ((written true).lostEvent g.ctx (gi / 64) row)) ∧
    (∀ tid s1 s2, s.team? tid = some t → (∀ c ∈ s.compactions, c.team ≠ tid) → FMap.find t.regions region = some r → r.asked.contains line = true → FMap.find r.state line = none →
      s.translate r.core t.ctx (r.va + BitVec.ofNat 64 (64 * line)) { r := true } = (s1, .ok pa) → s1.homeRead t.ctx pa 64 = (s2, .ok v) →
      ∃ u, exec (.regionFillComplete tid region line) s = .next u ∧
        u.clm = Mem.writeBytes s2.clm (t.key r.core (r.off + 64 * line)) (leBytes 64 v) ∧ u.mem = s2.mem ∧ u.dirty = s2.dirty)) ∧
  (∀ (s : State) (op gi : Nat) (o : Op) (g : Group) (j : SlotId) (ty : ElemTy) (n : Nat) (part : Part) (lanes : W64) (vals : FMap W64)
    (l : Nat) (v : W64),
    FMap.find s.ops op = some o → o.kind = .load ty (.vec n part) lanes vals none none → o.agent = .group gi j → s.group? gi = some g →
    (∀ b, part = .byte b → b < 4) → FMap.find vals l = some v → l < g.width →
    ∃ t g', exec (.loadDataArrival op) s = .next t ∧ t.group? gi = some g' ∧ t.mem = s.mem ∧ t.clm = s.clm ∧
      (FMap.wf s.ops = true → FMap.find t.ops op = none) ∧
      (∀ u ∈ (Reg.vec n part).units, t.unitFull gi g' u = true) ∧
      (∀ m, t.readGroupReg gi g' m (.vec n part) l = (Reg.vec n part).keeps v) ∧
      (∀ k, k ∉ rowsOf [.vec n part] → g'.row k = g.row k) ∧ g'.qs = g.qs ∧ g'.ms = g.ms ∧ g'.s0 = g.s0 ∧ g'.s1 = g.s1)

/-! Traps -/

/-- R326 to R328, R331: taking a trap in a PC slot that is not trapped. The slot is trapped and keeps its PC, mask and fmt, and the
instruction has no effect: memory, registers and the stack's entries stay. The record names the agent, the cause and its address, lanes
and DETAIL, and holds the path's mask, fmt, PC offset and time. Without a HANDLER it is escalated; with one and a free handler slot the
handler slot is live there with fmt 0 and the faulting lanes, or the path's mask; under a running handler it waits its turn. R331: a trap
in the handler slot stops it and escalates its record, with NEST, and the interrupted path's; a trap of a sequencer thread stops the
thread and escalates its record, with SEQ. Each record that is posted has ESC set. -/
def Obligations.TrapEntry : Prop :=
  (∀ (s : State) (g : Nat) (gr : Group) (i : SlotId) (t : Trap),
    s.group? g = some gr → i ≠ .handler → (gr.slotOf i).status ≠ .trapped →
    let sl := gr.slotOf i
    let r := mkRecord s (.group g i) sl gr.entry gr.agent none t
    let s' := s.takeTrap (.group g i) t
    (r.addr = t.addr ∧ r.flanes = t.lanes.getD sl.mask ∧ r.pmask = sl.mask ∧ r.detail = t.detail ∧ bits r.w2 0 32 = poffOf gr.entry sl.pc ∧
      bits r.w2 48 16 = gr.agent.ord ∧ bits r.w6 0 32 = sl.fmt ∧ bits r.w6 32 32 = t.ipoff ∧ r.time = gr.agent.vcyc s.now ∧
      bits r.w0 0 8 = BitVec.ofNat 8 t.cause.code ∧ bits r.w0 8 23 = 0 ∧ bits r.w0 31 3 = 0 ∧ r.w0.getLsbD 34 = (i == .pc1) ∧
      bits r.w0 35 3 = 0 ∧ bits r.w0 38 4 = BitVec.ofNat 4 (g % 16) ∧ bits r.w0 42 2 = BitVec.ofNat 2 (g / 16 % 4) ∧
      bits r.w0 44 8 = BitVec.ofNat 8 (g / 64) ∧ bits r.w0 52 12 = BitVec.ofNat 12 gr.ctx) ∧
    s'.mem = s.mem ∧ s'.clm = s.clm ∧ s'.ops = s.ops ∧ s'.threads = s.threads ∧ (∀ k, k ≠ g → s'.group? k = s.group? k) ∧
    ∃ gr', s'.group? g = some gr' ∧ gr'.rows = gr.rows ∧ gr'.qs = gr.qs ∧ gr'.ms = gr.ms ∧
      gr'.stack.map (fun e => (e.kind, e.mask, e.poff, e.fmt)) = gr.stack.map (fun e => (e.kind, e.mask, e.poff, e.fmt)) ∧
      (gr'.slotOf i).status = .trapped ∧ (gr'.slotOf i).before = sl.status ∧ (gr'.slotOf i).pc = sl.pc ∧ (gr'.slotOf i).mask = sl.mask ∧
      (gr'.slotOf i).fmt = sl.fmt ∧
      (s.handlerOf gr.ctx = 0 → (gr'.slotOf i).escalated = true ∧ gr'.handler = gr.handler ∧
        (∀ c, s.ctx? gr.ctx = some c → ∃ c', s'.ctx? gr.ctx = some c' ∧
          c'.faults.map (fun p => p.record) = c.faults.map (fun p => p.record) ++ [r.escalated])) ∧
      (s.handlerOf gr.ctx ≠ 0 → gr.handler.slot.status = .free → gr.pending = [] →
        gr'.handler.slot.status = .live ∧ gr'.handler.slot.pc = s.handlerOf gr.ctx ∧ gr'.handler.slot.fmt = 0 ∧
        gr'.handler.slot.mask = t.lanes.getD sl.mask ∧ gr'.handler.serves = i ∧ gr'.handler.record = r ∧ s'.ctxs = s.ctxs) ∧
      (s.handlerOf gr.ctx ≠ 0 → gr.handler.slot.status ≠ .free → gr.handler.cycle < s.now → (∀ p ∈ gr.pending, p.cycle < s.now) →
        gr'.handler = gr.handler ∧ gr'.pending.map (fun p => p.record) = gr.pending.map (fun p => p.record) ++ [r]) ∧
      (s.handlerOf gr.ctx ≠ 0 → gr.handler.slot.status = .live → gr.handler.cycle = s.now → gr.handler.serves = .pc1 → i = .pc0 →
        gr'.handler.serves = .pc0 ∧ gr'.handler.record = r ∧
        gr'.pending.map (fun p => p.record) = gr.handler.record :: gr.pending.map (fun p => p.record))) ∧
  (∀ (s : State) (t : Trap) (c : Context),
    (∀ g gr, s.group? g = some gr → s.ctx? gr.ctx = some c →
      let s' := s.takeTrap (.group g .handler) t
      ∃ gr' c' r, s'.group? g = some gr' ∧ gr'.handler.slot.status = .trapped ∧ gr'.handler.stopped = true ∧
        gr'.handler.slot.pc = gr.handler.slot.pc ∧ gr'.rows = gr.rows ∧ gr'.qs = gr.qs ∧ s'.mem = s.mem ∧ s'.ctx? gr.ctx = some c' ∧
        c'.faults.map (fun p => p.record) = c.faults.map (fun p => p.record) ++ [r, gr.handler.record.escalated] ∧
        r.w0.getLsbD 32 = true ∧ r.w0.getLsbD 33 = true ∧ bits r.w0 0 8 = BitVec.ofNat 8 t.cause.code ∧ r.addr = t.addr ∧
        r.detail = t.detail) ∧
    (∀ n th, s.thread? n = some th → s.ctx? th.ctx = some c →
      let s' := s.takeTrap (.thread n) t
      ∃ th' c' r, s'.thread? n = some th' ∧ th'.slot.status = .trapped ∧ th'.slot.before = th.slot.status ∧ th'.slot.pc = th.slot.pc ∧
        th'.xs = th.xs ∧ th'.record = r ∧ s'.groups = s.groups ∧ s'.mem = s.mem ∧ s'.ctx? th.ctx = some c' ∧
        c'.faults.map (fun p => p.record) = c.faults.map (fun p => p.record) ++ [r] ∧
        r.w0.getLsbD 32 = true ∧ r.w0.getLsbD 37 = true ∧ bits r.w0 0 8 = BitVec.ofNat 8 t.cause.code ∧
        bits r.w2 0 32 = poffOf th.entry th.slot.pc))

/-- R144, R326: `tret` ends the running handler. With no other trap pending and one record outstanding for the trapped slot that it
serves, `.replay` returns the slot to what it was, at the trapped instruction, with its mask and fmt; `.skip` returns it after that
instruction; `.esc` leaves it trapped and posts the record. The handler slot is free. R141, R107, R333: a slot that has yielded or naps is
no longer parked after its time, at its PC. Where a core has quiesced, or its stall limit is reached, a candidate that the check still
fails takes VBOUND with WHY 1 or 2. -/
def Obligations.TrapReturnAndSlotEvents : Prop :=
  (∀ (f : Ext) (s : State) (gr : Group) (i : SlotId) (g : Nat) (c : Context),
    CtlEffect (.tret f) { illegal := fun i _ => !i.handler } 0x0D false f (fun _ _ => True) (fun i s => s.trapReturn i.gi f.sub.toNat) s ∧
    (s.group? g = some gr → i ≠ .handler → (gr.slotOf i).status = .trapped → (gr.slotOf i).owed ≤ 1 → gr.handler.tok = (gr.slotOf i).tok →
      gr.handler.eng = none → gr.pending = [] → (gr.slotOf i).before ≠ .trapped → s.ctx? gr.ctx = some c →
      ((gr.slotOf i.other).status ≠ .trapped ∨ (gr.slotOf i.other).tok ≠ gr.handler.tok) →
      let sl := gr.slotOf i
      let back (s' : State) (status : SlotStatus) (pc : W64) : Prop :=
        ∃ gr', s'.group? g = some gr' ∧ gr'.handler.slot.status = .free ∧ (gr'.slotOf i).status = status ∧ (gr'.slotOf i).pc = pc ∧
          (gr'.slotOf i).mask = sl.mask ∧ (gr'.slotOf i).fmt = sl.fmt ∧ gr'.slotOf i.other = gr.slotOf i.other ∧ gr'.rows = gr.rows ∧
          gr'.qs = gr.qs ∧ gr'.ms = gr.ms ∧ s'.mem = s.mem ∧ s'.clm = s.clm
      back (s.trapReturn g 0) sl.before sl.pc ∧
      (sl.tlen ≠ 0 → back (s.trapReturn g 1) sl.before (sl.pc + BitVec.ofNat 64 (4 * sl.tlen))) ∧
      back (s.trapReturn g 2) .trapped sl.pc ∧
      ∃ c', (s.trapReturn g 2).ctx? gr.ctx = some c' ∧
        c'.faults.map (fun p => p.record) = c.faults.map (fun p => p.record) ++ [gr.handler.record.escalated])) ∧
  (∀ (s : State) (a : Agent) (sl : Slot) (t : Nat) (st : Stall) (d : W64),
    s.slot? a = some sl →
    let wake : State := (s.elapse t).modSlot a (fun x => { x with park := .none })
    (sl.park = .yield t → exec (.yieldExpiry a) s = .next wake) ∧
    (sl.park = .nap t → exec (.napExpiry a) s = .next wake) ∧
    (sl.stall = some st → sl.status = .live → s.duskFails a.core (s.ctxOf a) st.delta = some (a.core, d) → s.canIssue a = true →
      s.chargedWork a.core = false →
      (max st.since (s.core a.core).lastCharged + 2 ^ 20 ≤ s.now →
        exec (.stallLimit a) s = .next (s.takeTrap a { cause := .vbound, detail := d ||| BitVec.ofNat 64 (2 * 2 ^ 53) })) ∧
      ((s.core a.core).phase = .running → (s.core a.core).lastIssue + 256 ≤ s.now → s.candidates.map Prod.fst = [a] →
        (∀ o ∈ s.ops, ∀ l n k, o.2.kind ≠ .kick l n k) →
        exec (.quiescence a.core) s = .next (s.takeTrap a { cause := .vbound, detail := d ||| BitVec.ofNat 64 (2 ^ 53) }))))

/-! Engines -/

/-- R213 to R216, R218: `cpy`, `cpy.y`, `gth`, `sct` and `kick` that meet no cause at issue start one operation of their counter, with the
transfer, addresses or list that the operands name; `cpy.y` also parks its slot. A size of 2^32 or more and a bad list take COPYERR, an
unreachable range or object the first cause in the order of R340; a copy of no bytes checks neither (R214). A copy whose given ranges
overlap takes its source bytes as they stand at issue. No active lane, no operation. -/
def Obligations.CopyIssueResults : Prop :=
  ∀ (f : Ext) (s : State) (t : Team),
    let team (i : Iss) (s : State) : Prop := s.team? i.team = some t
    let xs := f.xs.toNat
    let off (lo : Nat) : W64 := if f.sub = 0 then (bits f.imm lo 10).signExtend 64 * 16 else 0
    let x (i : Iss) (s : State) : Xfer :=
      { ssp := spaceOf (xs / 4 % 4), src := i.vb s 0 + off 0, dsp := spaceOf (xs % 4), dst := i.va s 0 + off 10, size := (i.vc s 0).toNat }
    let obj (i : Iss) (s : State) : Option W64 := i.d.map (fun r => i.read s (some r) 0)
    let cause (i : Iss) (s : State) : Option Trap :=
      firstCause [copyRange s i t (x i s).dsp (x i s).dst (x i s).size .engWrite, copyRange s i t (x i s).ssp (x i s).src (x i s).size .engRead,
                  if (x i s).size = 0 then none else (obj i s).bind (copyObject t)]
    let label (i : Iss) : W64 := i.pc + f.imm.signExtend 64 * 4
    let resv (i : Iss) (s : State) : FMap Nat := s.resvAll i.ctx t (x i s).dsp (x i s).dst (x i s).size
    let copy (i : Iss) (s : State) (y : Option (SlotId × W64)) : Nat × State :=
      s.issueOp { agent := i.agent, core := i.core, ctx := i.ctx, cls := .memory, charge := 32 + ((x i s).size + 63) / 64, counter := .copy,
                  resv := s.resvNow i.ctx (resv i s), owed := s.resvOwed i.ctx (resv i s), poff := poffOf i.entry i.pc,
                  kind := .copy ((x i s).begin s { ctx := i.ctx, core := i.core, team := i.team }) (obj i s) y }
    let yielded (i : Iss) (s : State) : State :=
      let r := copy i s (match i.agent with | .group _ sl => some (sl, label i) | .thread _ => none)
      let n := ((FMap.find r.2.ops r.1).map (fun (o : Op) => o.seq)).getD 0
      r.2.modSlot i.agent (fun sl => { sl with park := .cpyY r.1 n (label i) })
    let fits (i : Iss) (s : State) : Prop := team i s ∧ (x i s).size < 2 ^ 32 ∧ cause i s = none
    let big (i : Iss) (s : State) : Prop := team i s ∧ 2 ^ 32 ≤ (x i s).size
    let copyErr (i : Iss) (s : State) : Trap :=
      { cause := .copyerr, addr := (x i s).dst, detail := copyErrDetail 1 0xA 0, ipoff := poffOf i.entry i.pc }
    let addrs (i : Iss) (s : State) : FMap W64 :=
      i.eachLane (fun l => i.va s l + ((i.vb s l).setWidth 32).signExtend 64 * BitVec.ofNat 64 (tySize f.ty.toNat) + f.imm.signExtend 64)
    let bad (i : Iss) (s : State) : List (Nat × W64 × Cause × Nat) := gthFails t i.space (tySize f.ty.toNat) (addrs i s)
    let op (i : Iss) (r : FMap Nat) (kind : OpKind) : Op :=
      { agent := i.agent, core := i.core, ctx := i.ctx, cls := .memory, charge := 32 + i.lanes.length, counter := .gather,
        resv := s.resvNow i.ctx r, owed := s.resvOwed i.ctx r,
        poff := poffOf i.entry i.pc, kind }
    let some' (i : Iss) (s : State) : Prop := i.lanes.isEmpty = false ∧ team i s
    Effect (.cpy f) cpyHooks 0x61 false f fits (fun i s => (copy i s none).2) s ∧
    Effect (.cpyY f) cpyHooks 0x61 false f fits yielded s ∧
    Traps (.cpy f) cpyHooks 0x61 false f big copyErr s ∧
    Traps (.cpyY f) cpyHooks 0x61 false f big copyErr s ∧
    (∀ tr, Traps (.cpy f) cpyHooks 0x61 false f (fun i s => team i s ∧ (x i s).size < 2 ^ 32 ∧ cause i s = some tr) (fun _ _ => tr) s ∧
      Traps (.cpyY f) cpyHooks 0x61 false f (fun i s => team i s ∧ (x i s).size < 2 ^ 32 ∧ cause i s = some tr) (fun _ _ => tr) s) ∧
    Effect (.gth f) (gthHooks false) 0x62 false f (fun i s => some' i s ∧ bad i s = [])
      (fun i s => ((i.markEmpty s).issueOp (op i [] (.gather i.space (tyOf f.ty.toNat) (i.d.getD (.vec 0 .word))
        (if f.u then lanesOf i.width i.eff else []) (addrs i s) []))).2) s ∧
    Effect (.sct f) (gthHooks true) 0x63 false f (fun i s => some' i s ∧ bad i s = [])
      (fun i s => (s.issueOp (op i (i.sctResv s) (.scatter i.space (tyOf f.ty.toNat) (addrs i s) (i.eachLane (i.vc s)) 0))).2) s ∧
    Effect (.gth f) (gthHooks false) 0x62 false f (fun i _ => i.lanes.isEmpty = true) (fun _ s => s) s ∧
    Effect (.sct f) (gthHooks true) 0x63 false f (fun i _ => i.lanes.isEmpty = true) (fun _ s => s) s ∧
    (∀ tr, Traps (.gth f) (gthHooks false) 0x62 false f (fun i s => some' i s ∧ laneTrap .engRead 3 (bad i s) = some tr) (fun _ _ => tr) s ∧
      Traps (.sct f) (gthHooks true) 0x63 false f (fun i s => some' i s ∧ laneTrap .engWrite 4 (bad i s) = some tr) (fun _ _ => tr) s) ∧
    Effect (.kick f) { hold := copyHold } 0x64 false f (fun i s => team i s ∧ kickRefusal t (i.va s 0) (i.vb s 0) = none)
      (fun i s =>
        let r := s.issueOp { agent := i.agent, core := i.core, ctx := i.ctx, counter := .copy, poff := poffOf i.entry i.pc,
                             kind := .kick (i.va s 0).toNat (bits (i.vb s 0) 0 16).toNat 0 }
        r.2.kickDone r.1) s ∧
    (∀ st, Traps (.kick f) { hold := copyHold } 0x64 false f (fun i s => team i s ∧ kickRefusal t (i.va s 0) (i.vb s 0) = some st)
      (fun i s => { cause := .copyerr, addr := i.va s 0, detail := copyErrDetail 2 st 0, ipoff := poffOf i.entry i.pc }) s)

/-- R52, R90, R102, R113, R208, R213, R216 to R218, R343, R350: the engines' steps, for an operation that is neither parked, finished,
ending nor waiting for its charge. A piece lands as the engine's next accesses put it; a copy or entry whose bytes have all landed writes
its end, an entry's STATUS and an object counted down as an arrival of its group, and retires (that a copy's object is updated before its
retirement and counts as an arrival too is the model's reading, notes/assumptions/37.md and 94.md; that the end waits until the lines it
makes dirty fit is its choice, 113.md); a gather with its data and a scatter retire; an access that takes PAGE, PROT or OWNER parks the
operation, one that takes WINDOW or DATAERR ends it with status 6 or 7. R218: the request engine reads the next entry of a kick whole,
while fewer than eight are in flight. It refuses one that breaks a condition, with the lowest code in its STATUS and ERR in its object;
and starts any other, of no bytes too, as an operation of the memory class once its charge and reservation pass the check. That an entry
whose ranges overlap takes its source bytes as they stand at its start is the model's reading (notes/assumptions/81.md). -/
def Obligations.EngineSteps : Prop :=
  (∀ (s s1 s2 : State) (id : Nat) (o o1 : Op) (x : Xfer) (obj : Option W64) (y : Option (SlotId × W64)) (kick off : Nat) (eobj : Option Nat)
    (arr : Bool) (st : Nat),
    FMap.find s.ops id = some o → o.parked = none → o.finished = false → o.resuming = false → o.ending = false → o.owed = [] →
    let e := s.engFor id o
    let now (s : State) : State := s.modOp id (fun _ => o1)
    let next (stop : Option EngStop) : Prop := s.advance id o = (s1, o1, stop)
    let goes (stop : Option EngStop) : Prop := next stop ∧ (o1.kind ≠ o.kind ∨ ∃ c, stop = some (.moved c))
    (o.kind = .copy x obj y ∨ o.kind = .entry kick off x eobj arr st → x.landed ≠ x.size →
      (s.rowEnd e x x.pieceLen = false → ∀ stop, goes stop → exec (.copyBytesLanded id) s = .next (now s1)) ∧
      (s.rowEnd e x x.pieceLen = true → ∀ stop, goes stop → exec (.windowWriteLand id) s = .next (now s1))) ∧
    (o.kind = .copy x obj y → x.landed = x.size → s.putEnd o.agent e { obj, n := x.size } false = (s2, none) →
      exec (.copyRetire id) s = .next (s2.finishOp id)) ∧
    (o.kind = .entry kick off x eobj arr st → x.landed = x.size →
      s.putEnd o.agent e { status := some (off, 1), obj := eobj.map (BitVec.ofNat 64), n := x.size, arr } false = (s2, none) →
      exec (.requestEntryComplete id) s = .next ((s2.dropOp id).kickDone kick)) ∧
    (∀ t a core place n err, s.team? e.team = some t → t.objectAt a = some (core, place) → s.clmGate e.team t core place 16 true = .ok →
      s.lostLine t core place 16 = none →
      s.endFits e t [(core, place, 16)] = true → s.putEnd o.agent e { obj := some a, n, err, arr } false =
        ((s.modBar e.team core place (fun b => b.complete n err arr)).arrived o.agent (t.lineKey core place), none)) ∧
    (∀ tid core total, o.kind = .writeBack tid core [] total → exec (.copyRetire id) s = .next (s.finishOp id)) ∧
    (∀ tid core l rest total stop, o.kind = .writeBack tid core (l :: rest) total → next stop → o1.kind ≠ o.kind →
      exec (.copyBytesLanded id) s = .next (now s1)) ∧
    (∀ sp ty dst spread addrs got, o.kind = .gather sp ty dst spread addrs got → got.length = addrs.length →
      exec (.gatherRetire id) s = .next (s.finishOp id)) ∧
    (∀ sp ty addrs data n, o.kind = .scatter sp ty addrs data n → next none →
      exec (.gatherRetire id) s = .next ((now s1).finishOp id)) ∧
    (∀ c r a k w, next (some (.fail c r a k w)) →
      ((c = .page ∨ c = .prot ∨ c = .owner) → s1.serves o1.core = true →
        exec (.engineFaultPark id) s = .next ((now s1).parkOp id o1 c r a k w)) ∧
      ((c = .window ∨ c = .dataerr) →
        exec (.engineErrorRetire id) s = .next ((now s1).endWithError id (if c = .window then 6 else 7)
          (match o1.kind.xfer? with | some x => x.dst + BitVec.ofNat 64 x.landed | none => a) (if w then 6 else o1.kind.engine)))) ∧
    (next (some .saved) →
      ∃ t, exec (.engineFaultPark id) s = .next t ∧ t.mem = s1.mem ∧ t.clm = s1.clm ∧
        ∀ o', FMap.find s1.ops id = some o' → ∃ o2, FMap.find t.ops id = some o2 ∧ o2.charge = 32 ∧ o2.kind = o1.kind ∧
          ∃ p, o2.parked = some p ∧ p.quiet = true)) ∧
  (∀ (s s1 : State) (kick : Nat) (o : Op) (list count started off : Nat) (x : ListEntry) (t : Team),
    FMap.find s.ops kick = some o → o.parked = none → o.finished = false → o.resuming = false → o.ending = false → o.owed = [] →
    o.kind = .kick list count started → s.serves o.core = true → s.entriesOf kick < 8 → s.nextEntry o = .ok (s1, off, x, t) →
    let take (s : State) : State := s.modOp kick (fun o => { o with kind := match o.kind with | .kick l c n => .kick l c (n + 1) | k => k })
    let r := s1.resvAll o.ctx t (spaceOf x.dsp) x.dst x.size
    let d : Delta := { cls := .memory, charge := 32 + (x.size + 63) / 64, resv := s1.resvNow o.ctx r }
    let xf : Xfer := { ssp := spaceOf x.ssp, src := x.src, dsp := spaceOf x.dsp, dst := x.dst, size := x.size }
    let new : Op := { agent := o.agent, core := o.core, ctx := o.ctx, cls := .memory, charge := 32 + (x.size + 63) / 64, resv := d.resv,
                      owed := s1.resvOwed o.ctx r, poff := o.poff, kind := .entry kick off (xf.begin s1 (s1.engOf o)) (x.object t) x.arr 0 }
    (∀ st, x.refusal t = some st →
      let p := (take s1).addOp { agent := o.agent, core := o.core, ctx := o.ctx, poff := o.poff, error := some st, ending := true,
                                 kind := .entry kick off xf (x.object t) x.arr 0 }
      let q := p.2.putEnd o.agent { s1.engOf o with op := p.1 }
        { status := some (off, st), obj := (x.object t).map (BitVec.ofNat 64), n := x.size, err := true, arr := x.arr } true
      q.2 = none → exec (.requestEntryStart kick) s = .next ((q.1.dropOp p.1).kickDone kick)) ∧
    (x.refusal t = none → s1.duskFails o.core o.ctx d = none → exec (.requestEntryStart kick) s = .next (take (s1.addOp new).2)))

/-- R213: operations of one counter retire in issue order. One whose work is done while the oldest of its counter is not leaves the
counter as it is; the oldest, with none finished behind it, lowers the counter by one and is gone. R214: a run of a copy within core-local
memory. The bytes at the destination become those that the source held; the progress grows by the run; no other byte of core-local memory
changes, and no byte of HBM. -/
def Obligations.CopyMovesBytes : Prop :=
  (∀ (s : State) (id old g : Nat) (o ol : Op) (gr : Group) (j : SlotId),
    FMap.wf s.ops = true → FMap.find s.ops id = some o → o.agent = .group g j → o.counter = .copy → s.group? g = some gr →
    let mine (p : Nat × Op) : Bool := p.2.counter == .copy && p.2.agent.base == .group g .pc0
    s.ops.find? mine = some (old, ol) →
    (old ≠ id → ol.finished = false → ∃ o', (s.finishOp id).groups = s.groups ∧ FMap.find (s.finishOp id).ops id = some o' ∧
      o'.finished = true) ∧
    (old = id → o.error = none → (∀ b, ∀ d f, o.kind ≠ .coll f d b) → (∀ p ∈ s.ops, mine p = true → p.1 ≠ id → p.2.finished = false) →
      ∃ gr', (s.finishOp id).group? g = some gr' ∧ gr'.copies = gr.copies - 1 ∧ gr'.gathers = gr.gathers ∧ gr'.fabric = gr.fabric ∧
        gr'.errors = gr.errors ∧ FMap.find (s.finishOp id).ops id = none)) ∧
  (∀ (s : State) (e : Eng) (o : Op) (x : Xfer) (t : Team) (cs os cd od : Nat),
    let src := x.src + BitVec.ofNat 64 x.landed
    let dst := x.dst + BitVec.ofNat 64 x.landed
    let k := x.pieceLen
    let span := k + x.wordRest (x.landed + k)
    x.ssp = .l → x.dsp = .l → x.snapshot = [] → (x.overlaps = false ∨ x.dst.toNat ≤ x.src.toNat) → 0 < k → s.clm.wf = true → s.team? e.team = some t → (∀ c ∈ s.compactions, c.team ≠ e.team) →
    t.resolve t.core src span = some (cs, os) → t.resolve t.core dst k = some (cd, od) →
    s.clmGate e.team t cs os span false = .ok → s.clmGate e.team t cd od k true = .ok →
    ∃ s' o' x', s.landPiece e o x = (s', o', x', none) ∧ x'.landed = x.landed + k ∧ x'.size = x.size ∧ s'.mem = s.mem ∧
      Mem.readBytes s'.clm (t.key cd od) k = Mem.readBytes s.clm (t.key cs os) k ∧
      (∀ a, a < t.key cd od ∨ t.key cd od + k ≤ a → Mem.read s'.clm a = Mem.read s.clm a))

/-- R38, R215, R219 to R221, R350: `waitc` completes with no effect once its counter is at most n; `empty` and `empty.full` set the
full/empty bits of the rows of D, eight of a tile, a spilled row losing its copy; a `spawn` whose record is aligned and readable, or whose
launch has fewer than two units, empties D and holds its slot. Once the acknowledgements are in, a launch with fewer than two units
answers 1; when the queue has room and the record can be read, half the units go to a child behind the queue's requests and the status is
0. A slot that yielded to a copy resumes at its label once the copy has retired, with the first held error that the wait covers. -/
def Obligations.WaitAndSpawnResults : Prop :=
  ∀ (f : Ext) (s s1 : State) (t : Nat),
    let waits : Hooks :=
      { hold := fun i s =>
          if i.seq then (match s.thread? i.gi with | some t => f.imm.toNat % 256 < t.matCount | none => false)
          else match s.group? i.gi with | some g => f.imm.toNat % 256 < g.counter (waitCounter f.sub.toNat) | none => false
        takes := fun i e => e.counter == f.sub.toNat && (e.discarded || (match s.group? i.gi with
          | some g => decide (e.seq + f.imm.toNat % 256 < g.issuedIn (waitCounter f.sub.toNat)) | none => false)) }
    let tile (i : Iss) (s : State) : Bool := viewKind ((s.decEnv i.agent).view f.vs.toNat) == 1
    let rows (i : Iss) (s : State) : List Nat := match i.d with
      | some (.vec n part) => if tile i s then (List.range 8).map (fun k => n + k) else rowsOf [.vec n part]
      | _ => []
    let mark (g : Group) (n : Nat) : Group :=
      if f.xs = 1 then g.setRow n { g.row n with full := true }
      else if (g.row n).spilled then g.setRow n { full := false, ready := (g.row n).ready } else g.setRow n { g.row n with full := false }
    let few (i : Iss) (s : State) : Prop := ∀ L, FMap.find s.launches i.launch = some L → L.units < 2
    let aligned (i : Iss) (s : State) : Prop := (i.vb s 0).toNat % 32 = 0
    let held (i : Iss) (s r : State) : State :=
      match i.d with | some dst => i.holdFor r (.spawn i.launch (i.vb s 0) dst (i.vd r 0)) | none => i.nextPc r
    Effect (.waitc f) waits 0x65 false f (fun _ _ => True) (fun _ s => s) s ∧
    Effect (.empty f) { hold := fun i s => match s.group? i.gi with | some g => (rows i s).any (fun n => (g.row n).refilling) | none => false }
      0x66 false f (fun _ _ => True) (fun i s => s.modGroup i.gi (fun g => (rows i s).foldl mark g)) s ∧
    CtlEffect (.spawn f) {} 0x67 false f (fun i s => aligned i s ∧ few i s) (fun i s => held i s s) s ∧
    CtlEffect (.spawn f) {} 0x67 false f
      (fun i s => aligned i s ∧ ¬ few i s ∧ s.translate i.core i.ctx (i.vb s 0) { r := true } = (s1, .ok t)) (fun i s => held i s s1) s ∧
    Traps (.spawn f) {} 0x67 false f (fun i s => ¬ aligned i s)
      (fun i s => { cause := .align, addr := i.vb s 0, detail := memDetail false .load 0 0 0 }) s ∧
    (∀ op o l L a dst old desc args teams ph s2, FMap.find s.ops op = some o → o.kind = .spawn l a dst old → FMap.find s.launches l = some L →
      (∀ ag, s.agentState? o.agent = some ag → ag.ack = 0) →
      let r := (s.closeRegion o.agent).2
      let q := FMap.at {} s.queues L.queue
      (L.units < 2 → exec (.spawnEnqueue op) s = .next (r.statusDone op o dst 1)) ∧
      (2 ≤ L.units → q.ringCount + q.children.length < 2 ^ q.log2n → r.hubWords o.ctx a 4 = (s2, .ok [desc, args, teams, ph]) →
        let moved := s2.modLaunch l (fun L => { L with units := L.units - L.units / 2 })
        let child : Nat × LaunchRecord × Nat × Nat :=
          ((FMap.at {} s2.queues L.queue).ringCount, { desc, args, teams, phase := L.record.phase }, L.units / 2, L.rootQueue)
        exec (.spawnEnqueue op) s =
          .next ((moved.modQueue L.queue (fun q => { q with children := q.children ++ [child] })).statusDone op o dst 0))) ∧
    (∀ g j sl gr op n target, s.slot? (.group g j) = some sl → sl.park = .cpyY op n target → sl.status = .live → FMap.find s.ops op = none →
      s.group? g = some gr →
      ∃ r, exec (.cpyYReactivate (.group g j)) s = .next r ∧ r.mem = s.mem ∧ r.clm = s.clm ∧
        (r.slot? (.group g j)).map (fun (x : Slot) => (x.pc, x.park, x.owes, x.mask, x.fmt)) =
          some (target, Park.none, gr.errors.find? (fun e => e.counter == 0 && e.seq ≤ n), sl.mask, sl.fmt))

/-! Matrix unit -/

/-- R222, R223, R226: `setom`, `setrp`, `setcp` and `sfmt` write the thread's registers and nothing else; each matrix operation whose plan
has no cause, whose lines are ready and whose banks a save has not lost, enters its thread's queue with what it captured, marks its banks
empty (`mma`, `mzero`) and its destination lines dirty (`mdrain`). A plan with a cause takes it. R224, R225, R229, R230, R353: when `mma`
and `mzero` may issue, and what they capture. `mma` needs an accepted sfmt, M a multiple of 4 from 4 to 64, J a multiple of G within the
team's macros, its banks within the team's, a map in AFMT whose K fits the tile, panels in BFMT, SP 0 and an aligned map; its charge is
that of ⌈M/4⌉ × P + 24 cycles. `mzero` needs an accepted sfmt and its banks. -/
def Obligations.MatrixIssueResults : Prop :=
  (∀ (f : Ext) (s : State) (t : Team) (th : Thread),
    let always : Iss → State → Prop := fun _ _ => True
    let b (i : Iss) (s : State) : W64 := i.vb s 0
    let base (i : Iss) (s : State) : W64 := i.va s 0 + f.imm.signExtend 64
    let map (i : Iss) (s : State) : W64 :=
      (0 : BitVec 11) ++ f.xs.extractLsb' 0 1 ++ f.ty ++ bits (b i s) 16 11 ++ bits (b i s) 0 16 ++ bits (base i s) 0 20
    let column (i : Iss) (s : State) (old : BitVec 128) : BitVec 128 :=
      if f.xs.getLsbD 0 then b i s ++ bits old 0 64 else (0 : W64) ++ b i s
    let here (i : Iss) (s : State) : Prop := s.thread? i.gi = some th ∧ s.team? i.team = some t
    let queued (op : Nat) (ins : Instr) (plan : Iss → State → Thread → Team → Except Trap MatPlan) : Prop :=
      (∀ pl, Effect ins (matHooks plan) op false f
        (fun i s => here i s ∧ plan i s th t = .ok pl ∧ i.matLines s t pl.reads pl.writes.toList = .ok s ∧ s.lostMatBank i.core t pl.m = none)
        (fun i s =>
          let found : List Nat := if op = 0x6B then
            (List.range pl.m.nbanks).foldl (fun l k => NSet.del l (1000000 + 16 * i.core + pl.m.bank + k)) s.lost else s.lost
          let busy := pl.m.marks.foldl (fun m k => FMap.put m (16 * i.core + k) (FMap.at 0 m (16 * i.core + k) + 1)) s.bankBusy
          let lines := pl.writes.toList.flatMap (fun (w : Nat × Nat) => (match t.resolve t.core (BitVec.ofNat 64 w.1) w.2 with
            | some (core, o) => (linesOf o w.2).map (fun l => t.lineKey core (64 * l)) | none => []))
          let s' : State := { s with lost := found, bankBusy := busy, dirty := lines.foldl NSet.add s.dirty }
          (s'.issueOp { agent := i.agent, core := i.core, ctx := i.ctx, cls := .matrix, charge := pl.charge, counter := .matrix,
                        poff := poffOf i.entry i.pc, kind := .matrix pl.m }).2) s) ∧
      ∀ tr, Traps ins (matHooks plan) op false f (fun i s => here i s ∧ plan i s th t = .error tr) (fun _ _ => tr) s
    Effect (.setom f) { illegal := setomIllegal } 0x68 false f always
      (fun i s => s.modThread i.gi (fun x => { x with oms := FMap.put x.oms f.d.toNat (map i s) })) s ∧
    Effect (.setrp f) {} 0x6E false f always (fun i s => s.modThread i.gi (fun x => { x with rps := FMap.put x.rps f.d.toNat (b i s) })) s ∧
    Effect (.setcp f) {} 0x6F false f always
      (fun i s => s.modThread i.gi (fun x => { x with cps := FMap.put x.cps f.d.toNat (column i s (FMap.at 0 x.cps f.d.toNat)) })) s ∧
    Effect (.sfmt f) {} 0x70 false f always (fun i s => s.modThread i.gi (fun x => { x with sfmt := (b i s).setWidth 32 })) s ∧
    queued 0x69 (.mldb f) planMldb ∧ queued 0x6A (.mma f) planMma ∧  queued 0x6B (.mzero f) planMzero ∧ queued 0x6C (.mdrain f) planMdrain ∧ queued 0x6D (.mscale f) planMscale) ∧
  (∀ (i : Iss) (s : State) (th : Thread) (t : Team) (h : Shape),
    sfmtShape th.sfmt = some h →
    let rows := (bits i.f.imm 0 7).toNat
    let j := i.f.a.toNat
    let d := i.f.d.toNat
    let om := FMap.at 0 th.oms i.f.b.toNat
    let nb := (rows * h.n + 4095) / 4096
    let n := (bits i.f.imm 0 4).toNat + 1
    ((∃ pl, planMma i s th t = .ok pl) ↔
      (rows % 4 = 0 ∧ 4 ≤ rows ∧ rows ≤ 64) ∧ (j % h.g = 0 ∧ j + h.g ≤ t.nbanks) ∧ d + nb ≤ t.nbanks ∧ omFmt om = h.af ∧ omK om ≤ h.k ∧
      (∀ x < h.g, s.panelFmt i.core (t.bank0 + j + x) = h.bf) ∧ i.f.imm.getLsbD 12 = false ∧ omAligned om = true) ∧
    (∀ pl, planMma i s th t = .ok pl →
      pl.charge = (5 * (rows / 4 * h.planes + 24) + 5) / 6 ∧ pl.m.bank = t.bank0 + d ∧ pl.m.nbanks = nb ∧ pl.m.macro0 = t.bank0 + j ∧
      pl.m.rows = rows ∧ pl.m.sfmt = th.sfmt ∧ pl.m.om = om ∧ pl.m.rp = FMap.at 0 th.rps (bits i.f.imm 8 2).toNat ∧
      pl.m.cp = FMap.at 0 th.cps (bits i.f.imm 10 2).toNat ∧ pl.m.nopred = i.f.imm.getLsbD 13 ∧ pl.writes = none) ∧
    (∀ tr, planMma i s th t = .error tr → omAligned om = true → tr.cause = .mform ∧ (bits tr.detail 8 8).toNat = 0x6A) ∧
    ((∃ pl, planMzero i s th t = .ok pl) ↔ d + n ≤ t.nbanks) ∧
    (∀ pl, planMzero i s th t = .ok pl → pl.charge = (5 * (4 * n) + 5) / 6 ∧ pl.m.bank = t.bank0 + d ∧ pl.m.nbanks = n) ∧
    planMma i s { th with sfmt := 0x20000 } t = .error { cause := .mform, detail := 0x6A01 })

/-- R222, R231, R254 to R257: the matrix unit's steps, on the stages as they stand by then. A thread whose turn it is starts the head of
its queue, issued before this cycle, where no earlier operation is in the way and its first stage is free, loading or combining; that an
`mma` captures the row scales when it starts, and the order in which operations load, are the model's choice (notes/assumptions/46.md,
47.md). Once the reads of a started operation are due they end together, with its guard: `mldb` leaves its panels in the macros, `mma`
takes the panels that it will meet. An operation at the end of its last stage writes, gives up its marks and charge, and retires. An `mma`
is broadcast no earlier than 8 cycles after its start, and is combined no earlier than its last plane is broadcast. R224, R228, R259: an
`mma` writes element (i, n) of the tile, for i below M and n below N, to its place in the banks, which hold the tile row by row; a column
that its predicate keeps out keeps its value, and so does every element beyond the tile. In f16 and bf16 an N-spread element is the old
value plus the dot product of its A row and B column, those that it took when its reads ended, and with its row predicate off, of zeros
and that column. -/
def Obligations.MatrixSteps : Prop :=
  (∀ (s : State) (id n : Nat) (o : Op) (m : MatOp) (th : Thread) (t : Team) (h : Shape),
    FMap.find s.ops id = some o → o.kind = .matrix m → o.agent = .thread n → s.thread? n = some th → s.team? th.team = some t →
    s.clockStopped o.core = false →
    let r := s.matStages o.core
    (∀ rest o1, n = 4 * o.core + ((s.core o.core).lastMat + 1) % 4 → r.matQueue n = (id, m) :: rest → FMap.find r.ops id = some o1 →
      o1.issuedAt < r.now → r.matReady id o1 m = true → (if m.guarded then r.loadingFree o.core else r.combiningFree o.core) = true →
      exec (.matrixOpStart o.core) s =
        .next (({ r with nextId := r.nextId + 1 }.modCore o.core (fun c => { c with lastMat := n % 4 })).modOp id (fun o =>
          { o with kind := .matrix { m with started := true, startAt := s.now, order := r.nextId,
                                            rowScales := if m.opcode = 0x6A then th.scalesFor else [] } }))) ∧
    (∀ m1 c, sfmtShape m.sfmt = some h → m.started = true → m.guarded = true → m.readDone = false → r.matOf id = .ok m1 →
      m1.readAt = some c → c ≤ r.now →
      ∃ r, exec (.guardRelease id) s = .next r ∧ r.mem = s.mem ∧ r.clm = s.clm ∧ r.banks = s.banks ∧ r.groups = s.groups ∧
        (∃ o' m', FMap.find r.ops id = some o' ∧ o'.kind = .matrix m' ∧ m'.readDone = true ∧ m'.entries = 0 ∧
          (m.opcode = 0x6A → m'.panels = (List.range h.g).map (fun j => (j, (FMap.at {} s.macros (16 * o.core + m.macro0 + j)).vals)))) ∧
        (m.opcode = 0x69 → ∀ j < h.g, ∃ mac, FMap.find r.macros (16 * o.core + m.macro0 + j) = some mac ∧ mac.fmt = h.bf ∧
          mac.vals = s.panelOf t h m.om j) ∧
        (m.opcode = 0x6A → r.macros = s.macros)) ∧
    (∀ m1, r.matOf id = .ok m1 → m1.started = true → o.finished = false → r.matEnded o.core id m1 = true →
      r.drainHeld id th.team t (sfmtShape m1.sfmt) m1 = false →
      let s1 := r.matWrite o.agent o.poff o.core th.team t (sfmtShape m1.sfmt) m1
      let s2 := if m1.banksUsed.isEmpty then s1 else s1.modCore o.core (fun c => { c with combFree := s1.now + 1 })
      let less (b : FMap Nat) (k : Nat) : FMap Nat :=
        if FMap.at 0 b (16 * o.core + k) ≤ 1 then FMap.del b (16 * o.core + k) else FMap.put b (16 * o.core + k) (FMap.at 0 b (16 * o.core + k) - 1)
      let s3 : State := { s2 with bankBusy := m1.marks.foldl less s2.bankBusy }
      exec (.matrixOpComplete id) s = .next (((s3.modOp id (fun o => { o with charge := 0 })).finishOp id).endIfFatal o.agent)) ∧
    (m.opcode = 0x6A → m.castAt = none → s.now < m.startAt + 8 → s.matMove o.core (id, o, m) = s) ∧
    (∀ c, m.opcode = 0x6A → m.castAt = some c → m.combAt = none → s.now < c + m.rows / 4 * m.planes → s.matMove o.core (id, o, m) = s)) ∧
  (∀ (s : State) (core tid i n : Nat) (h : Shape) (m : MatOp),
    let x := i * h.n + n
    let bank := m.bank + x / 4096
    let old := s.bankElem core bank (x / 64 % 64) (x % 64)
    let s' := s.mmaBanks core tid h m
    let on := m.nopred || m.rp.getLsbD i
    (i < m.rows → n < h.n → s'.bankElem core bank (x / 64 % 64) (x % 64) =
      if m.nopred = true ∨ cpOn m.cp h.n n = true then s.mmaElem core tid h m i n old else old) ∧
    (∀ y, m.rows * h.n ≤ y → s'.bankElem core (m.bank + y / 4096) (y / 64 % 64) (y % 64) =
      s.bankElem core (m.bank + y / 4096) (y / 64 % 64) (y % 64)) ∧
    s'.mem = s.mem ∧ s'.clm = s.clm ∧ s'.macros = s.macros ∧
    (isHalf h.af = true → h.chain = false →
      let a := (List.range 64).map (fun k => if on then (FMap.at 0 m.aData (1024 * i + k)).toNat else 0)
      let b := (List.range 64).map (fun k =>
        (FMap.at 0 (FMap.at [] m.panels (n / h.nm)) (64 * (n % h.nm) + k)).toNat)
      s.mmaElem core tid h m i n old = BitVec.ofNat 32 (rneAdd old.toNat (blockDot h.af h.bf a b))))

/-! Vacate instructions and the system -/

/-- R109, R110: `vest`, `vbound`, `vcost` and `vprobe` write D in every active lane with what the Dusk unit of the issuing core holds;
`vpol` sets GSTAT.VPOL to its sub-op. A probe is -1 where not even size 0 fits the room, and otherwise the largest legal size whose charge
fits. -/
def Obligations.VacateInstructionResults : Prop :=
  (∀ (f : Ext) (s : State),
    let room (i : Iss) (s : State) : Int :=
      (s.boundCore i.ctx : Int) - Config.haltTicks - s.saveTerm i.core -
        (match termOf f.sub.toNat with | some c => s.classSum i.core c | none => s.drainTerm i.core)
    let estimate (i : Iss) (s : State) : Nat :=
      match f.sub.toNat with
      | 0 => s.estimate i.core | 1 => Config.haltTicks | 2 => s.drainTerm i.core | 3 => s.saveTerm i.core
      | 4 => s.classSum i.core .memory | 5 => s.classSum i.core .matrix | _ => s.classSum i.core .fabric
    LaneResults (.vest f) {} 0x71 false f (fun i s _ => BitVec.ofNat 64 (estimate i s)) s ∧
    LaneResults (.vbound f) {} 0x72 false f (fun i s _ => BitVec.ofNat 64 (if f.sub = 0 then s.boundCore i.ctx else s.boundCtx i.ctx)) s ∧
    LaneResults (.vcost f) {} 0x73 false f
      (fun i s l => BitVec.ofNat 64 (min (chargeOf f.sub.toNat (i.vb s l).toNat) (2 ^ 64 - 1))) s ∧
    LaneResults (.vprobe f) {} 0x74 false f (fun i s _ => BitVec.ofInt 64 (probeOf f.sub.toNat (room i s))) s ∧
    Effect (.vpol f) {} 0x75 false f (fun _ _ => True) (fun i s => s.modGroup i.gi (fun g => { g with vpol := f.sub == 1 })) s) ∧
  ∀ (cls : Nat) (room : Int), cls ≤ 9 →
    (probeOf cls room = -1 ↔ ∀ (n : Nat), room < chargeOf cls n) ∧
    (probeOf cls room ≠ -1 → ∃ (n : Nat), probeOf cls room = (n : Int) ∧ n ≤ largestLegal cls ∧ (chargeOf cls n : Int) ≤ room ∧
      ∀ (k : Nat), n < k → k ≤ largestLegal cls → room < chargeOf cls k)

/-- R145, R246 to R251, R248: `sysr` writes the register that IMM names; `sysw` writes SHARE, reserved bits ignored; `fltr` gives a word
of the record that the handler serves; `mapf` starts an operation on the 64 KiB page of its address with its permissions, and without a
lane does nothing; `cnt` reads, reads low and high, takes, configures and frees a bank of its core, whose counters stand still while the
die's clock is stopped; `dbg` writes a marker, and `dbg.brk` at an armed stop site breaks. R248: what `mapf` does, once the walk has
reached a level-1 entry that it can read. A valid entry gives status 1 and changes nothing; an empty pool gives 2; otherwise the first
frame of the pool is zeroed, owned by the context and mapped by the entry, with status 0. Where the home refuses the entry's write, the
model gives 3 and keeps the frame (notes/assumptions/91.md). -/
def Obligations.SystemResults : Prop :=
  (∀ (f : Ext) (s : State) (c : Context) (g : Group),
    let always : Iss → State → Prop := fun _ _ => True
    let here (i : Iss) (s : State) : Prop := s.ctx? i.ctx = some c ∧ s.group? i.gi = some g
    let reg : W64 :=
      match f.imm.toNat % 256 with
      | 0 => c.share | 1 => c.fgrp.setWidth 64 | 2 => s.hub.devid.setWidth 64 | 3 => BitVec.ofNat 64 c.pool.length
      | 4 => c.freed | 5 => c.defer | _ => BitVec.ofNat 64 g.logged
    let word : W64 :=
      let r := g.handler.record
      match f.imm.toNat % 8 with
      | 0 => r.w0 | 1 => r.addr | 2 => r.w2 | 3 => r.flanes | 4 => r.pmask | 5 => r.detail | 6 => r.w6 | _ => r.time
    let hMapf : Hooks :=
      { illegal := fun i s => !i.handler || bits (i.vb s 0) 3 61 != 0
        delta := fun i _ => if i.lanes.isEmpty then {} else { cls := .memory, charge := chargeOf 0 65536 } }
    let page (i : Iss) (s : State) (l : Nat) : W64 := (bits (i.va s l) 16 36).setWidth 64 <<< 16
    let bank (i : Iss) (s : State) : CounterBank := FMap.at {} (s.core i.core).counters (f.imm.toNat % 4)
    let k := f.imm.toNat / 4 % 8
    let put (i : Iss) (s : State) (v : W64) : State := i.writeD s (i.eachLane (fun _ => v))
    let mode (n : Nat) (c : Iss → State → Prop) : Iss → State → Prop := fun i s => f.xs.toNat = n ∧ c i s
    let cnt := Effect (.cnt f) {} 0x7E false f
    let select (i : Iss) (s : State) : BankCounter :=
      if eventOk (i.vb s 0) then { select := some (bits (i.vb s 0) 0 11), since := if s.clockStopped i.core then none else some s.now } else {}
    let mine (i : Iss) (s : State) : Prop := (bank i s).holder = some i.ctx ∧ (bank i s).hyper = false
    Effect (.sysr f) {} 0x7A false f here (fun i s => put i s reg) s ∧
    Effect (.sysw f) {} 0x7B false f always (fun i s => s.modCtx i.ctx (fun c => { c with share := i.vb s 0 &&& 0xFF00FF })) s ∧
    Effect (.fltr f) { illegal := fun i _ => !i.handler } 0x7D false f here
      (fun i s => i.startLoad s (i.eachLane (fun _ => word)) none none) s ∧
    (∀ l ls dst, Effect (.mapf f) hMapf 0x7C false f (fun i _ => i.lanes = l :: ls ∧ i.d = some dst)
      (fun i s => (((i.dsts.flatMap Reg.units).foldl i.emptyUnit s).addOp
        { agent := i.agent, core := i.core, ctx := i.ctx, cls := .memory, charge := 32 + 1024, poff := poffOf i.entry i.pc,
          kind := .mapf (page i s l) (bits (i.vb s 0) 0 3) dst }).2) s) ∧
    Effect (.mapf f) hMapf 0x7C false f (fun i _ => i.lanes = []) (fun _ s => s) s ∧
    let count (i : Iss) (s : State) : W64 := BitVec.ofNat 64 ((FMap.at {} (bank i s).ctrs k).upTo s.now)
    cnt (mode 0 always) (fun i s => put i s (count i s)) s ∧
    cnt (mode 1 always) (fun i s =>
      (put i s ((bits (count i s) 0 32).setWidth 64)).modAgent i.agent (fun ag => { ag with cShadow := bits (count i s) 32 32 })) s ∧
    (∀ ag, cnt (mode 2 (fun i s => s.agentState? i.agent = some ag)) (fun i s => put i s (ag.cShadow.setWidth 64)) s) ∧
    cnt (mode 3 (fun i s => (bank i s).hyper = true ∨ ∃ x, (bank i s).holder = some x ∧ x ≠ i.ctx)) (fun i s => put i s 1) s ∧
    cnt (mode 3 mine) (fun i s => put i s 0) s ∧
    cnt (mode 3 (fun i s => (bank i s).holder = none ∧ (bank i s).hyper = false))
      (fun i s => put i (s.setBank i.core (f.imm.toNat % 4) { holder := some i.ctx }) 0) s ∧
    cnt (mode 4 mine) (fun i s => s.setBank i.core (f.imm.toNat % 4)
      { bank i s with ctrs := FMap.put (bank i s).ctrs k (select i s) }) s ∧
    cnt (mode 4 (fun i s => ¬ mine i s)) (fun _ s => s) s ∧
    cnt (mode 5 (fun i s => (bank i s).holder = some i.ctx))
      (fun i s => s.setBank i.core (f.imm.toNat % 4) { hyper := (bank i s).hyper }) s ∧
    cnt (mode 5 (fun i s => (bank i s).holder ≠ some i.ctx)) (fun _ s => s) s ∧
    Effect (.dbg f) {} 0x7F false f (fun i s => f.xs = 0 ∨ i.breaks s = false) (fun i s => i.traceRecord s 1) s ∧
    (∀ i p, Passes {} 0x7F false f s i p → f.xs = 1 → i.breaks s = true →
      exec (.dbg f) s =
        .next (i.waited (i.takeBreak s))) ∧
    (∀ op o va perm dst, FMap.find s.ops op = some o → o.kind = .mapf va perm dst →
      let r := s.mapFrame o.ctx va perm
      exec (.mapfCompletion op) s = .next ((r.1.fillReg o.agent dst [(0, BitVec.ofNat 64 r.2)]).dropOp op)) ∧
    (∀ ctx on, (s.ctx? ctx).isSome = true → exec (.breakArm ctx on) s = .next (s.modCtx ctx (fun c => { c with breaks := on })))) ∧
  (∀ (s s1 s2 : State) (ctx a fr : Nat) (va : W64) (perm : BitVec 3) (c : Context) (e : W64) (rest : List Nat),
    s.ctx? ctx = some c → s.mapWalk ctx va.toNat 3 ((bits c.troot 12 40).toNat * 4096) = (s1, .ok a) →
    s1.walkerRead ctx a = (s2, some e) →
    let r := s.mapFrame ctx va perm
    (e.getLsbD 0 = true → r = (s2, 1)) ∧
    (e.getLsbD 0 = false → c.pool = [] → r = (s2, 2)) ∧
    (e.getLsbD 0 = false → c.pool = fr :: rest → s2.homePasses ctx a true = false → r.2 = 3 ∧ r.1.mem = s2.mem ∧ r.1.ctxs = s2.ctxs) ∧
    (e.getLsbD 0 = false → c.pool = fr :: rest → s2.homePasses ctx a true = true → s2.mem.wf = true → fr < 2 ^ 23 → ctx < 2 ^ 12 → a + 8 ≤ 0x7FFF000000 →
      (a + 8 ≤ 65536 * fr ∨ 65536 * fr + 65536 ≤ a) → 65536 * fr + 65536 ≤ 0x7FFF000000 →
      r.2 = 0 ∧ (∀ x, 65536 * fr ≤ x → x < 65536 * fr + 65536 → Mem.read r.1.mem x = 0) ∧
      r.1.frameWord fr = 0x8000 + ctx ∧ Mem.readNat r.1.mem a 8 = 3 + 4 * perm.toNat + 65536 * fr ∧
      ∃ c', r.1.ctx? ctx = some c' ∧ c'.pool = rest))

/-! Fabric -/

/-- R235 to R238, R240 to R243: `rld`, `rst` and `ratom` that meet no misaligned lane end the region where they are ordered, mark what
they write empty, and send one part to each peer that an active lane names, in ascending order; each part raises the fabric counter, a
store's the acknowledgement counter too, and carries its lanes' addresses and operands. `coll` queues one bucket for each active lane with
the next ordinal of its tag and ranks; that each bucket raises the acknowledgement counter by one is the model's reading
(notes/assumptions/96.md). Misaligned lanes take ALIGN with the lowest one's address, and nothing is sent. Without an active lane nothing
happens. -/
def Obligations.RemoteIssueResults : Prop :=
  ∀ (f : Ext) (s s1 : State) (g : Group) (dst : Reg) (ranks : List Nat),
    let size (i : Iss) : Nat := if i.op = 0x78 then atomSize f.ty.toNat else tySize f.ty.toNat
    let va (i : Iss) (s : State) (l : Nat) : W64 := i.vb s l + (if i.op = 0x78 then 0 else f.imm.signExtend 64)
    let busy (i : Iss) : Prop := i.lanes.isEmpty = false
    let here (i : Iss) (s : State) : Prop := busy i ∧ s.group? i.gi = some g ∧ ∀ l ∈ i.lanes, (va i s l).toNat % size i = 0
    let order (i : Iss) : Nat := if i.op = 0x78 then f.imm.toNat / 16 % 8 else f.xs.toNat
    let sent (i : Iss) (s : State) : State :=
      let fgrp := ((s.ctx? i.ctx).map (fun (c : Context) => c.fgrp)).getD 0
      let r := if order i = 0 then (0, s) else s.closeRegion i.agent
      let t := if order i = 4 then r.2.scOrder i.agent 6 r.1 else r.2
      (i.peers s).foldl (fun (u : State) p => i.issuePart g.fabricSeq (i.peers s).length fgrp p u) ((i.dsts.flatMap Reg.units).foldl i.emptyUnit t)
    let hooks : Hooks := { remoteHooks with sync := f.xs != 0 }
    let hooksA : Hooks := { remoteHooks with sync := f.imm.toNat / 16 % 8 != 0 }
    let w (i : Iss) (s : State) : W64 := i.collW s
    let n (i : Iss) (s : State) : Nat := if collType (w i s) = 1 then 2 else 4
    let crooked (i : Iss) (s : State) : List Nat := i.lanes.filter (fun l => (va i s l).toNat % size i != 0)
    let skewed (i : Iss) (s : State) : List Nat :=
      i.lanes.filter (fun l => decide ((i.vb s l).toNat % n i s ≠ 0 ∨ (bits (i.vc s l) 0 32).toNat % n i s ≠ 0))
    let align (kind : AccKind) (i : Iss) (s : State) : Trap :=
      { cause := .align, addr := va i s ((crooked i s).headD 0), lanes := some (maskOf (crooked i s)), detail := memDetail false kind 0 0 0 }
    let queued (i : Iss) (s : State) : State :=
      let add (t : State) (l : Nat) : State :=
        let r := t.nextOrdinal i.ctx (collTag (w i s)) ranks
        let len := (bits (i.vc s l) 0 32).toNat
        let peer := (bits (i.vc s l) 32 32).toNat
        let h : CollHeader := { tag := collTag (w i s), ordinal := r.1, kind := f.xs.toNat, op := collOp (w i s), typ := collType (w i s), bytes := len,
                                ranks }
        let b : Bucket := { lane := l, header := h, rank := collRank (w i s), peerRank := peer, innet := (w i s).getLsbD 37 && f.xs == 0,
                            va := i.vb s l, steps := collSteps f.xs.toNat (len / n i s) ranks.length (collRank (w i s)) peer }
        (r.2.issueOp { agent := i.agent, core := i.core, ctx := i.ctx, cls := .fabric, charge := 2048 + (len + 31) / 32, counter := .fabric,
                       poff := poffOf i.entry i.pc, kind := .coll g.fabricSeq dst b }).2.modAgent i.agent (fun ag => { ag with ack := ag.ack + 1 })
      i.lanes.foldl add ((i.dsts.flatMap Reg.units).foldl i.emptyUnit s1)
    Effect (.rld f) hooks 0x76 false f here sent s ∧ Effect (.rld f) hooks 0x76 false f (fun i _ => ¬ busy i) (fun _ s => s) s ∧
    Effect (.rst f) hooks 0x77 false f here sent s ∧ Effect (.rst f) hooks 0x77 false f (fun i _ => ¬ busy i) (fun _ s => s) s ∧
    Effect (.ratom f) hooksA 0x78 false f here sent s ∧ Effect (.ratom f) hooksA 0x78 false f (fun i _ => ¬ busy i) (fun _ s => s) s ∧
    Traps (.rld f) hooks 0x76 false f (fun i s => crooked i s ≠ []) (align .load) s ∧
    Traps (.rst f) hooks 0x77 false f (fun i s => crooked i s ≠ []) (align .store) s ∧
    Traps (.ratom f) hooksA 0x78 false f (fun i s => crooked i s ≠ []) (align .atomic) s ∧
    Traps (.coll f) collHooks 0x79 false f (fun i s => skewed i s ≠ [])
      (fun i s => { cause := .align, addr := i.vb s ((skewed i s).headD 0), lanes := some (maskOf (skewed i s)),
                    detail := memDetail false .engRead 5 0 0 }) s ∧
    Effect (.coll f) collHooks 0x79 false f
      (fun i s => busy i ∧ s.group? i.gi = some g ∧ i.d = some dst ∧
        (∀ l ∈ i.lanes, (i.vb s l).toNat % n i s = 0 ∧ (bits (i.vc s l) 0 32).toNat % n i s = 0) ∧
        s.rankList i.core i.ctx (i.va s 0) (collRanks (w i s)) = (s1, .ok ranks)) queued s ∧
    Effect (.coll f) collHooks 0x79 false f (fun i _ => ¬ busy i) (fun _ s => s) s ∧
    (∀ (i : Iss) (first parts peer gi : Nat) (fgrp : BitVec 16) (j : SlotId), i.f = f → i.agent = .group gi j → s.group? gi = some g →
      let t := i.issuePart first parts fgrp peer s
      let lane (l : Nat) : RemoteLane :=
        let c := i.vc s l
        if i.op = 0x78 ∧ f.xs = 7 then { lane := l, va := va i s l, data := c >>> 32, cmp := c &&& 0xFFFFFFFF }
        else { lane := l, va := va i s l, data := c }
      let lanes := (i.lanes.filter (fun l => (i.va s l).toNat % 512 == peer)).map lane
      let req : RemoteReq :=
        { id := s.nextId, kind := if i.op = 0x76 then .rld else if i.op = 0x77 then .rst else .ratom, op := f.xs.toNat, ty := tyOf f.ty.toNat,
          ordering := order i, fromDev := s.hub.devid.toNat, fromGroup := g.agent.uid, fromPlace := i.gi, toDev := peer, fgrp,
          lanes,
          planes := lanes.filterMap (fun (l : RemoteLane) =>
            if peer = s.hub.devid.toNat then some (bits l.va 6 4 ^^^ bits l.va 10 4).toNat else planeOf s.hub.portsUp l.va),
          rel := decide (2 ≤ order i) || (i.op == 0x78 && !g.agent.rels.isEmpty) }
      t.hub.outbox = s.hub.outbox ++ [.request req] ∧ t.mem = s.mem ∧ t.clm = s.clm ∧
      ∃ g', t.group? gi = some g' ∧ g'.fabric = g.fabric + 1 ∧ g'.agent.ack = (if i.op = 0x76 then g.agent.ack else g.agent.ack + 1) ∧
        g'.rows = g.rows ∧ g'.qs = g.qs)

/-- R235, R237 to R239, R356, R357: a request for this device is answered once. With no context of its fabric group the answer is code 5.
With a single lane whose address is reached, a load answers the value, extended; a store of a sender none of whose stores is logged writes
the bytes; an atomic answers the old value, and the bytes become the new one. A store whose address fails, or that comes after a logged
one of its group, is logged whole where the buffer has room, with code 6 otherwise; nothing but its place in the buffer is written. R293:
a request that the hub loops back is served once it is the next on its planes. R237 to R239, R336, R355, R357, R360: what comes back to a
part. A reply is applied once; a part that is parked keeps it; one that has retired discards it. A reply later than CTIMEOUT counts as
code 7, as the lack of one does, code 8 comes where the port of its packets goes down. The part's charge is credited and it retires in
order. A notice lowers the count of logged stores and, for a discarded one, holds an RFAULT with code 9 and the peer that discarded it
(R354); a replayed entry's bytes are written and it leaves the log. A fault of the link's checksum only delays. -/
def Obligations.RemoteServingAndReplies : Prop :=
  (∀ (s s1 : State) (r : RemoteReq) (l : RemoteLane) (ctx pa : Nat) (cause : Cause),
    let n := match r.kind with | .ratom => atomSize r.ty.code | _ => tySize r.ty.code
    let logged := s.hub.log.any (fun e => e.sender == r.fromDev && e.senderGroup == r.fromGroup)
    (r.toDev = s.hub.devid.toNat → r.fromDev = s.hub.devid.toNat → s.nextOnPlanes (.request r) = false →
      exec (.remoteRequestReceive r) s = .next s) ∧
    (r.toDev = s.hub.devid.toNat → r.fromDev ≠ s.hub.devid.toNat →
      (s.ctxOfFgrp r.fgrp = none → exec (.remoteRequestReceive r) s = .next (s.send (.reply r.fromDev r.id r.planes (.fault 5)))) ∧
      (s.ctxOfFgrp r.fgrp = some ctx → ∃ t, exec (.remoteRequestReceive r) s = .next t ∧
        let flits := lanesLines r.lanes
        let s0 := s.linkBytes ctx r.fromDev 4 (flits * (if r.kind = .rld then 1 else 2))
        t.mem = (s0.serveRemote ctx r).1.mem ∧
        t.hub.outbox = (s0.serveRemote ctx r).1.hub.outbox ++ [.reply r.fromDev r.id r.planes (s0.serveRemote ctx r).2])) ∧
    (r.lanes = [l] →
      (r.kind = .rld → s.remoteAddr ctx l.va n { r := true } = (s1, .ok pa) → s1.homePasses ctx pa false = true →
        FMap.find s1.poison (pa / 64) = none →
        (s.serveRemote ctx r).2 = .done [(l.lane, extendTy r.ty.code (Mem.readNat (s1.recall (pa / 64)).mem pa n))] 0) ∧
      (r.kind = .rst → r.rel = false → logged = false → s.remoteAddr ctx l.va n { w := true } = (s1, .ok pa) →
        s.serveRemote ctx r = ((s1.homeWrite ctx pa (leBytes n l.data.toNat)).1, .done [] 0)) ∧
      (r.kind = .rst → s.remoteAddr ctx l.va n { w := true } = (s1, .error cause) →
        (s1.hub.log.length < 4096 → ∃ t, s.serveRemote ctx r = (t, .logged 1) ∧ t.hub.log.length = s1.hub.log.length + 1) ∧
        (4096 ≤ s1.hub.log.length → s.serveRemote ctx r = (s1, .fault 6))) ∧
      (r.kind = .rst → logged = true → s.remoteAddr ctx l.va n { w := true } = (s1, .ok pa) →
        (s1.hub.log.length < 4096 → ∃ t e, s.serveRemote ctx r = (t, .logged 1) ∧ t.hub.log = s1.hub.log ++ [e] ∧ e.sender = r.fromDev ∧
          e.senderGroup = r.fromGroup ∧ e.seq = s1.hub.logSeq ∧ e.bmask = byteMask (l.va.toNat % 64) n ∧
          ∀ a, a < s1.hub.logbase.toNat + 128 * e.slot ∨ s1.hub.logbase.toNat + 128 * e.slot + 128 ≤ a → t.mem.read a = s1.mem.read a) ∧
        (4096 ≤ s1.hub.log.length → s.serveRemote ctx r = (s1, .fault 6))) ∧
      (r.kind = .ratom → r.rel = false → s.remoteAddr ctx l.va n { r := true, w := true } = (s1, .ok pa) → s1.homePasses ctx pa true = true →
        let s2 := s1.recall (pa / 64)
        let old := Mem.readNat s2.mem pa n
        let won := r.op = 7 ∧ old = l.cmp.toNat % 2 ^ (8 * n)
        s.serveRemote ctx r = ((s2.homeWriteBytes pa (leBytes n (atomNew r.op r.ty.code old l.data.toNat l.cmp.toNat))).l2Touch ctx pa true,
          .done [(l.lane, extendTy r.ty.code old)] (if won then 1#64 <<< l.lane else 0))))) ∧
  (∀ (s s1 : State) (id first parts : Nat) (o : Op) (req : RemoteReq) (d : Option Reg) (lanes ok : W64) (mask : Option Nat) (got : FMap W64)
    (rep : RemoteReply) (port : Nat),
    (FMap.find s.ops id = some o → o.kind = .remote first parts req d lanes mask none got ok → o.finished = false →
      (id < s.nextId → req.toDev ≠ s.hub.devid.toNat →
        let t := (s.linkBytes o.ctx req.toDev 4 (lanesLines req.lanes * (if req.kind = .rld then 2 else 1))).modHub
          (fun h => { h with outbox := h.outbox.erase (.reply s.hub.devid.toNat id req.planes rep) })
        let due : RemoteReply := if s.ticks - o.issuedAt * 5 / 6 ≤ s.hub.ctimeout then rep else .fault 7
        (o.parked = none → exec (.remoteReply id rep) s = .next (t.applyReply id o due)) ∧
        (o.parked ≠ none → exec (.remoteReply id rep) s =
          .next (t.modOp id (fun x => { x with kind := .remote first parts req d lanes mask (some due) got ok })))) ∧
      (o.parked = none → s.hub.ctimeout ≤ s.ticks - o.issuedAt * 5 / 6 → exec (.remoteTimeout id) s = .next (s.applyReply id o (.fault 7))) ∧
      (o.parked = none → (s.core o.core).phase = .draining → o.cls = .fabric → (s.core o.core).haltAt + o.charge ≤ s.ticks →
        exec (.drainChargeElapsed id) s = .next (s.modOp id (fun x =>
          { x with charge := 32, resuming := false, parked := some { cause := .rfault, addr := 0, detail := 0, quiet := true } })))) ∧
    (FMap.find s.ops id = none → s.savedOp id = none → id < s.nextId →
      exec (.remoteReply id rep) s = .next (s.modHub (fun h => { h with outbox := h.outbox.filter (fun m => match m with
        | .reply d k _ r => !(d == s.hub.devid.toNat && k == id && r == rep) | _ => true) }))) ∧
    (∀ uid peer (gr : Group) failed, s.groupByUid uid = some gr → gr.logged ≠ 0 → FMap.at 0 gr.loggedAt peer ≠ 0 → peer ≠ s.hub.devid.toNat →
      ∃ t, exec (.replayNotice ⟨peer, uid⟩ failed) s = .next t ∧ t.mem = s.mem ∧
      ∀ g x, s.group? g = some x → x.agent.uid = uid → ∃ x', t.group? g = some x' ∧ x'.logged = x.logged - 1 ∧ x'.rows = x.rows ∧
        if failed = true then ∃ e : HeldError, x'.errors = x.errors ++ [e] ∧ e.cause = .rfault ∧ e.detail = BitVec.ofNat 64 (peer * 2 ^ 32 + 9)
        else x'.errors = x.errors) ∧
    (∀ (e : LogEntry) pa, s.hub.log.find? (fun x => x.seq == e.seq) = some e →
      (∀ x ∈ s.hub.log, x.sender = e.sender → x.senderGroup = e.senderGroup → e.seq ≤ x.seq) →
      let kept := s.hub.log.filter (fun x => x.seq != e.seq)
      (∃ t, exec (.logBufferReplay e.seq true) s = .next t ∧ t.mem = s.mem ∧ t.hub.log = kept ∧
        t.hub.outbox = s.hub.outbox ++ [.notice e.sender e.senderGroup true]) ∧
      (s.translate hubCore e.ctx e.va { w := true } = (s1, .ok pa) → s1.homePasses e.ctx pa true = true → pa % 64 = 0 → e.data.length = 64 → e.bmask ≠ 0 →
        ∃ t, exec (.logBufferReplay e.seq false) s = .next t ∧ t.hub.log = s1.hub.log.filter (fun x => x.seq != e.seq) ∧
          t.hub.outbox = s1.hub.outbox ++ [.notice e.sender e.senderGroup false] ∧
          t.mem = (lanesOf 64 e.bmask).foldl (fun m k => Mem.write m (pa + k) (e.data.getD k 0)) (s1.recall (pa / 64)).mem)) ∧
    (port ∈ s.hub.portsUp → exec (.flitCrcError port) s = .next s ∧
      ((∀ x ∈ s.ops, x.2.awaits = false ∧ ∀ a b c, x.2.kind ≠ .coll a b c) → (∀ c ∈ s.ctxs, c.2.image = []) →
        exec (.portDown port) s =
          .next ((s.modHub (fun h => { h with portsUp := NSet.del h.portsUp port })).midnight 0x09 0 0xFF 2 (BitVec.ofNat 64 port) 0))) ∧
    (port < 16 → port ∉ s.hub.portsUp → 6 ≤ s.hub.dawn → exec (.portRetrain port) s = .next (s.modHub (fun h => { h with portsUp := NSet.add h.portsUp port }))))

/-- R242 to R244, R293 to R299, R358: the steps of a bucket. A bucket not at its rank ends with status 4, one without a fabric group, or
with no port up, with 3, one with no step left with 0. A step sends its ranges, flit f on plane f mod 16, a send or receive once both
sides have issued; it completes when its bytes are there, and the last ends the bucket, with status 1 where the switches reduced. Reduced
bytes wait in the queue of their stack, in any order, and its reducer combines them. A header that differs, or a peer's mismatch, ends the
bucket with 4, a peer without the fabric group with 3, a step that has not completed within CTIMEOUT with 5; that what the step under way
has written goes back to what stood there is the model's reading of R358 (notes/assumptions/119.md). The switches' decision precedes data.
-/
def Obligations.CollectiveSteps : Prop :=
  ∀ (s s1 : State) (id first off stack pa : Nat) (both : Bool) (o : Op) (dst : Reg) (b b1 : Bucket) (h : CollHeader) (data bs : List Byte)
    (st : CollStep) (rest : List CollStep) (c : Context),
    FMap.find s.ops id = some o → o.kind = .coll first dst b → o.parked = none → o.finished = false → o.resuming = false → o.ending = false →
    o.owed = [] →
    let dev := s.hub.devid.toNat
    let here : Prop := s.headOfTag id o b = true ∧ b.started = false
    let len := rangesLen b.header.typ st.sends
    let put (s : State) (b : Bucket) : State := s.setBucket id first dst b
    let known (r : Option Nat) : Prop := ∀ k, r = some k → b.dev k ≠ none
    let peerHeader : CollHeader :=
      { b.header with kind := if b.header.kind = 3 then 4 else if b.header.kind = 4 then 3 else b.header.kind }
    let size := if b.header.typ = 1 then 2 else 4
    (here → b.dev b.rank ≠ some dev →
      ∃ t : State, exec (.collStepStart ⟨id, both⟩) s = .next (t.endBucket id first dst b 4) ∧ t.mem = s.mem ∧ t.ops = s.ops ∧
        t.hub.outbox = s.hub.outbox ++ (b.header.ranks.filter (fun d => d != dev)).map (fun d => .mismatch d b.header)) ∧
    (here → b.dev b.rank = some dev → s.ctx? o.ctx = some c →
      (c.fgrp = 0 → exec (.collStepStart ⟨id, both⟩) s = .next (s.endBucket id first dst b 3)) ∧
      (c.fgrp ≠ 0 → (b.innet = false ∨ b.slots ≠ none) →
        (b.steps = [] → exec (.collStepStart ⟨id, both⟩) s = .next (s.endBucket id first dst b 0)) ∧
        (b.steps = st :: rest → known st.sendTo → known st.recvFrom →
          (s.hub.portsUp = [] → exec (.collStepStart ⟨id, both⟩) s = .next (s.endBucket id first dst b 3)) ∧
          (s.hub.portsUp ≠ [] → (both = true ∨ b.header.kind < 3) →
            s.collRead (s.engOf o) b.va (rangeBytes b.header.typ st.sends) (len + 1) 0 len = (s1, bs, none) →
            let peer := st.sendTo.bind b.dev
            let started : Bucket := { b with started := true, sentAny := b.sentAny || !st.sends.isEmpty, got := [], undo := [], since := s1.ticks }
            (st.sends = [] → exec (.collStepStart ⟨id, both⟩) s = .next (put s1 started)) ∧
            (st.sends ≠ [] → ∃ t, exec (.collStepStart ⟨id, both⟩) s = .next t ∧
              t.hub.outbox = s1.hub.outbox ++ collMsgs s1.hub.portsUp peer b.header bs ∧ t.mem = s1.mem ∧
              ∀ o1, FMap.find s1.ops id = some o1 → ∃ o', FMap.find t.ops id = some o' ∧ o'.kind = .coll first dst started))))) ∧
    (∀ peer, ∀ m ∈ collMsgs (List.range 16) peer h bs, ∃ plane flits, m = .coll peer plane h flits ∧
      ∀ f ∈ flits, f.1 % 16 = plane ∧ f.2 = (bs.drop (64 * f.1)).take 64) ∧
    (b.started = true → b.kept = none → b.steps = st :: rest →
      (b.since + s.hub.ctimeout < s.ticks → ∀ a, exec (.collStepComplete id a data) s = .next (s.endBucket id first dst b 5)) ∧
      (s.ticks ≤ b.since + s.hub.ctimeout →
        exec (.collStepComplete id .lost data) s = .next (s.endBucket id first dst b 3) ∧
        (∀ a, a = .mismatch ∨ a = .header h ∧ h ≠ peerHeader → ∃ t : State, exec (.collStepComplete id a data) s =
          .next (t.endBucket id first dst b 4) ∧ t.mem = s.mem ∧ t.ops = s.ops) ∧
        (st.combine = true → data ≠ [] → exec (.collStepComplete id (.header peerHeader) data) s = .next s) ∧
        (st.combine = false ∨ data = [] → s.reducing id = false → data.length = (b.missing st).foldl (fun n g => n + g.2) 0 →
          s.collTake id o first dst st b (layInto (b.missing st) data) = (s1, b1, none) →
          let landed := b1.landed + rangesLen b1.header.typ st.recvs
          ∃ t : State, t.mem = s1.mem ∧ t.ops = s1.ops ∧
            (rest = [] → exec (.collStepComplete id (.header peerHeader) data) s =
              .next (t.endBucket id first dst { b1 with landed, got := [] } (if b1.slots = some true then 1 else 0))) ∧
            (rest ≠ [] → exec (.collStepComplete id (.header peerHeader) data) s =
              .next (put t { b1 with steps := rest, started := false, got := [], landed, undo := [], kept := none })))) ∧
      (st.combine = true → h = peerHeader → data ≠ [] → off % size = 0 → data.length % size = 0 → b.wholeWords st off data.length = true →
        (∃ g ∈ s.due id b st, g.1 ≤ off ∧ off + data.length ≤ g.1 + g.2) →
        let r := rangeAt (rangeBytes b.header.typ st.recvs) off
        let a := b.va + BitVec.ofNat 64 r.1
        data.length ≤ r.2 → data.length ≤ 256 - a.toNat % 256 → s.translate o.core o.ctx a { r := true, w := true } = (s1, .ok pa) →
        let q := FMap.at [] s1.hub.reducers (channelOf pa / 32)
        q.length < 64 → exec (.receiveReduce id h off data) s = .next (s1.modHub (fun hb =>
          { hb with reducers := FMap.put hb.reducers (channelOf pa / 32) (q ++ [{ op := id, off, data }]) }))) ∧
      (∀ q cmd n, FMap.at [] s.hub.reducers stack = cmd :: q → cmd.op = id →
        s.collTake id o first dst st b [(cmd.off, cmd.data)] = (s1, b1, none) →
        exec (.receiveReduce n h stack []) s = .next (s1.modHub (fun hb => { hb with reducers := FMap.put hb.reducers stack q }))) ∧
      (b.since + s.hub.ctimeout ≤ s.ticks → exec (.collTimeout id) s = .next (s.endBucket id first dst b 5))) ∧
    (∀ status a old, 2 ≤ status → b.undo = [(a, old)] → s.translate o.core o.ctx a { w := true } = (s1, .ok pa) →
      s1.homePasses o.ctx pa true = true → s1.partials = [] →
      (s.endBucket id first dst b status).mem = Mem.writeBytes s1.mem pa old) ∧
    (b.innet = true → b.slots = none → b.sentAny = false → s.headOfTag id o b = true → b.rank ≠ 0 →
      exec (.innetRequest id false) s = .next (put s { b with slots := some false }) ∧
      (s.hub.portsUp.length = 16 →
        let all := [(0, b.header.bytes / size)]
        exec (.innetRequest id true) s = .next (put s { b with slots := some true, steps := [{ sends := all, recvs := all }] })))

/-! Launches -/

/-- R10, R23, R41, R46: a group that starts holds the launch's arguments address, its team index, its own index and the team count in q0
to q3, zero in its other q and mask registers, every vector register unbacked and full, and no pin; slot 0 is live at ENTRY with all lanes
of the width and the descriptor's fmt, and slot 1 and the handler slot are free. A sequencer thread holds the arguments address and the
team index in x0 and x1 and zero elsewhere, starts at SENTRY, and the blocks of its team read zero. -/
def Obligations.GroupsStart : Prop :=
  ∀ (s t : State) (L : Launch) (lid tid team idx core : Nat) (d : Descriptor),
    (s.placeGroup L lid tid d team idx core = some t →
      ∃ place g, t.group? place = some g ∧ s.group? place = none ∧ place / 64 = core ∧ g.ctx = L.ctx ∧ g.team = tid ∧ g.index = idx ∧
        g.width = 16 * 2 ^ (bits d.shape 0 2).toNat ∧ (g.q 0).val = L.record.args ∧ (g.q 1).val = BitVec.ofNat 64 team ∧
        (g.q 2).val = BitVec.ofNat 64 idx ∧ (g.q 3).val = (bits L.record.teams 0 33).setWidth 64 ∧
        (∀ n, 4 ≤ n → g.q n = {}) ∧ (∀ n, (g.q n).full = true) ∧ (∀ n, g.m n = {}) ∧ (∀ n, (g.row n).backed = false ∧ (g.row n).full = true) ∧
        g.pns = [] ∧ g.s0.status = .live ∧ g.s0.pc = d.entry ∧ g.s0.mask = allLanes g.width ∧ g.s0.fmt = bits d.fmt 0 32 ∧
        g.s1.status = .free ∧ g.handler.slot.status = .free ∧ g.stack = [] ∧ g.copies = 0 ∧ g.gathers = 0 ∧ g.fabric = 0 ∧
        g.agent.icnt = 0 ∧ g.agent.ord = 0xFFFF ∧ g.strict = d.shape.getLsbD 14 ∧ g.vpol = d.shape.getLsbD 13 ∧ g.relrd = false ∧
        (∀ k, k ≠ place → t.group? k = s.group? k) ∧ t.mem = s.mem ∧ t.clm = s.clm) ∧
    (s.placeShell L lid tid d team core = some t → s.clm.wf = true → d.span = false →
      ∃ tm, t.team? tid = some tm ∧ tm.core = core ∧ tm.ctx = L.ctx ∧ tm.index = team ∧ tm.nbanks = (bits d.res 48 5).toNat ∧
        tm.clmSize = clmBlock (bits d.res 16 32).toNat ∧ (∀ k, k < tm.clmSize → Mem.read t.clm (tm.key core k) = 0) ∧
        (d.seq = true → ∃ n th, tm.thread = some n ∧ n / 4 = core ∧ t.thread? n = some th ∧ th.slot.status = .live ∧ th.slot.pc = d.sentry ∧
          (th.x 0).val = L.record.args ∧ (th.x 1).val = BitVec.ofNat 64 team ∧ (∀ k, 2 ≤ k → th.x k = {}) ∧ th.rps = [] ∧ th.cps = [] ∧
          th.oms = [] ∧ th.sfmt = 0 ∧ th.matCount = 0))

/-- R17 to R19, R28, R29, R116, R266, R320, R332: the launch in a context's admission slot. At its first admission its descriptor is read:
one that cannot be read is refused with reason 9, one that breaks a rule with its reason; at a later one it is known. A strongly parallel
launch is placed whole, waits, or is refused with reason 7 where even an empty context could not hold it; an independent one has its next
team placed, or waits; a weakly parallel one has further members placed of a team that has started in part, which only a launch whose
descriptor has been read can have, or else the first of its next team, or is refused with reason 8. -/
def Obligations.Admission : Prop :=
  ∀ (s s1 : State) (ctx l : Nat) (c : Context) (L : Launch) (d : Descriptor),
    6 ≤ s.hub.dawn → s.ctx? ctx = some c → c.slot = some l → FMap.find s.launches l = some L → c.state = .resident →
    let all := c.pairs ++ c.savedPairs
    let n := (bits L.record.teams 0 33).toNat
    let k := L.nextTeam
    (L.desc = none → ∀ cause, s.readDescriptor ctx L.record.desc = (s1, .error cause) →
      exec (.teamAdmit ctx) s = .next (s1.refuseLaunch ctx l 9 cause.code)) ∧
    (L.desc = none → s.readDescriptor ctx L.record.desc = (s1, .ok d) →
      ∀ r, d.refusal L.record.teams = some r → exec (.teamAdmit ctx) s = .next (s1.refuseLaunch ctx l r 0)) ∧
    (L.desc = some d ∧ s1 = s ∨ L.desc = none ∧ s.readDescriptor ctx L.record.desc = (s1, .ok d) ∧ d.refusal L.record.teams = none →
      let L' : Launch := { L with desc := some d }
      let known := s1.modLaunch l (fun x => { x with desc := some d })
      let s2 := if k = 0 then known.dropIcaches all else known
      let pairs := c.pairs.filter (fun p => s2.pairRuns p)
      (d.prog = 0 → n ≤ maxTeams →
        (∀ t, s2.placeLaunch L' l d pairs n 0 = some t → exec (.teamAdmit ctx) s = .next (t.advanceLaunch ctx l n true)) ∧
        (s2.placeLaunch L' l d pairs n 0 = none →
          exec (.teamAdmit ctx) s =
            .next (if (s2.emptied all).placeLaunch L' l d all n 0 = none then known.refuseLaunch ctx l 7 0 else known))) ∧
      (d.prog = 0 → maxTeams < n → exec (.teamAdmit ctx) s = .next (known.refuseLaunch ctx l 7 0)) ∧
      (d.prog = 1 →
        (∀ t, s2.placeTeam L' l d k pairs = some t → exec (.teamAdmit ctx) s = .next (t.advanceLaunch ctx l (k + 1) (k + 1 == n))) ∧
        (s2.placeTeam L' l d k pairs = none → exec (.teamAdmit ctx) s = .next known)) ∧
      (d.prog = 2 →
        (∀ tid tm t j, L.desc = some d → s2.partialTeam l = some (tid, tm) → s2.pairRuns tm.pair = true →
          s2.placeSome L' l tid d tm.index tm.core ((List.range d.ngroups).filter (fun g => !tm.started.contains g)) = (t, j) →
          exec (.teamAdmit ctx) s =
            .next (if j = 0 then known else t.advanceLaunch ctx l k (k == n && tm.started.length + j == tm.ngroups))) ∧
        (s2.partialTeam l = none → c.partialSaved l = false →
          (k = n → exec (.teamAdmit ctx) s = .next (s2.advanceLaunch ctx l n true)) ∧
          (k ≠ n → (s2.emptied all).placeTeam L' l d k all = none → exec (.teamAdmit ctx) s = .next (known.refuseLaunch ctx l 8 0)) ∧
          (k ≠ n → (s2.emptied all).placeTeam L' l d k all ≠ none →
            (∀ t, s2.startWeak L' l d k pairs = some t →
              exec (.teamAdmit ctx) s = .next (t.advanceLaunch ctx l (k + 1) (k + 1 == n && (t.partialTeam l).isNone))) ∧
            (s2.startWeak L' l d k pairs = none → exec (.teamAdmit ctx) s = .next known))))) ∧
    (∀ reason cause,
      let r : FaultRecord :=
        { w0 := recordWord0 ctx 0 0 0 false 0 false false false true 1, addr := L.record.desc,
          w2 := (0xFFFF#16) ++ (0 : BitVec 16) ++ BitVec.ofNat 32 L.queue, detail := BitVec.ofNat 64 (reason + 256 * cause) }
      s.refuseLaunch ctx l reason cause =
        ((((s.postRecord ctx r .refused).midnight 0x03 ctx 0xFF 2 r.detail L.record.desc).modCtx ctx (fun c => { c with slot := none })).endLaunch l))

/-- R20, R30 to R32, R35, R263, R264, R282: the other events of a launch's life. A group without lanes and counts ends: it is gone, its
pins are taken off, its team's count rises, and the team and launch may end with it. A visit makes an owner's deficit rise by its quantum,
at most to the quantum, and takes requests where it is then positive; without a request it is at most 0. Each core-pair microsecond of
counter 0 debits the deficit once, which happens in a step of its own (the model's choice, notes/assumptions/32.md). Where a request waits
for a block, the compactor copies a team's block to the one that the allocator gives, and which team's is the model's choice too
(notes/assumptions/95.md); the swap makes that one the team's, and the old one is free. -/
def Obligations.LaunchEvents : Prop :=
  ∀ (s : State) (g o tid : Nat) (gr : Group) (t : Team) (w : Owner) (c : Compaction),
    (s.group? g = some gr → gr.empty = true → gr.quiet = true →
      let s1 := (FMap.vals gr.pns).foldl (fun (s : State) x => s.camRemove (g / 64) gr.ctx x) s
      let s2 := gr.lostPins.foldl (fun (s : State) x => s.dirRelease gr.ctx x) s1
      let s3 := ({ s2 with groups := FMap.del s2.groups g }.forgetAgent gr.agent.uid).orphanOps (.group g .pc0)
      exec (.groupEnd g) s = .next ((s3.modTeam gr.team (fun t => { t with ended := t.ended + 1 })).checkTeam gr.team)) ∧
    (FMap.find s.owners o = some w →
      let weighted (x : Nat) : Bool := (FMap.at {} s.owners x).configured && s.weightOf x != 0
      let q : Int := (bits w.word 0 8).toNat * (bits s.hub.quantum 0 16).toNat * 2000
      let zero (x : Nat) : Bool := (FMap.at {} s.owners x).configured && s.weightOf x == 0 && (s.ownerHead x).isSome
      let visited : State := s.modHub (fun h => { h with visit := o })
      6 ≤ s.hub.dawn → nextOwner weighted s.hub.visit = some o → (s.owners.any (fun x => weighted x.1 && (s.ownerHead x.1).isSome) = true ∨ nextOwner zero s.hub.visitZero = none) →
      (s.ownerHead o = none → exec .dispatcherVisit s = .next (visited.modOwner o (fun x => { x with deficit := min w.deficit 0 }))) ∧
      (s.ownerHead o ≠ none →
        let funded := visited.modOwner o (fun x => { x with deficit := min (w.deficit + q) q })
        exec .dispatcherVisit s = .next (if 0 < min (w.deficit + q) q then (funded.serveOwner o 64).1 else funded))) ∧
    (FMap.find s.owners o = some w →
      (w.debited + 2000 ≤ (FMap.at 0 w.usage 0).toNat →
        exec (.ownerDeficitDebit o) s = .next (s.modOwner o (fun x => { x with deficit := x.deficit - 2000, debited := x.debited + 2000 }))) ∧
      ((FMap.at 0 w.usage 0).toNat < w.debited + 2000 → exec (.ownerDeficitDebit o) s = .next s)) ∧
    (s.team? tid = some t → t.cfix = false → t.span = false → (∀ x ∈ s.compactions, x.team ≠ tid) →
      s.clmWanted t.core = true → s.clm.wf = true → ∀ b, allocClm (s.clmUsed t.core) 8 t.clmSize = some b →
      ∃ r, exec (.compactStart tid) s = .next r ∧ r.compactions = s.compactions ++ [{ team := tid, core := t.core, target := b }] ∧
        r.teams = s.teams ∧ r.mem = s.mem ∧
        (∀ k, k < t.clmSize → Mem.read r.clm (clmBytes * t.core + b + k) = Mem.read s.clm (t.key t.core k)) ∧
        (∀ a, (a < clmBytes * t.core + b ∨ clmBytes * t.core + b + t.clmSize ≤ a) → Mem.read r.clm a = Mem.read s.clm a)) ∧
    (s.team? tid = some t → t.span = false → s.clm.wf = true → s.clmBusy tid t = false → s.compactions.filter (fun x => x.team == tid) = [c] →
      c.core = t.core →
      ∃ r t', exec (.compactSwap tid) s = .next r ∧ r.team? tid = some t' ∧ t'.clmBase0 = c.target ∧ r.mem = s.mem ∧
        (∀ k, k < t.clmSize → Mem.read r.clm (t.key t.core k) = 0) ∧
        (∀ a, (a < t.key t.core 0 ∨ t.key t.core 0 + t.clmSize ≤ a) → Mem.read r.clm a = Mem.read s.clm a))

/-! Contexts -/

/-- R301, R303, R308, R309, R311, R320, R364, R365, R369: the hypervisor's commands that are answered at once. A new context is configured
and empty; an id or owner out of range or in use, or a device whose dawn has not ended, is busy. A release of a context without pairs
starts the zeroing, of a resident one a vacate; a second one is busy. An export makes one image of the frames with their entries, the
launches and the context; an import with a wrong key or hash changes nothing but the result. Dropped translations, frame tests, self tests
and usage reports answer 0. R9, R80, R81, R99, R261 to R263, R276, R301, R304, R323, R324, R356, R364, R366, R369: writes of the
management and context registers. A context's words may be written while it is configured or saved and no restore holds pairs for it, and
are otherwise busy; that answer, and that SHAREMASK, the slice list, FREED, DEFER, SHARE and the pool can be written at any time, are the
model's choice (notes/assumptions/66.md). A slice word may be written while no context holds the pair; LENT needs a pair that is not
suspect; CTX is not written. QCFG is written only while EN is 0. An ownership entry's reserved bits stay zero. The L2's mode changes once
no context holds a pair: its lines are then out of it, its partials combined. The reserved bits of TROOT and DIRBASE read as zero; that
the device remembers a write of them for ASSIGN is the model's choice (notes/assumptions/100.md). -/
def Obligations.ContextCommandsAndRegisters : Prop :=
  (∀ (s : State) (ctx owner frame pair : Nat) (c : Context) (im : NativeImage) (nonce : List Byte),
    let busy (name ctx : Nat) : State := s.answered name ctx 1
    let idle : Prop := (∀ r ∈ s.hub.restores, r.ctx = ctx → r.held = false) ∧ ∀ v ∈ s.hub.vacates, v.ctx = ctx → v.release = false
    let cmd := s.hub.commands.length
    (6 ≤ s.hub.dawn → s.ctx? ctx = none → 0 < ctx → ctx < 4096 → 0 < owner → owner < 64 →
      ∃ t : State, exec (.create ctx owner) s = .next (t.answered 1 ctx 0) ∧ t.ctx? ctx = some { owner } ∧ (∀ k, k ≠ ctx → t.ctx? k = s.ctx? k) ∧
        t.mem = s.mem ∧ t.hub = s.hub) ∧
    ((s.hub.dawn < 6 ∨ (s.ctx? ctx).isSome ∨ ctx = 0 ∨ 4096 ≤ ctx ∨ owner = 0 ∨ 64 ≤ owner) → exec (.create ctx owner) s = .next (busy 1 ctx)) ∧
    (s.ctx? ctx = none → exec (.release ctx) s = .next (busy 5 ctx) ∧ exec (.exportImage ctx) s = .next (busy 6 ctx)) ∧
    (s.ctx? ctx = some c →
      (c.state = .zeroing ∨ (∃ v ∈ s.hub.vacates, v.ctx = ctx ∧ v.release = true) → exec (.release ctx) s = .next (busy 5 ctx)) ∧
      (c.state = .resident → idle → exec (.release ctx) s = .next ((s.command 5 ctx).2.startVacate ctx c.pairs [cmd] [] false true)) ∧
      (c.state = .configured ∨ c.state = .saved → idle →
        exec (.release ctx) s = .next ((s.command 5 ctx).2.modCtx ctx (fun x => { x with state := .zeroing })).startWaiting) ∧
      (c.state ≠ .saved → exec (.exportImage ctx) s = .next (busy 6 ctx)) ∧
      (c.state = .saved → idle → ∃ x : NativeImage,
        exec (.exportImage ctx) s = .next ((s.modHub (fun h => { h with images := h.images ++ [x] })).answered 6 ctx 0) ∧
        x.key = s.imageKey ∧ x.ctx = ctx ∧ x.context = c ∧ x.launches = s.launches.filter (fun l => l.2.ctx == ctx) ∧ x.nextId = s.nextId ∧ x.cycle = s.now ∧
        x.hash = sha512 { x with hash := [] }.bytes ∧ (∀ f ∈ s.framesOf ctx, ∃ y ∈ x.frames, y.1 = f) ∧
        ∀ y ∈ x.frames, y.2.1 = s.frameWord y.1 ∧ y.2.2 = Mem.readBytes s.mem (65536 * y.1) 65536)) ∧
    (im.key ≠ s.imageKey → exec (.imageImport im) s = .next (s.answered 7 im.ctx 6)) ∧
    (im.key = s.imageKey → im.hash ≠ sha512 { im with hash := [] }.bytes → exec (.imageImport im) s = .next (s.answered 7 im.ctx 7)) ∧
    (im.key = s.imageKey → im.hash = sha512 { im with hash := [] }.bytes → 6 ≤ s.hub.dawn → s.ctx? im.ctx = none → 0 < im.ctx → im.ctx < 4096 →
      (∀ f ∈ im.frames, f.1 < 0x7FFF00 ∧ s.frameWord f.1 < 0x8000) →
      ∃ t : State, exec (.imageImport im) s = .next (t.answered 7 im.ctx 0) ∧ t.nextId = s.nextId + im.nextId ∧
        t.ctx? im.ctx = some (im.context.imported { ids := s.nextId, src := im.cycle, dst := s.now }) ∧ (∀ k, k ≠ im.ctx → t.ctx? k = s.ctx? k) ∧
        (∀ l L, im.launches = [(l, L)] → FMap.find t.launches (l + s.nextId) = some L) ∧
        ∀ f e bs, im.frames = [(f, e, bs)] → s.mem.wf = true → bs.length = 65536 → e < 65536 →
          (∀ k, k < 65536 → Mem.read t.mem (65536 * f + k) = bs.getD k 0) ∧ t.frameWord f = e) ∧
    exec (.translationInvalidate ctx) s = .next ({ s with tlb := s.tlb.filter (fun (x : TlbEntry) => x.ctx != ctx) }.answered 13 ctx 0) ∧
    (s.frameWord frame ≠ 0x8000 → ∀ pass, exec (.frameTest frame pass) s = .next (s.answered 8 0 1)) ∧
    (s.frameWord frame = 0x8000 → exec (.frameTest frame true) s = .next (((s.zeroFrame frame).setFrameWord frame 0).answered 8 0 0) ∧
      exec (.frameTest frame false) s = .next (s.answered 8 0 0)) ∧
    exec (.selfTest pair true) s = .next ((s.modHub (fun h => { h with suspect := NSet.del h.suspect pair })).answered 9 0 0) ∧
    exec (.selfTest pair false) s = .next (s.answered 9 0 0) ∧
    (nonce.length = 32 → ∃ t : State, exec (.usageReport owner nonce) s = .next (t.answered 12 0 0) ∧
      t.mem = s.mem ∧ t.ctxs = s.ctxs ∧ ∃ body, t.hub.reports = s.hub.reports ++ [body ++ signature body] ∧
        body.length = 256 ∧ (body ++ signature body).length = 768 ∧ body.take 4 = [1, 0, 0, 0] ∧ (body.drop 32).take 32 = nonce)) ∧
  (∀ (s : State) (ctx pair q e : Nat) (v : W64) (mode : L2Mode) (c : Context),
    let opened : Prop := s.ctx? ctx = some c ∧ (c.state = .configured ∨ c.state = .saved) ∧ ∀ r ∈ s.hub.restores, r.ctx = ctx → r.held = false
    let shut : Prop := s.ctx? ctx = none ∨ (s.ctx? ctx = some c ∧ (c.state = .resident ∨ c.state = .zeroing)) ∨
      ∃ r ∈ s.hub.restores, r.ctx = ctx ∧ r.held = true
    let word (r : MgmtReg) (f : Context → Context) : Prop :=
      (opened → exec (.registerWrite r v) s = .next ((s.modCtx ctx f).answered 14 ctx 0)) ∧
      (shut → exec (.registerWrite r v) s = .next (s.answered 14 ctx 1))
    let plain (r : MgmtReg) (f : Context → Context) : Prop := exec (.registerWrite r v) s = .next (s.modCtx ctx f)
    let hub (r : MgmtReg) (f : Hub → Hub) : Prop := exec (.registerWrite r v) s = .next (s.modHub f)
    let tenant (k : Nat) (f : Tenant → Tenant) : Prop :=
      hub (.tenantWord e k) (fun h => { h with tenants := FMap.put h.tenants e (f (FMap.at {} h.tenants e)) })
    word (.fgrp ctx) (fun x => { x with fgrp := bits v 0 16 }) ∧
    word (.troot ctx) (fun x =>
      { x with troot := v &&& 0x000FFFFFFFFFF000, skewed := (v &&& 0xFFF0000000000FFF != 0, x.skewed.2) }) ∧
    word (.handler ctx) (fun x => { x with handler := v }) ∧
    word (.dirbase ctx) (fun x =>
      { x with dirbase := v &&& 0x000FFFFFFFFFFFF0, skewed := (x.skewed.1, v &&& 0xFFF000000000000F != 0) }) ∧
    word (.dirlog2 ctx) (fun x => { x with dirlog2 := v &&& 0x1F }) ∧
    (opened → exec (.boundWrite ctx v) s = .next ((s.modCtx ctx (fun x => { x with bound := v.toNat % 2 ^ 25 })).answered 10 ctx 0)) ∧
    (shut → exec (.boundWrite ctx v) s = .next (s.answered 10 ctx 1)) ∧
    plain (.sharemask ctx) (fun x => { x with sharemask := bits v 0 16 }) ∧
    (∀ l, plain (.sliceList ctx l) (fun x => { x with slices := l })) ∧
    plain (.freed ctx) (fun x => { x with freed := v }) ∧ plain (.defer ctx) (fun x => { x with defer := v }) ∧
    plain (.share ctx) (fun x => { x with share := v &&& 0xFF00FF }) ∧
    (v.toNat < 0x7FFF00 → plain (.poolFrame ctx) (fun x => { x with pool := x.pool ++ [v.toNat] })) ∧
    (0x7FFF00 ≤ v.toNat → exec (.registerWrite (.poolFrame ctx) v) s = .next s) ∧
    (0x7FFF00 ≤ e → exec (.registerWrite (.frameOwner e) v) s = .next s) ∧
    (e < 0x7FFF00 → s.mem.wf = true → ∃ t, exec (.registerWrite (.frameOwner e) v) s = .next t ∧ t.ctxs = s.ctxs ∧ t.clm = s.clm ∧
      t.frameWord e = ((bits v 13 3).toNat * 8192 + if v.getLsbD 14 then (bits v 0 4).toNat else (bits v 0 12).toNat) ∧
      (∀ f, f ≠ e → t.frameWord f = s.frameWord f) ∧
      ∀ a, (a < 0x7FFF000000 + 2 * e ∨ 0x7FFF000000 + 2 * e + 2 ≤ a) → Mem.read t.mem a = Mem.read s.mem a) ∧
    exec (.registerWrite (.ownerWord e) v) s = .next (s.modOwner e (fun w => { w with configured := true, word := v &&& 0x3FF })) ∧
    hub .quantum (fun h => { h with quantum := v &&& 0xFFFF }) ∧ hub .lfport (fun h => { h with lfport := v.toNat % 65536 }) ∧
    hub .ctimeout (fun h => { h with ctimeout := v.toNat }) ∧ hub .logbase (fun h => { h with logbase := v }) ∧
    tenant 0 (fun t => { t with w0 := v &&& 0x80000000FFFF003F }) ∧ tenant 1 id ∧
    tenant 2 (fun t => { t with pfx0 := bits t.pfx0 64 64 ++ v }) ∧ tenant 3 (fun t => { t with pfx0 := v ++ bits t.pfx0 0 64 }) ∧
    tenant 6 (fun t => { t with plens := bits v 0 16 }) ∧
    hub (.tenantReject e) (fun h =>
      let t : Tenant := FMap.at {} h.tenants e
      { h with tenants := FMap.put h.tenants e { t with reject := t.reject &&& ~~~(v &&& 0xFFFFFFFFFFFF) } }) ∧
    (let w := FMap.at 0 s.hub.slices pair
     (v.getLsbD 63 = true → pair ∈ s.hub.suspect → exec (.sliceWrite pair v) s = .next (s.answered 11 0 9)) ∧
     (bits w 40 12 ≠ 0 → (v.getLsbD 63 = false ∨ pair ∉ s.hub.suspect) → exec (.sliceWrite pair v) s = .next (s.answered 11 0 1)) ∧
     (bits w 40 12 = 0 → (v.getLsbD 63 = false ∨ pair ∉ s.hub.suspect) →
       exec (.sliceWrite pair v) s =
         .next ((s.modHub (fun h => { h with slices := FMap.put h.slices pair (v &&& 0x8000003F01FFFFFF) })).answered 11 0 0))) ∧
    (q < 64 →
      ((FMap.at {} s.queues q).qcfg.getLsbD 63 = true →
        exec (.qcfgWrite q v) s = .next s ∧ exec (.registerWrite (.qbase q) v) s = .next s) ∧
      ((FMap.at {} s.queues q).qcfg.getLsbD 63 = false →
        exec (.qcfgWrite q v) s = .next (s.modQueue q (fun k => { k with qcfg := v &&& 0x800FFF3F3F000000 })) ∧
        exec (.registerWrite (.qbase q) v) s = .next (s.modQueue q (fun k => { k with qbase := v }))) ∧
      exec (.qtailWrite q v) s = .next (s.modQueue q (fun k => { k with qtail := bits v 0 16 }))) ∧
    (mode ≠ .dawn → mode ≠ s.hub.l2mode → exec (.l2ModeWrite mode) s = .next (s.modHub (fun h => { h with l2want := some mode }))) ∧
    (mode = .dawn ∨ (mode = s.hub.l2mode ∧ s.hub.l2want = none) → exec (.l2ModeWrite mode) s = .next s) ∧
    (s.hub.l2want = some mode → (∀ x ∈ s.ctxs, x.2.pairs = []) → s.hub.restores = [] →
      ∃ t, exec .l2WritebackComplete s = .next t ∧ t.hub.l2mode = mode ∧ t.hub.l2want = none ∧ t.ctxs = s.ctxs ∧ t.clm = s.clm ∧
        t.partials = [] ∧ (FMap.wf s.l2 = true → t.l2 = [])))

/-- R311, R365: zeroing. When it completes the context's id is free; each frame that named the context alone reads zero and has no owner,
but one whose write failed is quarantined; other frames and entries stay; a release that waits is answered with the number quarantined. A
share group's frames are zeroed and cleared. -/
def Obligations.FramesZeroed : Prop :=
  ∀ (s : State) (ctx grp : Nat) (failed : List Nat) (c : Context),
    s.mem.wf = true → (∀ f ∈ s.framesWith (fun e => 0x8000 ≤ e), f < 0x7FFF00) →
    let bytesOf (t : State) (f : Nat) (v : Nat → Byte) : Prop := ∀ k, k < 65536 → Mem.read t.mem (65536 * f + k) = v k
    let same (t : State) (f : Nat) : Prop := bytesOf t f (fun k => Mem.read s.mem (65536 * f + k)) ∧ t.frameWord f = s.frameWord f
    (s.ctx? ctx = some c → c.state = .zeroing → ctx ≠ 0 → ctx < 4096 → (∀ f ∈ failed, f ∈ s.framesOf ctx) →
      ∃ t, exec (.zeroingComplete ctx failed) s = .next t ∧
        (FMap.wf s.ctxs = true → t.ctx? ctx = none) ∧ (∀ k, k ≠ ctx → t.ctx? k = s.ctx? k) ∧
        (∀ f, f < 0x7FFF00 →
          (s.frameWord f / 0x8000 = 1 ∧ s.frameWord f / 0x4000 % 2 = 0 ∧ s.frameWord f % 4096 = ctx →
            (f ∉ failed → bytesOf t f (fun _ => 0) ∧ t.frameWord f = 0) ∧ (f ∈ failed → t.frameWord f = 0x8000)) ∧
          (¬ (s.frameWord f / 0x8000 = 1 ∧ s.frameWord f / 0x4000 % 2 = 0 ∧ s.frameWord f % 4096 = ctx) → same t f)) ∧
        (∀ k y, s.hub.commands.findIdx? (fun x => x.name == 5 && x.ctx == ctx && x.status.isNone) = some k → s.hub.commands[k]? = some y →
          ∃ x, t.hub.commands[k]? = some x ∧ x.status = some (if y.info = 1 then 0x8000 else 0) ∧ x.info = ((s.framesOf ctx).filter failed.contains).length)) ∧
    (∃ t, exec (.shareGroupRelease grp) s = .next t ∧ t.ctxs = s.ctxs ∧
      ∀ f, f < 0x7FFF00 →
        (s.frameWord f / 0x8000 = 1 ∧ s.frameWord f / 0x4000 % 2 = 1 ∧ s.frameWord f % 16 = grp → bytesOf t f (fun _ => 0) ∧ t.frameWord f = 0) ∧
        (¬ (s.frameWord f / 0x8000 = 1 ∧ s.frameWord f / 0x4000 % 2 = 1 ∧ s.frameWord f % 16 = grp) → same t f))

/-- R104, R111 to R113, R301, R303, R306, R307, R337, R339, R369: VACATE and RECALL begin a vacate of held pairs, or are busy; the halt
records each core's E, sums and time, and abandons what its agents wait to issue; a second vacate of the same pairs joins. The drain ends
once its operations have, the save once its regions are written back and the core is written. At the commit the pairs are free, the cores
empty, and the command has status 0, or the overrun bit. -/
def Obligations.VacateResults : Prop :=
  ∀ (s : State) (ctx p core k : Nat) (ps cmds : List Nat) (rc : List (Nat × Nat)) (b1 b2 : Bool) (c : Context) (v : Vacate) (cm : Command) (ow : Owner),
    let cmd := s.hub.commands.length
    let word := FMap.at 0 s.hub.slices p
    (s.ctx? ctx = none ∨ (s.ctx? ctx = some c ∧ (c.state ≠ .resident ∨ (∃ x ∈ ps, x ∉ c.pairs) ∨ (ps = [] ∧ c.pairs = []))) →
      exec (.vacate ctx ps) s = .next (s.answered 3 ctx 1)) ∧
    (s.ctx? ctx = some c → c.state = .resident → (∀ x ∈ ps, x ∈ c.pairs) → ps.Nodup →
      (ps ≠ [] → exec (.vacate ctx ps) s = .next ((s.command 3 ctx).2.startVacate ctx ps [cmd] [] false false)) ∧
      (ps = [] → c.pairs ≠ [] → c.pairs.Nodup → (∀ r ∈ s.hub.restores, r.ctx = ctx → r.held = false) →
        exec (.vacate ctx ps) s = .next ((s.command 3 ctx).2.startVacate ctx c.pairs [cmd] [] false false))) ∧
    (s.ctx? (bits word 40 12).toNat = some c →
      (c.state = .resident → p ∈ c.pairs →
        exec (.recallPair p) s =
          .next ((s.command 4 (bits word 40 12).toNat).2.startVacate (bits word 40 12).toNat [p] [cmd]
            (if word.getLsbD 63 then [(cmd, p)] else []) false false)) ∧
      (c.state ≠ .resident ∨ p ∉ c.pairs →
        exec (.recallPair p) s = .next (s.answered 4 (bits word 40 12).toNat 1))) ∧
    ((∀ x ∈ s.hub.vacates, p ∉ x.pairs) →
      (∀ o ∈ s.ops, o.2.core / 2 = p → (∀ n d old w, o.2.kind ≠ .search n d old (some w)) ∧ ∀ l w d old, o.2.kind ≠ .spawn l w d old) →
      let t := s.startVacate ctx [p] cmds rc b1 b2
      let v' : Vacate := { ctx, pairs := [p], since := s.ticks, cores := [2 * p, 2 * p + 1], commands := cmds, recalled := rc, brk := b1, release := b2 }
      let halted (x : Nat) : Core :=
        let e := s.estimate x
        let m := s.classSum x .memory
        let y := s.classSum x .matrix
        let f := s.classSum x .fabric
        { s.core x with phase := .draining, haltE := e, haltMem := m, haltMat := y, haltFab := f, haltAt := s.ticks }
      t.mem = s.mem ∧ t.clm = s.clm ∧ t.ops = s.ops ∧ t.ctxs = s.ctxs ∧
      t.hub.vacates = s.hub.vacates ++ [v'] ∧ (∀ x, x / 2 = p → t.core x = halted x) ∧
      ∀ g, t.group? g = (s.group? g).map (fun (x : Group) => if g / 128 = p then x.mapSlots Slot.atHalt else x)) ∧
    (let joined : Vacate := { v with
        commands := v.commands ++ cmds, recalled := v.recalled ++ rc, brk := v.brk || b1, release := v.release || b2 }
     s.hub.vacates = [v] → ctx = v.ctx → v.pairs = [p] →
      s.startVacate ctx [p] cmds rc b1 b2 = s.modHub (fun h => { h with vacates := [joined] })) ∧
    ((s.core core).phase = .draining →
      (∀ o ∈ s.ops, o.2.core = core → o.2.parked ≠ none ∨ o.2.finished = true ∨ o.2.ending = true ∨ o.2.resuming = true ∨
        ∃ a b d, o.2.kind = .kick a b d) →
      (∀ g ∈ s.groups, g.1 / 64 = core → g.2.agent.ack = 0) → (∀ x ∈ s.threads, x.1 / 4 = core → x.2.agent.ack = 0) →
      exec (.drainComplete core) s = .next (s.modCore core (fun x => { x with phase := .saving }))) ∧
    ((s.core core).phase = .saving → s.hub.vacates.find? (fun x => x.cores.contains core) = some v →
      (∀ g ∈ s.groups, g.1 / 64 = core → ∀ n ∈ FMap.vals g.2.pns, n = 0) →
      let written (lost : List LostItem) (u : State) : State :=
        (u.modCtx v.ctx (fun x => { x with image := x.image ++ [{ core, lost }] })).modCore core (fun x => { x with phase := .saved })
      (∀ n y i r l u, s.teams = [(n, y)] → y.regions = [(i, r)] → r.core = core → r.dirtyLines = [l] →
        s.backLine { ctx := y.ctx, core, team := n } y core l = (u, none) → (∀ g ∈ u.groups, g.1 / 64 = core → ∀ n ∈ FMap.vals g.2.pns, n = 0) →
        exec (.saveComplete core []) s = .next (written [] ({ u with dirty := NSet.del u.dirty (y.lineKey core l.1) }.modTeam n (fun x =>
          { x with regions := FMap.update x.regions i (fun r => { r with state := FMap.del r.state ((l.1 - r.off) / 64) }) })))) ∧
      ((∀ y ∈ s.teams, ∀ r ∈ y.2.regions, r.2.core = core → r.2.dirtyLines = []) →
      exec (.saveComplete core []) s = .next (written [] s) ∧
      ∀ g n gr, s.group? g = some gr → g / 64 = core → (gr.row n).backed = true →
        exec (.saveComplete core [.row g n]) s =
          .next (written [.row g n] (s.midnight 0x05 v.ctx core 2 (BitVec.ofNat 64 n) 0)))) ∧
    (s.hub.vacates.find? (fun x => x.ctx == ctx && x.cores.all (fun y => (s.core y).phase == .saved)) = some v → s.ctx? ctx = some c →
      s.hub.restores = [] → s.hub.tripped = [] → s.partials = [] →
      let e := (s.largestE v.cores).1
      let measured := s.ticks - v.since
      let left := c.pairs.filter (fun x => !v.pairs.contains x)
      let late : Prop := ∃ r ∈ v.recalled, r.1 = k ∧ (bits (FMap.at 0 s.hub.slices r.2) 0 25).toNat < measured
      ∃ t, exec (.vacateCommit ctx) s = .next t ∧ t.hub.vacates = s.hub.vacates.erase v ∧ t.clm.all (fun x => !v.cores.contains (x.1 / 393216)) = true ∧
        (∃ c', t.ctx? ctx = some c' ∧ c'.pairs = left ∧ c'.savedPairs = addAll c.savedPairs v.pairs ∧
          c'.state = if left = [] then (if v.release then .zeroing else .saved) else c.state) ∧
        (∀ x ∈ v.cores, (t.core x).phase = .running) ∧ (∀ g, g / 64 ∈ v.cores → t.group? g = none) ∧
        (∀ g, g / 64 ∉ v.cores → t.group? g = s.group? g) ∧ (∀ x ∈ v.pairs, t.pairHeld x = false) ∧
        (FMap.find s.owners c.owner = some ow → ∃ o', FMap.find t.owners c.owner = some o' ∧ FMap.at 0 o'.usage 8 = FMap.at 0 ow.usage 8 + 1 ∧
          FMap.at 0 o'.usage 9 = FMap.at 0 ow.usage 9 + BitVec.ofNat 64 measured) ∧
        (v.commands = [k] → s.hub.commands[k]? = some cm → cm.info = 0 → cm.name ≠ 5 → (∀ x ∈ s.hub.vacates.erase v, k ∉ x.commands) →
          (e + 2048 < measured ∨ late → ∃ y, t.hub.commands[k]? = some y ∧ y.status = some 0x8000) ∧
          (measured ≤ e + 2048 → ¬ late → ∃ y, t.hub.commands[k]? = some y ∧ y.status = some 0)) ∧
        (e + 2048 < measured → (s.largestE v.cores).2 / 2 ∈ t.hub.suspect))

/-- R69, R111, R303: what a core's save writes, its restore brings back. A core whose state is captured, cleared and restored holds the
same groups and threads (their virtual clocks stand still in between), teams, accumulator banks, macros, panel rows, operations and the
bytes of its dirty lines, which are clean then, while the save area keeps their copy. -/
def Obligations.SaveRestore : Prop :=
  ∀ (s : State) (core ctx : Nat),
    FMap.wf s.groups = true → FMap.wf s.threads = true → FMap.wf s.teams = true → FMap.wf s.banks = true → FMap.wf s.macros = true →
    FMap.wf s.shadow = true → FMap.wf s.marks = true → FMap.wf s.ops = true → s.clm.wf = true → s.lost = [] → (∀ p ∈ s.partials, p.core ≠ core) →
    (∀ g ∈ s.groups, g.1 / 64 = core → ∀ n ∈ FMap.vals g.2.pns, n = 0) →
    let all : Nat → Bool := fun _ => true
    let t := (s.clearCore core).restoreCore ctx (s.coreImage core [] all) all
    let stood (a : AgentState) : AgentState := { a with held := a.held + (s.now - a.start), start := s.now }
    (∀ g, t.group? g = (s.group? g).map (fun (x : Group) => if g / 64 = core then { x with agent := stood x.agent } else x)) ∧
    (∀ n, t.thread? n = (s.thread? n).map (fun (x : Thread) => if n / 4 = core then { x with agent := stood x.agent } else x)) ∧
    (∀ n, t.team? n = (s.team? n).map (fun (x : Team) =>
      if x.core = core then { x with regions := x.regions.map (fun (r : Nat × Region) => (r.1, r.2.saved)) } else x)) ∧
    (∀ k, FMap.find t.banks k = FMap.find s.banks k) ∧ (∀ k, FMap.find t.macros k = FMap.find s.macros k) ∧
    (∀ k, FMap.find t.shadow k = FMap.find s.shadow k) ∧ (∀ k, FMap.find t.ops k = FMap.find s.ops k) ∧
    (∀ k, FMap.find t.marks k = FMap.find s.marks k) ∧ (∀ k, k ∈ t.dirty ↔ k ∈ s.dirty ∧ k / 6144 ≠ core) ∧
    (∀ k, k ∈ t.copied ↔ k ∈ s.copied ∨ (k ∈ s.dirty ∧ k / 6144 = core)) ∧
    (∀ a, (a / 64 ∈ s.dirty ∨ a / 64 ∈ s.copied) → Mem.read t.clm a = Mem.read s.clm a) ∧
    (∀ a, a / 393216 ≠ core → Mem.read t.clm a = Mem.read s.clm a) ∧ (t.core core).phase = .running

/-- R99, R301 to R305, R317, R320, R338, R364: ASSIGN. In this order (the order is the model's choice: notes/assumptions/62.md), a context
that is absent, busy, being zeroed or without pairs to come back gives 1, a list other than the saved pairs 10, an empty or impossible one
1, a BOUND out of range 2, words out of range 8 (a misaligned one is kept apart: notes/assumptions/100.md), a lent pair whose deadline is
below BOUND 3, a saved core whose E would exceed BOUND 5, and with NOWAIT a held pair 4. Otherwise free pairs are taken at once, saved
ones restored, each with the images of its cores, and held ones waited for. A restore brings the images back and answers the command; a
resume after a break restores what the break vacated, but for a pair that is still being vacated, and its path goes on past the break. -/
def Obligations.AssignResults : Prop :=
  ∀ (s : State) (ctx p : Nat) (ps : List Nat) (nowait : Bool) (c : Context) (r : Restore),
    let cmd := s.hub.commands.length
    let refused (st : BitVec 16) : Prop := exec (.assign ctx ps nowait) s = .next (s.answered 2 ctx st)
    let quiet : Prop := (∀ x ∈ s.hub.restores, x.ctx = ctx → x.command = none) ∧ ∀ x ∈ s.hub.vacates, x.ctx = ctx → x.release = false
    let legal : Prop := 6 ≤ s.hub.dawn ∧ quiet ∧ c.state ≠ .zeroing ∧ (c.state = .resident → c.savedPairs ≠ [])
    let listed : Prop := c.savedPairs = [] ∨ addAll [] ps = c.savedPairs
    let named : Prop := ps ≠ [] ∧ ∀ x ∈ ps, x < 80
    let bounded : Prop := 32000 ≤ c.bound ∧ c.bound ≤ 32000000
    let k := (bits c.dirlog2 0 5).toNat
    let aligned : Prop := 10 ≤ k ∧ k ≤ 20 ∧ c.dirbase.toNat % (16 * 2 ^ k) = 0 ∧ c.skewed = (false, false)
    let inTime : Prop := ∀ x ∈ ps, (FMap.at 0 s.hub.slices x).getLsbD 63 = true → c.bound ≤ (bits (FMap.at 0 s.hub.slices x) 0 25).toNat
    let images := c.image.filter (fun im => ps.contains (im.core / 2))
    let fitting : Prop := ∀ im ∈ images, im.restoredE images ≤ c.bound - Config.commitTicks
    (s.ctx? ctx = none → refused 1) ∧
    (s.ctx? ctx = some c →
      (¬ legal → refused 1) ∧ (legal → ¬ listed → refused 10) ∧ (legal → listed → ¬ named → refused 1) ∧
      (legal → listed → named → ¬ bounded → refused 2) ∧ (legal → listed → named → bounded → ¬ aligned → refused 8) ∧
      (legal → listed → named → bounded → aligned → ¬ inTime → refused 3) ∧
      (legal → listed → named → bounded → aligned → inTime → ¬ fitting → refused 5) ∧
      (legal → listed → named → bounded → aligned → inTime → fitting →
        (nowait = true → (∃ x ∈ ps, s.pairHeld x = true) → refused 4) ∧
        (nowait = false → s.hub.restores = [] → s.hub.l2want = none → (∃ x ∈ ps, s.pairHeld x = true) →
          ∃ t, exec (.assign ctx ps nowait) s = .next t ∧ t.ctxs = s.ctxs ∧ t.cores = s.cores ∧ t.hub.slices = s.hub.slices ∧
            t.hub.restores = [{ ctx, pairs := addAll [] ps, command := some cmd, held := false }]) ∧
        (ps = [p] → s.hub.restores = [] → s.hub.l2want = none → s.pairHeld p = false → p / 40 ∉ s.hub.stopped → p / 40 ∉ s.hub.tripped → ctx < 4096 →
          ∃ t, exec (.assign ctx ps nowait) s = .next t ∧ t.groups = s.groups ∧ t.mem = s.mem ∧
            (bits (FMap.at 0 t.hub.slices p) 40 12).toNat = ctx ∧
            (c.savedPairs = [] → t.ctx? ctx = some { c with state := .resident, pairs := NSet.add c.pairs p } ∧ t.cores = s.cores ∧ t.hub.restores = [] ∧
              ∃ x, t.hub.commands[cmd]? = some x ∧ x.name = 2 ∧ x.ctx = ctx ∧ x.status = some 0) ∧
            (c.savedPairs = [p] → t.ctxs = s.ctxs ∧ (t.core (2 * p)).phase = .restoring ∧ (t.core (2 * p + 1)).phase = .restoring ∧
              t.hub.restores = [{ ctx, pairs := [p], command := some cmd, held := true }])))) ∧
    (s.hub.restores = [r] → r.ctx = ctx → r.held = true → s.ctx? ctx = some c → c.faults = [] → c.dirfull = false → r.brk = false → s.hub.tripped = [] →
      let mine := c.image.filter (fun im => r.pairs.contains (im.core / 2))
      let back := (mine.foldl (fun (u : State) im => u.restoreCore ctx im (fun k => r.pairs.contains (k / 2))) s).dirtyAgain ctx
      (∀ im ∈ mine, im.lost = [] ∧ (∀ g ∈ im.groups, g.2.fatal = false) ∧ ∀ n ∈ im.threads, n.2.fatal = false) → (∀ im ∈ mine, ∀ g ∈ im.groups, FMap.vals g.2.pns = []) → (∀ o ∈ back.ops, o.2.ctx = ctx → o.2.parked = none) →
      ∃ t, exec (.restoreComplete ctx) s = .next t ∧ t.groups = back.groups ∧ t.threads = back.threads ∧ t.teams = back.teams ∧ t.clm = back.clm ∧
        t.dirty = back.dirty ∧ t.copied = back.copied ∧ t.banks = back.banks ∧ t.macros = back.macros ∧ t.ops = back.ops ∧
        (∀ x ∈ r.pairs, (t.core (2 * x)).phase = .running ∧ (t.core (2 * x + 1)).phase = .running) ∧
        (∃ c', t.ctx? ctx = some c' ∧ c'.state = .resident ∧ c'.pairs = addAll c.pairs r.pairs ∧
          c'.savedPairs = c.savedPairs.filter (fun x => !r.pairs.contains x)) ∧
        t.hub.restores = [] ∧
        ∀ k x, r.command = some k → s.hub.commands[k]? = some x → ∃ x', t.hub.commands[k]? = some x' ∧ x'.status = some 0) ∧
    (let ready (x : Nat) : Bool := s.hub.vacates.all (fun v => !v.pairs.contains x) &&
       s.hub.restores.all (fun y => y.ctx != ctx || y.command.isSome || !y.pairs.contains x)
     let broken := (addAll [] ((s.hub.broken.filter (fun x => x.1 == ctx)).map (fun x => x.2.2.core / 2))).filter ready
     let back := broken.filter c.savedPairs.contains
     let t := s.resumeBreaks ctx broken
     s.ctx? ctx = some c → broken ≠ [] →
      (back = [] → exec (.debugResume ctx) s = .next t) ∧
      (back ≠ [] → exec (.debugResume ctx) s = .next ((t.modHub (fun h =>
        { h with restores := h.restores ++ [{ ctx, pairs := back, held := false, brk := true }] })).startWaiting)) ∧
      ∀ x ∈ s.hub.broken, ((∃ v ∈ s.hub.vacates, x.2.2.core / 2 ∈ v.pairs) → x ∈ t.hub.broken) ∧
        (x.1 = ctx → x.2.2.core / 2 ∈ broken → x.2.2.core / 2 ∈ c.pairs → x ∉ t.hub.broken)) ∧
    (∀ g gr tok, s.group? g = some gr → gr.s0.status = .trapped → gr.s0.owed ≤ 1 → gr.s0.tok = tok → (gr.s1.status = .trapped → gr.s1.tok ≠ tok) →
      ∃ gr', (s.resumeBreak tok (.group g .pc0)).group? g = some gr' ∧ gr'.s0.status = gr.s0.before ∧
        gr'.s0.pc = gr.s0.pc + BitVec.ofNat 64 (4 * gr.s0.tlen) ∧ gr'.s0.mask = gr.s0.mask ∧ gr'.s1 = gr.s1)

/-- R281, R331, R336, R344, R346, R387: the driver's answer to a record. A record of an agent on its core takes effect at once: replay
lets the trapped path, the parked operation, the stopped handler or the thread go on; cancel is fatal for the group or the team, and a
parked operation retires with an error. A record of a saved agent is answered at the restore, and with it the other record of a nested
pair; one of an ended agent is dropped. -/
def Obligations.DriverAnswers : Prop :=
  ∀ (s : State) (ctx k g tok op t units queue : Nat) (c : Context) (p : Posted) (phase : W64) (gr : Group) (th : Thread) (cancel : Bool),
    s.ctx? ctx = some c →
    let rest := s.modCtx ctx (fun x => { x with faults := x.faults.erase p })
    let driver (r : Option Nat) : Instr := if cancel then .driverCancel ctx r else .driverReplay ctx r
    (c.faults[k]? = some p →
      (s.ownerWhere ctx p.who = .live → exec (driver (some k)) s = .next (s.answerLive ctx p cancel)) ∧
      (s.ownerWhere ctx p.who = .gone → exec (driver (some k)) s = .next rest) ∧
      (s.ownerWhere ctx p.who = .saved → p.answer = .posted → exec (driver (some k)) s = .next (s.modCtx ctx (fun x =>
        { x with faults := (x.faults.filter (fun q => some q.who ≠ s.partnerRecord ctx p.who)).map (fun q => if q = p then { q with answer := if cancel then .cancelled else .replayed } else q) })))) ∧
    (c.faults = [p] → exec (driver none) s = exec (driver (some 0)) s) ∧ (c.faults = [] → exec (driver none) s = .next s) ∧
    (p.who = .refused → s.answerLive ctx p cancel = rest) ∧
    (p.who = .homeReturn units phase queue → s.answerLive ctx p cancel = if cancel then rest else rest.homeReturn ctx queue phase units) ∧
    (p.who = .thread t → s.thread? t = some th → cancel = false → ∃ th', (s.answerLive ctx p cancel).thread? t = some th' ∧
      th'.slot.status = th.slot.before ∧ th'.slot.pc = th.slot.pc ∧ th'.xs = th.xs ∧ th'.record = {}) ∧
    (s.group? g = some gr → gr.ctx = ctx →
      (∀ who, p.who = who → (who = .slot g tok ∨ who = .nested g ∨ who = .lostAgent (some g) none) → cancel = true →
        (∀ o ∈ s.ops, o.2.agent.base = .group g .pc0 → o.2.parked = none) →
        ∃ gr', (s.answerLive ctx p cancel).group? g = some gr' ∧ gr'.fatal = true ∧ gr'.s0 = {} ∧ gr'.s1 = {} ∧ gr'.handler = {} ∧ gr'.stack = [] ∧
          gr'.pending = [] ∧ gr'.empty = true ∧ gr'.rows = gr.rows ∧ gr'.copies = gr.copies) ∧
      (p.who = .slot g tok ∨ p.who = .engine g tok op → cancel = false → s.stoppedOn g p.who = false →
        gr.s0.status = .trapped → gr.s0.tok = tok → gr.s0.owed ≤ 1 →
        ∃ gr', (s.answerLive ctx p cancel).group? g = some gr' ∧ gr'.s0.status = gr.s0.before ∧ gr'.s0.pc = gr.s0.pc ∧ gr'.s0.mask = gr.s0.mask ∧
          gr'.handler = gr.handler ∧ gr'.rows = gr.rows ∧ gr'.qs = gr.qs) ∧
      (p.who = .engine g tok op → cancel = false → s.stoppedOn g p.who = false → ∀ o q, FMap.find s.ops op = some o → o.parked = some q →
        q.quiet = false → ∃ o', FMap.find (s.answerLive ctx p cancel).ops op = some o' ∧ o'.parked = none ∧ o'.resuming = true ∧ o'.kind = o.kind) ∧
      (p.who = .engine g tok op → cancel = true → s.stoppedOn g p.who = false → ∀ o q, FMap.find s.ops op = some o → o.parked = some q →
        s.answerLive ctx p cancel = (rest.endWithError op 5 (o.kind.errAddr q.addr) (bits q.detail 57 3).toNat).resumeTok g tok 0) ∧
      (p.who = .slot g tok → cancel = false → s.stoppedOn g p.who = true → gr.pending = [] →
        ∃ gr', (s.answerLive ctx p cancel).group? g = some gr' ∧ gr'.handler.slot.status = .free ∧ gr'.handler.stopped = false) ∧
      (p.who = .nested g → cancel = false →
        ∃ gr', (s.answerLive ctx p cancel).group? g = some gr' ∧ gr'.handler.stopped = false ∧ gr'.handler.slot.status = .live ∧
          gr'.handler.slot.pc = gr.handler.slot.pc ∧ gr'.s0.status = gr.s0.status))

/-- R250, R313 to R315, R367: counter banks and trace units under the hypervisor. Arming sets a unit's context, ring, mask and triggers,
and its ring starts empty; for the guest, a unit that the hypervisor holds is busy, and the hypervisor arms it for itself. A start or stop
trigger sets and clears the unit's enable and a freeze stops it for good, each with a record of type 4 where the mask has one: the action
codes, the mask's bits and the word source + 16 x action are the model's reading (notes/assumptions/63.md). A record goes to the unit's
ring where its head stands, and a wrap counts an overrun (notes/assumptions/51.md). What the hypervisor takes is set aside, records and
counts nothing for the guest, and resumes as it was. -/
def Obligations.TraceUnits : Prop :=
  ∀ (s : State) (n source core b : Nat) (conf u : TraceUnit) (value : W64) (bytes : List Byte),
    let taken := (FMap.at {} s.hub.traces n).hyper
    let armedOn (s t : State) : Prop := t.mem = s.mem ∧ t.hub.suspended = s.hub.suspended ∧
      FMap.find t.hub.traces n = some { conf with head := 0, overrun := 0, frozen := false } ∧
      ∀ k, k ≠ n → FMap.find t.hub.traces k = FMap.find s.hub.traces k
    (n < 8 → 6 ≤ conf.k → conf.k ≤ 20 →
      (conf.hyper = false → taken = true → exec (.traceUnitArm n conf) s = .next (s.answered 15 conf.ctx 1)) ∧
      (conf.hyper = false → taken = false → ∃ t : State, exec (.traceUnitArm n conf) s = .next (t.answered 15 conf.ctx 0) ∧ armedOn s t) ∧
      (conf.hyper = true → taken = true → ∃ t : State, exec (.traceUnitArm n conf) s = .next t ∧ armedOn s t)) ∧
    (s.hub.traces = [(n, u)] → u.frozen = false → 1 ≤ source → source ≤ 4 → u.source0 = source → (source = 4 ∨ u.value0 = value) → u.source1 ≠ source →
      let noted (s : State) (u : TraceUnit) : State :=
        if u.mask.testBit 4 then
          s.traceTo n u (traceBytes 4 u.ctx 0 0 0xFFFF (BitVec.ofNat 64 s.ticks) (BitVec.ofNat 64 (source + 16 * u.action0)) u.value0)
        else s
      let set (s : State) (f : TraceUnit → TraceUnit) : State := s.modHub (fun h => { h with traces := FMap.update h.traces n f })
      (u.action0 = 0 → exec (.triggerFire source value) s =
        .next (noted (set s (fun x => { x with enabled := true })) { u with enabled := true })) ∧
      (u.action0 = 1 → exec (.triggerFire source value) s = .next (set (noted s u) (fun x => { x with enabled := false }))) ∧
      (u.action0 = 2 → exec (.triggerFire source value) s = .next (set (noted s u) (fun x => { x with frozen := true })))) ∧
    ((∀ x ∈ s.hub.traces, (x.2.source0 ≠ source ∨ (source ≠ 4 ∧ x.2.value0 ≠ value)) ∧ (x.2.source1 ≠ source ∨ (source ≠ 4 ∧ x.2.value1 ≠ value))) →
      exec (.triggerFire source value) s = .next s) ∧
    (n < 8 → taken = false → FMap.wf s.hub.traces = true → FMap.wf s.hub.suspended = true →
      ∃ t, exec (.hvResourceTake (.unit n)) s = .next t ∧ t.mem = s.mem ∧ FMap.find t.hub.traces n = some { hyper := true } ∧
        (∀ ty ctx core agent ord time p0 p1, FMap.find (t.trace ty ctx core agent ord time p0 p1).hub.traces n = some { hyper := true }) ∧
        (∀ x : State, x.hub.suspended = t.hub.suspended → FMap.wf x.hub.traces = true → (FMap.at {} x.hub.traces n).hyper = true →
          (∃ y, exec (.triggerFire source value) x = .next y ∧ y.hub.suspended = t.hub.suspended) ∧
          ∃ y, exec (.hvResourceFree (.unit n)) x = .next y ∧ y.mem = x.mem ∧ FMap.find y.hub.traces n = FMap.find s.hub.traces n ∧
            ∀ k, k ≠ n → FMap.find y.hub.traces k = FMap.find x.hub.traces k)) ∧
    (let k := s.bank core b
     (core < 160 → b < 4 → ∃ t, exec (.hvResourceTake (.bank core b)) s = .next t ∧ t.bank core b =
       { k with hyper := true, ctrs := k.ctrs.map (fun c => (c.1, { c.2 with count := c.2.upTo s.now, since := none })) }) ∧
     (k.hyper = true → ∃ t, exec (.hvResourceFree (.bank core b)) s = .next t ∧ t.bank core b =
       { k with hyper := false, ctrs := if s.counts core k = true then k.ctrs.map (fun c => (c.1, c.2.thaw s.now)) else k.ctrs })) ∧
    (let size := 2 ^ u.k
     let t := s.traceTo n u bytes
     t.mem = Mem.writeBytes s.mem (u.base + 32 * (u.head % size)) bytes ∧
     ∃ u', FMap.find t.hub.traces n = some u' ∧ u'.head = u.head + 1 ∧
       u'.overrun = if size ≤ u.head ∧ u.head % size = 0 then u.overrun + 1 else u.overrun)

/-! Platform -/

/-- R323 to R325, R366: a datagram that is no launch frame does nothing. A launch frame is checked in R325's order, the lowest failing
check is its reason: its reject word, the owner's counters 6 and 15, an event at most once per second. An accepted one sets LASTSEQ,
writes a record of its DESC, ARGS and TEAMS with PHASE 0 at QTAIL, and QTAIL advances. Every check in the list has its turn. How RATE is
held against an entry, the seventh check, is the model's choice (notes/assumptions/68.md). -/
def Obligations.LaunchFrameResults : Prop :=
  ∀ (s : State) (src : BitVec 128) (port : Nat) (bs : List Byte),
    let w := frameWordAt bs
    let entry := (bits (w 0) 32 12).toNat
    let t : Tenant := FMap.at {} s.hub.tenants entry
    let qn := (bits (w 0) 0 6).toNat
    let q := FMap.at {} s.queues qn
    let rate := (bits t.w0 16 16).toNat
    let version : Prop := bits (w 0) 48 16 = 1 ∧ bits (w 0) 44 4 = 0 ∧ bits (w 0) 6 26 = 0 ∧ bits (w 4) 33 31 = 0
    let source : Prop := prefixHit src t.pfx0 (bits t.plens 0 8).toNat = true ∨ prefixHit src t.pfx1 (bits t.plens 8 8).toNat = true
    let checks : List Prop :=
      [version, t.w0.getLsbD 63 = true, source, qn = (bits t.w0 0 6).toNat, (hmac512 t.key (bs.take 40)).take 32 = (bs.drop 40).take 32,
       t.lastSeq.toNat < (w 1).toNat, rate = 0 ∨ t.held s.ticks + 2000000 ≤ rate * 2000000,
       (bits (w 4) 0 33).toNat ≠ 0 ∧ (bits (w 4) 0 33).toNat ≤ 2 ^ 32, (q.qtail + 1 - q.qhead).toNat % 2 ^ q.log2n ≠ 0]
    6 ≤ s.hub.dawn →
    (port ≠ s.hub.lfport ∨ bs.length ≠ 72 → exec (.launchFrame src port bs) s = .next s) ∧
    (port = s.hub.lfport → bs.length = 72 →
      ((∀ p ∈ checks, p) → exec (.launchFrame src port bs) s = .next (s.acceptFrame bs)) ∧
      ∀ n, n < 9 → (∀ p ∈ checks.take n, p) → ¬ checks.getD n True → exec (.launchFrame src port bs) s = .next (s.rejectFrame entry (n + 1))) ∧
    (∀ why, why < 16 → entry < 4096 →
      let r := s.rejectFrame entry why
      let n := (bits t.reject 0 48).toNat
      let o := (FMap.at {} s.queues (bits t.w0 0 6).toNat).owner
      ∃ t', FMap.find r.hub.tenants entry = some t' ∧ (bits t'.reject 60 4).toNat = why ∧ (bits t'.reject 0 48).toNat = min (n + 1) (2 ^ 48 - 1) ∧
        t'.lastSeq = t.lastSeq ∧ r.queues = s.queues ∧ r.mem = s.mem ∧
        (r.hub.mnhead = if (∃ a, t.rejectAt = some a ∧ s.now < a + 2400000000) then s.hub.mnhead else s.hub.mnhead + 1) ∧
        (∀ x, o ≠ 0 → FMap.find s.owners o = some x →
          ∃ x', FMap.find r.owners o = some x' ∧ FMap.at 0 x'.usage 15 = FMap.at 0 x.usage 15 + 1 ∧
            FMap.at 0 x'.usage 6 = FMap.at 0 x.usage 6 + 72)) ∧
    (let r := s.acceptFrame bs
     let a := q.qbase + BitVec.ofNat 64 (32 * (q.qtail.toNat % 2 ^ q.log2n))
     let put (u : State) (k : Nat) (v : W64) : State := (u.hubWrite q.ctx (a + BitVec.ofNat 64 (8 * k)) 8 v.toNat).1
     (∃ t', FMap.find r.hub.tenants entry = some t' ∧ t'.lastSeq = w 1 ∧ t'.reject = t.reject) ∧
     (∃ q', FMap.find r.queues qn = some q' ∧ q'.qtail = q.qtail + 1 ∧ q'.qhead = q.qhead ∧ q'.qcfg = q.qcfg) ∧
     ∃ u : State, u.mem = s.mem ∧ r.mem = (put (put (put (put u 0 (w 2)) 1 (w 3)) 2 ((bits (w 4) 0 33).setWidth 64)) 3 0).mem)

/-- R307, R320, R321, R370: resets. A reset leaves nothing but the flash, the count of cold resets and what a warm reset keeps, the usage
counters and the midnight record; that HBM lists nothing then, and so reads as zero, is the model's choice (notes/assumptions/4.md). With
an image that is read and verifies the dawn sequence brings up the L2, the ports and the device id; without one the recovery loader runs,
which takes a verified image into flash. Power lost during that write leaves a partly written image, which no later reset accepts; when
the write is complete, and what the bytes of a partly written flash are, is the model's choice (notes/assumptions/70.md). -/
def Obligations.ResetsAndRecovery : Prop :=
  ∀ (s : State) (rd : Bool) (devid : BitVec 9) (fw : W64) (image : List Byte) (keep : Nat),
    let empty (t : State) : Prop := t.mem = [] ∧ t.clm = [] ∧ t.groups = [] ∧ t.threads = [] ∧ t.teams = [] ∧ t.launches = [] ∧ t.ctxs = [] ∧
      t.queues = [] ∧ t.ops = [] ∧ t.cores = [] ∧ t.caches = [] ∧ t.tlb = [] ∧ t.banks = [] ∧ t.macros = [] ∧ t.hub.slices = [] ∧
      t.hub.tenants = [] ∧ t.l2 = [] ∧ t.partials = [] ∧ t.stamps = [] ∧ t.icache = [] ∧ t.poison = []
    let dawn (ok : Prop) (t : State) : Prop :=
      (ok → t.hub.dawn = 6 ∧ t.hub.l2mode = .shared ∧ t.hub.portsUp = List.range 16 ∧ t.hub.devid = devid ∧ t.hub.recovery = false) ∧
      (¬ ok → t.hub.dawn = 0 ∧ t.hub.recovery = true ∧ t.hub.portsUp = [])
    let h := s.hub
    (h.flashWriting = none →
      ∃ t, exec (.coldReset rd devid fw) s = .next t ∧ empty t ∧ dawn (rd = true ∧ h.flashBad = false ∧ Config.verify h.flash = true) t ∧
        t.owners = [] ∧ t.hub.mnhead = 1 ∧ t.hub.flash = h.flash ∧ t.hub.coldResets = h.coldResets + 1) ∧
    (∀ im, h.flashWriting = some im →
      ∃ t, exec (.coldReset rd devid fw) s = .next t ∧ empty t ∧ dawn (rd = true ∧ Config.verify im = true) t ∧
        t.hub.flash = im ∧ t.hub.flashWriting = none ∧ t.hub.flashBad = false) ∧
    (h.flashWriting = none →
      ∃ t, exec (.warmReset rd devid fw) s = .next t ∧ empty t ∧ dawn (rd = true ∧ h.flashBad = false ∧ Config.verify h.flash = true) t ∧
        t.hub.mnhead = h.mnhead + 1 ∧ t.hub.coldResets = h.coldResets ∧
        (∀ o, (FMap.find t.owners o).map (fun (x : Owner) => x.usage) = (FMap.find s.owners o).map (fun (x : Owner) => x.usage)) ∧
        (∀ n, n ≠ h.mnhead % 4096 → FMap.find t.hub.midnight n = FMap.find h.midnight n)) ∧
    (h.recovery = true → h.flashWriting = none → exec (.recoveryImage image) s =
      .next (if Config.verify image then s.modHub (fun x => { x with flashWriting := some image }) else s)) ∧
    (∃ t, exec (.powerLoss keep) s = .next t ∧ empty t ∧ t.owners = [] ∧ t.hub.dawn = 0 ∧ t.hub.mnhead = 0 ∧
      (h.flashWriting = none → t.hub.flash = h.flash ∧ t.hub.flashBad = h.flashBad) ∧
      (∀ im, h.flashWriting = some im → t.hub.flash = im.take keep ++ h.flash.drop keep ∧ t.hub.flashWriting = none ∧ t.hub.flashBad = true))

/-- R319, R349, R368: thermal points and memory errors. A reading above the warn point writes an event; above the trip point the contexts
of the die are vacated and its clock stops once it holds none, nor one that is being restored; above the hard stop it stops at once and
their groups are fatal, those in the save area too. A stack's points are 10 degrees lower. A die restarts after a second below its restart
points. A corrected error counts and is logged at most once per second, an uncorrectable one poisons its line, a clean cached line is read
again; that its place stays, and that a line of the L2 comes from HBM, which counter 2 counts, is the model's reading
(notes/assumptions/104.md). -/
def Obligations.ThermalAndMemoryErrors : Prop :=
  ∀ (s : State) (r : Reading) (d x g t0 pa core : Nat) (c : Context) (gr : Group) (path : Path),
    let stack : Bool := 2 ≤ r.sensor && r.sensor < 10
    let deg (n : Int) : Int := 16 * (n - if stack then 10 else 0)
    (∃ t, exec (.thermalSample [r]) s = .next t ∧ FMap.find t.hub.sensors r.sensor = some r.temp.toNat ∧
      (r.temp ≤ deg 95 → t.hub.mnhead = s.hub.mnhead ∧ t.hub.stopped = s.hub.stopped ∧ t.ctxs = s.ctxs ∧ t.groups = s.groups ∧ t.cores = s.cores) ∧
      (deg 95 < r.temp → r.temp ≤ deg 105 → t.hub.mnhead = s.hub.mnhead + 1 ∧ t.hub.stopped = s.hub.stopped ∧ t.ctxs = s.ctxs ∧ t.groups = s.groups)) ∧
    (r.sensor = d → d < 2 →
      (deg 105 < r.temp → r.temp ≤ deg 115 → s.hub.tripped = [] →
        ((∀ y ∈ s.ctxs, ∀ p ∈ y.2.pairs, p / 40 ≠ d) → (∀ y ∈ s.hub.restores, y.held = true → ∀ p ∈ y.pairs, p / 40 ≠ d) → d ∉ s.hub.stopped → 
          ∃ t, exec (.thermalSample [r]) s = .next t ∧ d ∈ t.hub.stopped ∧ t.ctxs = s.ctxs) ∧
        ((∃ y ∈ s.hub.restores, y.held = true ∧ ∃ p ∈ y.pairs, p / 40 = d) → d ∉ s.hub.stopped →
          ∃ t, exec (.thermalSample [r]) s = .next t ∧ d ∉ t.hub.stopped ∧ d ∈ t.hub.tripped) ∧
        (s.ctxs = [(x, c)] → (∃ p ∈ c.pairs, p / 40 = d) → d ∉ s.hub.stopped → s.hub.vacates = [] →
          ∃ t v, exec (.thermalSample [r]) s = .next t ∧ t.hub.vacates = [v] ∧ v.ctx = x ∧ v.pairs = c.pairs ∧ d ∉ t.hub.stopped ∧ d ∈ t.hub.tripped)) ∧
      (deg 115 < r.temp → s.ctxs = [(x, c)] → (∃ p ∈ c.pairs, p / 40 = d) → s.threads = [] → s.ops = [] → s.groups = [(g, gr)] → gr.ctx = x →
        gr.fatal = false →
        ∃ t gr', exec (.thermalSample [r]) s = .next t ∧ d ∈ t.hub.stopped ∧ t.group? g = some gr' ∧ gr'.fatal = true ∧ gr'.empty = true ∧
          ∀ c', t.ctx? x = some c' → ∀ im ∈ c'.image, ∀ y ∈ im.groups, y.2.fatal = true ∧ y.2.empty = true)) ∧
    (s.hub.stopped.contains d = true → FMap.find s.hub.coolSince d = some t0 → t0 + 2400000000 ≤ s.now →
      exec (.dieRestart d) s = .next ((s.modHub (fun h => { h with stopped := NSet.del h.stopped d })).dieCounters [d] true).startWaiting) ∧
    (let ch := (pa / 2 ^ 8 % 256) ^^^ (pa / 2 ^ 16 % 256) ^^^ (pa / 2 ^ 24 % 256) ^^^ (pa / 2 ^ 32 % 128)
     let event (u : State) (sev : Nat) : State := u.midnight 0x06 0 0xFF sev (BitVec.ofNat 64 ch) (BitVec.ofNat 64 pa)
     let counted : State := s.modHub (fun h => { h with eccCount := FMap.put h.eccCount ch (FMap.at 0 h.eccCount ch + 1) })
     ((∀ t, FMap.find s.hub.eccAt ch = some t → t + 2400000000 ≤ s.now) →
       exec (.eccError (.corrected pa)) s = .next (event (counted.modHub (fun h => { h with eccAt := FMap.put h.eccAt ch s.now })) 1)) ∧
     (∀ t, FMap.find s.hub.eccAt ch = some t → s.now < t + 2400000000 → exec (.eccError (.corrected pa)) s = .next counted) ∧
     (∃ t, exec (.eccError (.uncorrectable pa)) s = .next t ∧ t.hub.mnhead = s.hub.mnhead + 1 ∧ t.mem = s.mem ∧ t.partials = s.partials ∧
       FMap.find t.poison (pa / 64) = some false ∧ ∀ k, k ≠ pa / 64 → FMap.find t.poison k = FMap.find s.poison k) ∧
     (s.partials = [] → ∃ t, exec (.eccError (.cleanLine core path pa)) s = .next t ∧ t.hub.mnhead = s.hub.mnhead + 1 ∧ t.poison = s.poison ∧
       t.caches.length = s.caches.length ∧
       ∀ l ∈ t.caches, l.core = core → l.path = path → l.line = pa / 64 → l.data = Mem.readBytes t.mem (pa / 64 * 64) 64) ∧
     (∀ y, s.l2.find? (fun y => y.1 % 2 ^ 60 == pa / 64 && !y.2.dirty) = some y →
       ∃ t, exec (.eccError (.cleanL2 pa)) s = .next t ∧ t.hub.mnhead = s.hub.mnhead + 1 ∧ t.mem = s.mem ∧ t.poison = s.poison ∧ t.l2 = s.l2 ∧
         ∀ o, s.ownerOf y.2.ctx ≠ 0 → FMap.find s.owners (s.ownerOf y.2.ctx) = some o →
           ∃ o', FMap.find t.owners (s.ownerOf y.2.ctx) = some o' ∧ FMap.at 0 o'.usage 2 = FMap.at 0 o.usage 2 + 64))
end

