-- ==== Sys2Proof/Laws/Encoding.lean ====
section
/-! SUPPORT. Fields and words: the encoder's words give back the form, opcode and fields, and no bit of a word is dropped. -/
namespace Sys2Proof

open Sys2Proof.Machine

/-- A field of two joined words that lies in the upper one. -/
theorem bits_append_high {m n : Nat} (a : BitVec m) (b : BitVec n) (lo len : Nat) (h : n ≤ lo) :
    bits (a ++ b) lo len = bits a (lo - n) len := by
  apply BitVec.eq_of_getLsbD_eq
  intro i hi
  have h1 : ¬ (lo + i < n) := by omega
  have h2 : lo + i - n = lo - n + i := by omega
  simp [BitVec.getLsbD_append, h1, h2]

/-- A field of two joined words that lies in the lower one. -/
theorem bits_append_low {m n : Nat} (a : BitVec m) (b : BitVec n) (lo len : Nat) (h : lo + len ≤ n) :
    bits (a ++ b) lo len = bits b lo len := by
  apply BitVec.eq_of_getLsbD_eq
  intro i hi
  have h1 : lo + i < n := by omega
  simp [BitVec.getLsbD_append, h1]

theorem bits_self {n : Nat} (b : BitVec n) : bits b 0 n = b := by simp

theorem getLsbD_append_high {m n : Nat} (a : BitVec m) (b : BitVec n) (i : Nat) (h : n ≤ i) :
    (a ++ b).getLsbD i = a.getLsbD (i - n) := by
  have h1 : ¬ i < n := by omega
  rw [BitVec.getLsbD_append, if_neg h1]

theorem getLsbD_append_low {m n : Nat} (a : BitVec m) (b : BitVec n) (i : Nat) (h : i < n) :
    (a ++ b).getLsbD i = b.getLsbD i := by rw [BitVec.getLsbD_append, if_pos h]

theorem getLsbD_ofBool (b : Bool) : (BitVec.ofBool b).getLsbD 0 = b := by cases b <;> rfl

/-- A literal's two words give it back (R114). -/
theorem litOf_bits (l : W64) : litOf (bits l 0 32) (bits l 32 32) = l := by
  apply BitVec.eq_of_getLsbD_eq
  intro i hi
  simp only [litOf, bits, BitVec.getLsbD_append, BitVec.getLsbD_extractLsb']
  by_cases h : i < 32
  · simp [h]
  · have h1 : i - 32 < 32 := by omega
    have h2 : 32 + (i - 32) = i := by omega
    simp [h, h1, h2]

/-- Word 0 of a short form gives back each of its fields (R115, R117, R119). -/
theorem shortWord_fields (op : BitVec 7) (f : Short) {w : W32} {t : List W32} (h : shortWords op f = w :: t) :
    isShort w = true ∧ hasLit w = f.lit.isSome ∧ bits w 21 7 = op ∧ ∀ l, shortFields w l = { f with lit := l } := by
  simp only [shortWords, List.cons.injEq] at h
  obtain ⟨rfl, -⟩ := h
  refine ⟨?_, ?_, ?_, fun l => ?_⟩
  · simp only [isShort]
    repeat (first | rw [getLsbD_append_low _ _ _ (by decide)] | rw [getLsbD_append_high _ _ _ (by decide)])
    rfl
  · simp only [hasLit]
    repeat (first | rw [getLsbD_append_low _ _ _ (by decide)] | rw [getLsbD_append_high _ _ _ (by decide)])
    exact getLsbD_ofBool _
  · repeat (first | rw [bits_append_low _ _ _ _ (by decide)] | rw [bits_append_high _ _ _ _ (by decide)])
    exact bits_self op
  · obtain ⟨u, s, d, a, la, b, lb, p, lit⟩ := f
    simp only [shortFields, Short.mk.injEq, and_true]
    refine ⟨?_, ?_, ?_, ?_, ?_, ?_, ?_, ?_⟩ <;>
    · repeat (first | rw [bits_append_low _ _ _ _ (by decide)] | rw [bits_append_high _ _ _ _ (by decide)] |
        rw [getLsbD_append_low _ _ _ (by decide)] | rw [getLsbD_append_high _ _ _ (by decide)])
      first | exact bits_self _ | exact getLsbD_ofBool _

/-- The words of an extended form give back each of its fields (R115, R117, R121). -/
theorem extWord_fields (op : BitVec 7) (f : Ext) {w0 w1 w2 : W32} {t : List W32} (h : extWords op f = w0 :: w1 :: w2 :: t) :
    isShort w0 = false ∧ hasLit w0 = f.lit.isSome ∧ bits w0 21 7 = op ∧ ∀ l, extFields w0 w1 w2 l = { f with lit := l } := by
  simp only [extWords, List.cons.injEq] at h
  obtain ⟨rfl, rfl, rfl, -⟩ := h
  refine ⟨?_, ?_, ?_, fun l => ?_⟩
  · simp only [isShort]
    repeat (first | rw [getLsbD_append_low _ _ _ (by decide)] | rw [getLsbD_append_high _ _ _ (by decide)])
    rfl
  · simp only [hasLit]
    repeat (first | rw [getLsbD_append_low _ _ _ (by decide)] | rw [getLsbD_append_high _ _ _ (by decide)])
    exact getLsbD_ofBool _
  · repeat (first | rw [bits_append_low _ _ _ _ (by decide)] | rw [bits_append_high _ _ _ _ (by decide)])
    exact bits_self op
  · obtain ⟨u, s, d, a, la, sub, b, lb, c, lc, fa, fb, fc, pm, pn, ty, rm, imm, sc, ht, vs, xs, lit⟩ := f
    simp only [extFields, Ext.mk.injEq, and_true]
    refine ⟨?_, ?_, ?_, ?_, ?_, ?_, ?_, ?_, ?_, ?_, ?_, ?_, ?_, ?_, ?_, ?_, ?_, ?_, ?_, ?_, ?_, ?_⟩ <;>
    · repeat (first | rw [bits_append_low _ _ _ _ (by decide)] | rw [bits_append_high _ _ _ _ (by decide)] |
        rw [getLsbD_append_low _ _ _ (by decide)] | rw [getLsbD_append_high _ _ _ (by decide)])
      first | exact bits_self _ | exact getLsbD_ofBool _

/-- The words of a short form, followed by any others, are read as that form (R115, R119). -/
theorem encIn_shortWords (op : BitVec 7) (f : Short) (rest : List W32) :
    encIn (shortWords op f ++ rest) = some (.short op.toNat f) := by
  obtain ⟨w, t, h⟩ : ∃ w t, shortWords op f = w :: t := ⟨_, _, rfl⟩
  obtain ⟨h1, h2, h3, h4⟩ := shortWord_fields op f h
  have ht : t = match f.lit with | some l => [bits l 0 32, bits l 32 32] | none => [] := by
    simp only [shortWords, List.cons.injEq] at h; exact h.2.symm
  obtain ⟨u, s, d, a, la, b, lb, p, lit⟩ := f
  cases lit <;> rw [h] <;> simp only [List.cons_append, encIn] <;> rw [h1, h2] <;> subst ht <;>
    simp only [Option.isSome, List.cons_append, opOf, h3, h4, litOf_bits]

/-- The words of an extended form, followed by any others, are read as that form (R115, R121). -/
theorem encIn_extWords (op : BitVec 7) (f : Ext) (rest : List W32) :
    encIn (extWords op f ++ rest) = some (.ext op.toNat f) := by
  obtain ⟨w0, w1, w2, t, h⟩ : ∃ w0 w1 w2 t, extWords op f = w0 :: w1 :: w2 :: t := ⟨_, _, _, _, rfl⟩
  obtain ⟨h1, h2, h3, h4⟩ := extWord_fields op f h
  have ht : t = match f.lit with | some l => [bits l 0 32, bits l 32 32] | none => [] := by
    simp only [extWords, List.cons.injEq] at h; exact h.2.2.2.symm
  obtain ⟨u, s, d, a, la, sub, b, lb, c, lc, fa, fb, fc, pm, pn, ty, rm, imm, sc, ht', vs, xs, lit⟩ := f
  cases lit <;> rw [h] <;> simp only [List.cons_append, encIn] <;> rw [h1, h2] <;> subst ht <;>
    simp only [Option.isSome, List.cons_append, opOf, h3, h4, litOf_bits]

/-- Adjacent fields of a word join to the field that covers both. -/
theorem bits_join {k : Nat} (w : BitVec k) (lo m n : Nat) : bits w (lo + n) m ++ bits w lo n = bits w lo (m + n) := by
  apply BitVec.eq_of_getLsbD_eq
  intro i hi
  simp only [bits, BitVec.getLsbD_append, BitVec.getLsbD_extractLsb']
  by_cases h : i < n
  · simp [h, hi]
  · have h1 : i - n < m := by omega
    have h2 : lo + n + (i - n) = lo + i := by omega
    simp [h, hi, h1, h2]
/-- One bit as a field. -/
theorem ofBool_bit {k : Nat} (w : BitVec k) (i : Nat) : BitVec.ofBool (w.getLsbD i) = bits w i 1 := by
  apply BitVec.eq_of_getLsbD_eq
  intro j hj
  have : j = 0 := by omega
  subst this
  cases h : w.getLsbD i <;> simp [h]

/-- The fields of a short form give back its words: no bit of word 0 is dropped (R119). -/
theorem shortWords_fields (w : W32) (lit : Option W64) (h1 : isShort w = true) (h2 : hasLit w = lit.isSome) :
    shortWords (bits w 21 7) (shortFields w lit) = w :: (match lit with | some l => [bits l 0 32, bits l 32 32] | none => []) := by
  have h30 : false = w.getLsbD 30 := by simpa [isShort] using h1
  simp only [shortWords, shortFields, List.cons.injEq]
  refine ⟨?_, by cases lit <;> rfl⟩
  rw [← h2, h30, hasLit]
  simp only [ofBool_bit]
  rw [bits_join w 30 1 1, bits_join w 29 2 1,  bits_join w 28 3 1,  bits_join w 21 4 7, bits_join w 15 11 6, bits_join w 9 17 6, bits_join w 8 23 1,
     bits_join w 2 24 6, bits_join w 1 30 1, bits_join w 0 31 1]
  exact bits_self w
/-- The fields of an extended form give back its words: no bit is dropped (R121). -/
theorem extWords_fields (w0 w1 w2 : W32) (lit : Option W64) (h1 : isShort w0 = false) (h2 : hasLit w0 = lit.isSome) :
    extWords (bits w0 21 7) (extFields w0 w1 w2 lit) =
      w0 :: w1 :: w2 :: (match lit with | some l => [bits l 0 32, bits l 32 32] | none => []) := by
  have h30 : true = w0.getLsbD 30 := by simpa [isShort] using h1.symm
  simp only [extWords, extFields, List.cons.injEq]
  refine ⟨?_, ?_, ?_, by cases lit <;> rfl⟩
  · rw [← h2, h30, hasLit]
    simp only [ofBool_bit]
    rw [bits_join w0 30 1 1, bits_join w0 29 2 1,  bits_join w0 28 3 1,  bits_join w0 21 4 7, bits_join w0 13 11 8, bits_join w0 5 19 8, bits_join w0 4 27 1,
      bits_join w0 0 28 4]
    exact bits_self w0
  · simp only [ofBool_bit]
    rw [bits_join w1 23 8 1, bits_join w1 15 9 8, bits_join w1 14 17 1, bits_join w1 13 18 1, bits_join w1 12 19 1, bits_join w1 11 20 1,
      bits_join w1 8 21 3, bits_join w1 7 24 1, bits_join w1 2 25 5, bits_join w1 0 30 2]
    exact bits_self w1
  · rw [bits_join w2 9 20 3, bits_join w2 6 23 3, bits_join w2 4 26 2, bits_join w2 0 28 4]
    exact bits_self w2
end Sys2Proof
end

