-- ==== Sys2Proof/Laws/Issue.lean ====
section
/-! SUPPORT. What running a program instruction answers, once for all of them. -/
namespace Sys2Proof.Machine

open Sys2Proof

/-- The operands of an instruction keep its fields, opcode, agent and form. -/
theorem mkIss_fields {s : State} {op : Nat} {short : Bool} {f : Ext} {i : Iss} (h : mkIss s op short f = some i) :
    i.f = f ∧ i.op = op ∧ i.agent = s.cur ∧ i.short = short := by
  unfold mkIss at h
  simp only at h
  split at h
  · split at h
    · cases h
    · injection h with h; subst h; exact ⟨rfl, rfl, rfl, rfl⟩
  · split at h
    · cases h
    · injection h with h; subst h; exact ⟨rfl, rfl, rfl, rfl⟩

/-- With no cause held for the agent, the effect is that of the body. -/
theorem Iss.effect_of_held {h : Hooks} {i : Iss} {s : State} {body : Iss → State → Res State} (hh : heldTrap h i s = none) :
    i.effect h body s = body i s := by unfold Iss.effect; rw [hh]

theorem runIss_passes {h : Hooks} {op : Nat} {short ctl : Bool} {f : Ext} {body : Iss → State → Res State} {s s' : State} {i : Iss}
    {p : Prep} (hp : Passes h op short f s i p) (hb : body i s = .ok s') :
    runIss h op short ctl f body s = .next (if ctl then i.completeCtl p s' else i.complete p s') := by
  have hc : (f.u && i.eff == 0 && !ctl && i.desc.pred) = false := by
    have := hp.acts
    cases hu : f.u <;> simp_all
  unfold runIss
  rw [hp.operands]
  simp only [hp.checks, hp.whole, hc, Iss.effect_of_held hp.held, Bind.bind, Except.bind, Pure.pure, Except.pure, hb, Iss.finish]
  cases ctl <;> rfl

theorem effect_of {ins : Instr} {h : Hooks} {op : Nat} {short : Bool} {f : Ext} {body : Iss → State → Res State} {c : Iss → State → Prop}
    {e : Iss → State → State} {s : State} (he : exec ins s = runIss h op short false f body s)
    (hb : ∀ i, i.f = f → i.op = op → i.agent = s.cur → c i s → body i s = .ok (e i s)) : Effect ins h op short f c e s := by
  intro i p hp hc
  obtain ⟨hf, ho, ha, -⟩ := mkIss_fields hp.operands
  rw [he, runIss_passes hp (hb i hf ho ha hc)]; rfl

theorem ctlEffect_of {ins : Instr} {h : Hooks} {op : Nat} {short : Bool} {f : Ext} {body : Iss → State → Res State}
    {c : Iss → State → Prop} {e : Iss → State → State} {s : State} (he : exec ins s = runIss h op short true f body s)
    (hb : ∀ i, i.f = f → i.op = op → i.agent = s.cur → c i s → body i s = .ok (e i s)) : CtlEffect ins h op short f c e s := by
  intro i p hp hc
  obtain ⟨hf, ho, ha, -⟩ := mkIss_fields hp.operands
  rw [he, runIss_passes hp (hb i hf ho ha hc)]; rfl

theorem laneResults_of {ins : Instr} {h : Hooks} {op : Nat} {short : Bool} {f : Ext} {v : Iss → State → Nat → W64} {s : State}
    {g : Iss → W64 → W64 → W64 → W64} (he : exec ins s = runIss h op short false f (lanewise g) s)
    (hv : ∀ i l, i.f = f → i.op = op → v i s l = g i (i.va s l) (i.vb s l) (i.vc s l)) : LaneResults ins h op short f v s := by
  intro i p hp
  obtain ⟨hf, ho, -, -⟩ := mkIss_fields hp.operands
  rw [he, runIss_passes hp (s' := i.writeD s (i.eachLane (v i s)))]
  · rfl
  · simp only [lanewise]
    congr 3
    funext l
    exact (hv i l hf ho).symm

/-- A body that traps: the trap is taken on the state before the instruction. -/
theorem traps_of {ins : Instr} {h : Hooks} {op : Nat} {short ctl : Bool} {f : Ext} {body : Iss → State → Res State}
    {c : Iss → State → Prop} {t : Iss → State → Trap} {s : State} (he : exec ins s = runIss h op short ctl f body s)
    (hb : ∀ i, i.f = f → i.op = op → i.agent = s.cur → c i s → body i s = .error (.trap (t i s))) : Traps ins h op short f c t s := by
  intro i p hp hc
  obtain ⟨hf, ho, ha, -⟩ := mkIss_fields hp.operands
  have hn : (f.u && i.eff == 0 && !ctl && i.desc.pred) = false := by
    have := hp.acts
    cases hu : f.u <;> simp_all
  rw [he]
  unfold runIss
  rw [hp.operands]
  simp only [hp.checks, hp.whole, hn, Iss.effect_of_held hp.held, Bind.bind, Except.bind, hb i hf ho ha hc, Iss.finish]
  rfl

end Sys2Proof.Machine
end

