-- ==== Sys2Proof/Laws/Maps.lean ====
section
/-! SUPPORT. Sparse maps and byte memory: reading after writing, and the canonical form that every operation keeps. -/
namespace Sys2Proof.Machine

variable {α : Type}

theorem FMap.find_nil (n : Nat) : FMap.find ([] : FMap α) n = none := rfl

theorem FMap.find_put_same (m : FMap α) (n : Nat) (v : α) : FMap.find (FMap.put m n v) n = some v := by
  induction m with
  | nil => simp [FMap.put, FMap.find]
  | cons h t ih =>
    obtain ⟨k, w⟩ := h
    simp only [FMap.put]
    split
    · simp [FMap.find]
    · split
      · simp [FMap.find]
      · simp [FMap.find, *]

theorem FMap.find_put_other (m : FMap α) {n k : Nat} (v : α) (h : k ≠ n) : FMap.find (FMap.put m n v) k = FMap.find m k := by
  induction m with
  | nil => simp [FMap.put, FMap.find, h]
  | cons x t ih =>
    obtain ⟨j, w⟩ := x
    simp only [FMap.put]
    split
    · simp [FMap.find, h]
    · split
      · next hj => subst hj; simp [FMap.find, h]
      · simp [FMap.find, ih]

theorem FMap.find_put (m : FMap α) (n k : Nat) (v : α) : FMap.find (FMap.put m n v) k = if k = n then some v else FMap.find m k := by
  split
  · next h => subst h; exact FMap.find_put_same m k v
  · next h => exact FMap.find_put_other m v h

@[simp] theorem FMap.at_put_same (d : α) (m : FMap α) (n : Nat) (v : α) : FMap.at d (FMap.put m n v) n = v := by
  simp [FMap.at, FMap.find_put_same]

theorem FMap.at_put_other (d : α) (m : FMap α) {n k : Nat} (v : α) (h : k ≠ n) : FMap.at d (FMap.put m n v) k = FMap.at d m k := by
  simp [FMap.at, FMap.find_put_other m v h]

theorem FMap.find_update_same (m : FMap α) (n : Nat) (f : α → α) : FMap.find (FMap.update m n f) n = (FMap.find m n).map f := by
  unfold FMap.update
  split
  · next v h => simp [FMap.find_put_same, h]
  · next h => simp [h]

theorem FMap.find_update_other (m : FMap α) {n k : Nat} (f : α → α) (h : k ≠ n) : FMap.find (FMap.update m n f) k = FMap.find m k := by
  unfold FMap.update
  split
  · exact FMap.find_put_other m _ h
  · rfl

theorem FMap.find_update (m : FMap α) (n k : Nat) (f : α → α) :
    FMap.find (FMap.update m n f) k = if k = n then (FMap.find m k).map f else FMap.find m k := by
  split
  · next h => subst h; exact FMap.find_update_same m k f
  · next h => exact FMap.find_update_other m f h

/-- Keys that rise from a bound rise from every lower one. -/
theorem FMap.risesFrom_mono {m : FMap α} {a b : Nat} (hab : a ≤ b) (h : FMap.risesFrom b m = true) : FMap.risesFrom a m = true := by
  cases m with
  | nil => rfl
  | cons x t =>
    obtain ⟨k, w⟩ := x
    simp only [FMap.risesFrom, Bool.and_eq_true, decide_eq_true_eq] at *
    exact ⟨Nat.le_trans hab h.1, h.2⟩

theorem FMap.risesFrom_put {m : FMap α} {lo n : Nat} (v : α) (hn : lo ≤ n) (h : FMap.risesFrom lo m = true) :
    FMap.risesFrom lo (FMap.put m n v) = true := by
  induction m generalizing lo with
  | nil => simp [FMap.put, FMap.risesFrom, hn]
  | cons x t ih =>
    obtain ⟨k, w⟩ := x
    simp only [FMap.risesFrom, Bool.and_eq_true, decide_eq_true_eq] at h
    simp only [FMap.put]
    split
    · next hk => simp [FMap.risesFrom, hn, h.2]; omega
    · split
      · next hk => subst hk; simp [FMap.risesFrom, hn, h.2]
      · next h1 h2 => simp [FMap.risesFrom, h.1, ih (by omega : k + 1 ≤ n) h.2]

theorem FMap.risesFrom_del {m : FMap α} {lo n : Nat} (h : FMap.risesFrom lo m = true) : FMap.risesFrom lo (FMap.del m n) = true := by
  induction m generalizing lo with
  | nil => rfl
  | cons x t ih =>
    obtain ⟨k, w⟩ := x
    simp only [FMap.risesFrom, Bool.and_eq_true, decide_eq_true_eq] at h
    simp only [FMap.del]
    split
    · exact FMap.risesFrom_mono (by omega) h.2
    · simp [FMap.risesFrom, h.1, ih h.2]

/-- In a map whose keys rise from a bound, no lower key is listed. -/
theorem FMap.find_low {m : FMap α} {lo n : Nat} (h : FMap.risesFrom lo m = true) (hn : n < lo) : FMap.find m n = none := by
  induction m generalizing lo with
  | nil => rfl
  | cons x t ih =>
    obtain ⟨k, w⟩ := x
    simp only [FMap.risesFrom, Bool.and_eq_true, decide_eq_true_eq] at h
    simp only [FMap.find]
    split
    · omega
    · exact ih h.2 (by omega)

theorem FMap.find_del_same {m : FMap α} {lo : Nat} (n : Nat) (h : FMap.risesFrom lo m = true) : FMap.find (FMap.del m n) n = none := by
  induction m generalizing lo with
  | nil => rfl
  | cons x t ih =>
    obtain ⟨k, w⟩ := x
    simp only [FMap.risesFrom, Bool.and_eq_true, decide_eq_true_eq] at h
    simp only [FMap.del]
    split
    · next hk => subst hk; exact FMap.find_low h.2 (by omega)
    · next hk => simp [FMap.find, hk, ih h.2]

theorem FMap.find_del_other (m : FMap α) {n k : Nat} (h : k ≠ n) : FMap.find (FMap.del m n) k = FMap.find m k := by
  induction m with
  | nil => rfl
  | cons x t ih =>
    obtain ⟨j, w⟩ := x
    simp only [FMap.del]
    split
    · next hj => subst hj; simp [FMap.find, h]
    · simp [FMap.find, ih]

/-! Memory -/

theorem FMap.mem_put {m : FMap α} {n : Nat} {v : α} {c : Nat × α} (h : c ∈ FMap.put m n v) : c = (n, v) ∨ c ∈ m := by
  induction m with
  | nil => simpa [FMap.put] using h
  | cons x t ih =>
    obtain ⟨k, w⟩ := x
    simp only [FMap.put] at h
    split at h
    · simpa using h
    · split at h
      · rcases List.mem_cons.mp h with h | h
        · exact .inl h
        · exact .inr (List.mem_cons_of_mem _ h)
      · rcases List.mem_cons.mp h with h | h
        · exact .inr (by simp [h])
        · rcases ih h with h | h
          · exact .inl h
          · exact .inr (List.mem_cons_of_mem _ h)

theorem FMap.mem_del {m : FMap α} {n : Nat} {c : Nat × α} (h : c ∈ FMap.del m n) : c ∈ m := by
  induction m with
  | nil => simp [FMap.del] at h
  | cons x t ih =>
    obtain ⟨k, w⟩ := x
    simp only [FMap.del] at h
    split at h
    · exact List.mem_cons_of_mem _ h
    · rcases List.mem_cons.mp h with h | h
      · simp [h]
      · exact List.mem_cons_of_mem _ (ih h)

theorem Mem.wf_iff (m : Mem) : m.wf = true ↔ FMap.wf m = true ∧ ∀ c ∈ m, c.2 ≠ Mem.blank := by
  simp [Mem.wf]

/-- The empty memory is canonical. -/
theorem Mem.wf_nil : Mem.wf [] = true := rfl

/-- Writing a byte keeps the canonical form. -/
theorem Mem.wf_write {m : Mem} (a : Nat) (b : Byte) (h : m.wf = true) : (m.write a b).wf = true := by
  rw [Mem.wf_iff] at *
  unfold Mem.write
  split
  · exact ⟨FMap.risesFrom_del h.1, fun c hc => h.2 c (FMap.mem_del hc)⟩
  · next hb =>
    refine ⟨FMap.risesFrom_put b (Nat.zero_le _) h.1, fun c hc => ?_⟩
    rcases FMap.mem_put hc with rfl | hc
    · exact hb
    · exact h.2 c hc

/-- Reading the byte written gives it back. -/
theorem Mem.read_write_same {m : Mem} (a : Nat) (b : Byte) (h : m.wf = true) : (m.write a b).read a = b := by
  rw [Mem.wf_iff] at h
  unfold Mem.write Mem.read
  split
  · next hb => simp [FMap.at, FMap.find_del_same a h.1, hb]
  · simp

/-- Writing a byte leaves every other byte. -/
theorem Mem.read_write_other (m : Mem) {a k : Nat} (b : Byte) (hk : k ≠ a) : (m.write a b).read k = m.read k := by
  unfold Mem.write Mem.read
  split
  · simp [FMap.at, FMap.find_del_other m hk]
  · exact FMap.at_put_other _ m b hk

theorem Mem.wf_writeBytes {m : Mem} (a : Nat) (bs : List Byte) (h : m.wf = true) : (m.writeBytes a bs).wf = true := by
  induction bs generalizing m a with
  | nil => exact h
  | cons b bs ih => exact ih (a + 1) (Mem.wf_write a b h)

/-- Storing bytes leaves every byte outside their range. -/
theorem Mem.read_writeBytes_other (m : Mem) (a : Nat) (bs : List Byte) {k : Nat} (hk : k < a ∨ a + bs.length ≤ k) :
    (m.writeBytes a bs).read k = m.read k := by
  induction bs generalizing m a with
  | nil => rfl
  | cons b bs ih =>
    simp only [List.length_cons] at hk
    rw [Mem.writeBytes, ih (m.write a b) (a + 1) (by omega), Mem.read_write_other m b (by omega)]

theorem Mem.wf_writeNat {m : Mem} (a n v : Nat) (h : m.wf = true) : (m.writeNat a n v).wf = true := by
  induction n generalizing m a v with
  | zero => exact h
  | succ n ih => exact ih (a + 1) (v / 256) (Mem.wf_write a _ h)

/-- Storing a number leaves every byte outside its range. -/
theorem Mem.read_writeNat_other (m : Mem) (a n v : Nat) {k : Nat} (hk : k < a ∨ a + n ≤ k) : (m.writeNat a n v).read k = m.read k := by
  induction n generalizing m a v with
  | zero => rfl
  | succ n ih =>
    rw [Mem.writeNat, ih (m.write a _) (a + 1) (v / 256) (by omega), Mem.read_write_other m _ (by omega)]

theorem Mem.wf_write64 {m : Mem} (a : Nat) (v : W64) (h : m.wf = true) : (m.write64 a v).wf = true := Mem.wf_writeNat a 8 _ h

theorem FMap.risesFrom_filter {m : FMap α} {lo : Nat} (p : Nat × α → Bool) (h : FMap.risesFrom lo m = true) :
    FMap.risesFrom lo (m.filter p) = true := by
  induction m generalizing lo with
  | nil => rfl
  | cons x t ih =>
    obtain ⟨k, w⟩ := x
    simp only [FMap.risesFrom, Bool.and_eq_true, decide_eq_true_eq] at h
    simp only [List.filter]
    split
    · simp [FMap.risesFrom, h.1, ih h.2]
    · exact FMap.risesFrom_mono (by omega) (ih h.2)

/-- Dropping bytes keeps the canonical form. -/
theorem Mem.wf_filter {m : Mem} (p : Host.Cell → Bool) (h : m.wf = true) : Mem.wf (m.filter p) = true := by
  rw [Mem.wf_iff] at *
  exact ⟨FMap.risesFrom_filter p h.1, fun c hc => h.2 c (List.mem_filter.mp hc).1⟩

theorem Mem.wf_clear {m : Mem} (a n : Nat) (h : m.wf = true) : (m.clear a n).wf = true := Mem.wf_filter _ h

/-- Reading the number stored gives it back. -/
theorem Mem.readNat_writeNat {m : Mem} (a n v : Nat) (h : m.wf = true) (hv : v < 256 ^ n) : (m.writeNat a n v).readNat a n = v := by
  induction n generalizing m a v with
  | zero => simp only [Mem.readNat, Nat.pow_zero] at *; omega
  | succ n ih =>
    have hw := Mem.wf_write a (BitVec.ofNat 8 v) h
    rw [Mem.writeNat, Mem.readNat, ih (a + 1) (v / 256) hw (by rw [Nat.pow_succ] at hv; omega),
      Mem.read_writeNat_other _ _ _ _ (by omega), Mem.read_write_same a _ h]
    simp only [BitVec.toNat_ofNat]
    omega

/-- Reading the bytes stored gives them back. -/
theorem Mem.readBytes_writeBytes {m : Mem} (a : Nat) (bs : List Byte) (h : m.wf = true) :
    (m.writeBytes a bs).readBytes a bs.length = bs := by
  induction bs generalizing m a with
  | nil => rfl
  | cons b bs ih =>
    have hw := Mem.wf_write a b h
    rw [Mem.writeBytes, List.length_cons, Mem.readBytes, ih (a + 1) hw, Mem.read_writeBytes_other _ _ _ (by omega),
      Mem.read_write_same a b h]

end Sys2Proof.Machine
end

