-- ==== Sys2Proof/Laws/PerInstr.lean ====
section
/-! SUPPORT. Facts about each instruction as syntax, one lemma per constructor. -/
namespace Sys2Proof.Laws.Words

open Sys2Proof Sys2Proof.Machine

/-- A step of the part has no words; the words of a program instruction, whatever follows them, are read as its form, opcode and fields
(R115, R117, R119, R121). -/
def Statement (i : Instr) : Prop :=
  match encOf i with
  | some e => ∀ rest, encIn (encode i ++ rest) = some e
  | none => encode i = []

theorem nopShort (f : Short) : Statement (.nopShort f) := fun rest => encIn_shortWords _ f rest
theorem nopExt (f : Ext) : Statement (.nopExt f) := fun rest => encIn_extWords _ f rest
theorem bra (f : Ext) : Statement (.bra f) := fun rest => encIn_extWords _ f rest
theorem brd (f : Ext) : Statement (.brd f) := fun rest => encIn_extWords _ f rest
theorem brx (f : Ext) : Statement (.brx f) := fun rest => encIn_extWords _ f rest
theorem call (f : Ext) : Statement (.call f) := fun rest => encIn_extWords _ f rest
theorem ret (f : Ext) : Statement (.ret f) := fun rest => encIn_extWords _ f rest
theorem mjoin (f : Ext) : Statement (.mjoin f) := fun rest => encIn_extWords _ f rest
theorem joinShort (f : Short) : Statement (.joinShort f) := fun rest => encIn_shortWords _ f rest
theorem joinExt (f : Ext) : Statement (.joinExt f) := fun rest => encIn_extWords _ f rest
theorem exitShort (f : Short) : Statement (.exitShort f) := fun rest => encIn_shortWords _ f rest
theorem exitExt (f : Ext) : Statement (.exitExt f) := fun rest => encIn_extWords _ f rest
theorem yieldShort (f : Short) : Statement (.yieldShort f) := fun rest => encIn_shortWords _ f rest
theorem yieldExt (f : Ext) : Statement (.yieldExt f) := fun rest => encIn_extWords _ f rest
theorem yieldExpiry (a : Agent) : Statement (.yieldExpiry a) := rfl
theorem setfmt (f : Ext) : Statement (.setfmt f) := fun rest => encIn_extWords _ f rest
theorem getfmt (f : Ext) : Statement (.getfmt f) := fun rest => encIn_extWords _ f rest
theorem trap (f : Ext) : Statement (.trap f) := fun rest => encIn_extWords _ f rest
theorem tret (f : Ext) : Statement (.tret f) := fun rest => encIn_extWords _ f rest
theorem sreg (f : Ext) : Statement (.sreg f) := fun rest => encIn_extWords _ f rest
theorem nap (f : Ext) : Statement (.nap f) := fun rest => encIn_extWords _ f rest
theorem napExpiry (a : Agent) : Statement (.napExpiry a) := rfl
theorem movShort (f : Short) : Statement (.movShort f) := fun rest => encIn_shortWords _ f rest
theorem movExt (f : Ext) : Statement (.movExt f) := fun rest => encIn_extWords _ f rest
theorem sel (f : Ext) : Statement (.sel f) := fun rest => encIn_extWords _ f rest
theorem addShort (f : Short) : Statement (.addShort f) := fun rest => encIn_shortWords _ f rest
theorem addExt (f : Ext) : Statement (.addExt f) := fun rest => encIn_extWords _ f rest
theorem subShort (f : Short) : Statement (.subShort f) := fun rest => encIn_shortWords _ f rest
theorem subExt (f : Ext) : Statement (.subExt f) := fun rest => encIn_extWords _ f rest
theorem mulShort (f : Short) : Statement (.mulShort f) := fun rest => encIn_shortWords _ f rest
theorem mulExt (f : Ext) : Statement (.mulExt f) := fun rest => encIn_extWords _ f rest
theorem mulh (f : Ext) : Statement (.mulh f) := fun rest => encIn_extWords _ f rest
theorem mad (f : Ext) : Statement (.mad f) := fun rest => encIn_extWords _ f rest
theorem div (f : Ext) : Statement (.div f) := fun rest => encIn_extWords _ f rest
theorem rem (f : Ext) : Statement (.rem f) := fun rest => encIn_extWords _ f rest
theorem minShort (f : Short) : Statement (.minShort f) := fun rest => encIn_shortWords _ f rest
theorem minExt (f : Ext) : Statement (.minExt f) := fun rest => encIn_extWords _ f rest
theorem maxShort (f : Short) : Statement (.maxShort f) := fun rest => encIn_shortWords _ f rest
theorem maxExt (f : Ext) : Statement (.maxExt f) := fun rest => encIn_extWords _ f rest
theorem abs (f : Ext) : Statement (.abs f) := fun rest => encIn_extWords _ f rest
theorem neg (f : Ext) : Statement (.neg f) := fun rest => encIn_extWords _ f rest
theorem andShort (f : Short) : Statement (.andShort f) := fun rest => encIn_shortWords _ f rest
theorem andExt (f : Ext) : Statement (.andExt f) := fun rest => encIn_extWords _ f rest
theorem orShort (f : Short) : Statement (.orShort f) := fun rest => encIn_shortWords _ f rest
theorem orExt (f : Ext) : Statement (.orExt f) := fun rest => encIn_extWords _ f rest
theorem xorShort (f : Short) : Statement (.xorShort f) := fun rest => encIn_shortWords _ f rest
theorem xorExt (f : Ext) : Statement (.xorExt f) := fun rest => encIn_extWords _ f rest
theorem andn (f : Ext) : Statement (.andn f) := fun rest => encIn_extWords _ f rest
theorem not (f : Ext) : Statement (.not f) := fun rest => encIn_extWords _ f rest
theorem shlShort (f : Short) : Statement (.shlShort f) := fun rest => encIn_shortWords _ f rest
theorem shlExt (f : Ext) : Statement (.shlExt f) := fun rest => encIn_extWords _ f rest
theorem shrShort (f : Short) : Statement (.shrShort f) := fun rest => encIn_shortWords _ f rest
theorem shrExt (f : Ext) : Statement (.shrExt f) := fun rest => encIn_extWords _ f rest
theorem sarShort (f : Short) : Statement (.sarShort f) := fun rest => encIn_shortWords _ f rest
theorem sarExt (f : Ext) : Statement (.sarExt f) := fun rest => encIn_extWords _ f rest
theorem rot (f : Ext) : Statement (.rot f) := fun rest => encIn_extWords _ f rest
theorem bfe (f : Ext) : Statement (.bfe f) := fun rest => encIn_extWords _ f rest
theorem bfi (f : Ext) : Statement (.bfi f) := fun rest => encIn_extWords _ f rest
theorem bit (f : Ext) : Statement (.bit f) := fun rest => encIn_extWords _ f rest
theorem cmp (f : Ext) : Statement (.cmp f) := fun rest => encIn_extWords _ f rest
theorem lea (f : Ext) : Statement (.lea f) := fun rest => encIn_extWords _ f rest
theorem cvt (f : Ext) : Statement (.cvt f) := fun rest => encIn_extWords _ f rest
theorem shfl (f : Ext) : Statement (.shfl f) := fun rest => encIn_extWords _ f rest
theorem vote (f : Ext) : Statement (.vote f) := fun rest => encIn_extWords _ f rest
theorem redg (f : Ext) : Statement (.redg f) := fun rest => encIn_extWords _ f rest
theorem scan (f : Ext) : Statement (.scan f) := fun rest => encIn_extWords _ f rest
theorem mop (f : Ext) : Statement (.mop f) := fun rest => encIn_extWords _ f rest
theorem faddShort (f : Short) : Statement (.faddShort f) := fun rest => encIn_shortWords _ f rest
theorem faddExt (f : Ext) : Statement (.faddExt f) := fun rest => encIn_extWords _ f rest
theorem fsubShort (f : Short) : Statement (.fsubShort f) := fun rest => encIn_shortWords _ f rest
theorem fsubExt (f : Ext) : Statement (.fsubExt f) := fun rest => encIn_extWords _ f rest
theorem fmulShort (f : Short) : Statement (.fmulShort f) := fun rest => encIn_shortWords _ f rest
theorem fmulExt (f : Ext) : Statement (.fmulExt f) := fun rest => encIn_extWords _ f rest
theorem fma (f : Ext) : Statement (.fma f) := fun rest => encIn_extWords _ f rest
theorem fminShort (f : Short) : Statement (.fminShort f) := fun rest => encIn_shortWords _ f rest
theorem fminExt (f : Ext) : Statement (.fminExt f) := fun rest => encIn_extWords _ f rest
theorem fmaxShort (f : Short) : Statement (.fmaxShort f) := fun rest => encIn_shortWords _ f rest
theorem fmaxExt (f : Ext) : Statement (.fmaxExt f) := fun rest => encIn_extWords _ f rest
theorem fcmp (f : Ext) : Statement (.fcmp f) := fun rest => encIn_extWords _ f rest
theorem fdiv (f : Ext) : Statement (.fdiv f) := fun rest => encIn_extWords _ f rest
theorem fsqrt (f : Ext) : Statement (.fsqrt f) := fun rest => encIn_extWords _ f rest
theorem rcpa (f : Ext) : Statement (.rcpa f) := fun rest => encIn_extWords _ f rest
theorem rsqa (f : Ext) : Statement (.rsqa f) := fun rest => encIn_extWords _ f rest
theorem exp2a (f : Ext) : Statement (.exp2a f) := fun rest => encIn_extWords _ f rest
theorem log2a (f : Ext) : Statement (.log2a f) := fun rest => encIn_extWords _ f rest
theorem sina (f : Ext) : Statement (.sina f) := fun rest => encIn_extWords _ f rest
theorem cosa (f : Ext) : Statement (.cosa f) := fun rest => encIn_extWords _ f rest
theorem frnd (f : Ext) : Statement (.frnd f) := fun rest => encIn_extWords _ f rest
theorem fcls (f : Ext) : Statement (.fcls f) := fun rest => encIn_extWords _ f rest
theorem dot2 (f : Ext) : Statement (.dot2 f) := fun rest => encIn_extWords _ f rest
theorem fscl (f : Ext) : Statement (.fscl f) := fun rest => encIn_extWords _ f rest
theorem rnc (f : Ext) : Statement (.rnc f) := fun rest => encIn_extWords _ f rest
theorem rnx (f : Ext) : Statement (.rnx f) := fun rest => encIn_extWords _ f rest
theorem rnmad (f : Ext) : Statement (.rnmad f) := fun rest => encIn_extWords _ f rest
theorem pln (f : Ext) : Statement (.pln f) := fun rest => encIn_extWords _ f rest
theorem upl (f : Ext) : Statement (.upl f) := fun rest => encIn_extWords _ f rest
theorem pldot (f : Ext) : Statement (.pldot f) := fun rest => encIn_extWords _ f rest
theorem ldShort (f : Short) : Statement (.ldShort f) := fun rest => encIn_shortWords _ f rest
theorem ldExt (f : Ext) : Statement (.ldExt f) := fun rest => encIn_extWords _ f rest
theorem stShort (f : Short) : Statement (.stShort f) := fun rest => encIn_shortWords _ f rest
theorem stExt (f : Ext) : Statement (.stExt f) := fun rest => encIn_extWords _ f rest
theorem ldlShort (f : Short) : Statement (.ldlShort f) := fun rest => encIn_shortWords _ f rest
theorem ldlExt (f : Ext) : Statement (.ldlExt f) := fun rest => encIn_extWords _ f rest
theorem stlShort (f : Short) : Statement (.stlShort f) := fun rest => encIn_shortWords _ f rest
theorem stlExt (f : Ext) : Statement (.stlExt f) := fun rest => encIn_extWords _ f rest
theorem ldc (f : Ext) : Statement (.ldc f) := fun rest => encIn_extWords _ f rest
theorem smp (f : Ext) : Statement (.smp f) := fun rest => encIn_extWords _ f rest
theorem ldt (f : Ext) : Statement (.ldt f) := fun rest => encIn_extWords _ f rest
theorem stt (f : Ext) : Statement (.stt f) := fun rest => encIn_extWords _ f rest
theorem pref (f : Ext) : Statement (.pref f) := fun rest => encIn_extWords _ f rest
theorem atom (f : Ext) : Statement (.atom f) := fun rest => encIn_extWords _ f rest
theorem red (f : Ext) : Statement (.red f) := fun rest => encIn_extWords _ f rest
theorem fence (f : Ext) : Statement (.fence f) := fun rest => encIn_extWords _ f rest
theorem pfence (f : Ext) : Statement (.pfence f) := fun rest => encIn_extWords _ f rest
theorem cmap (f : Ext) : Statement (.cmap f) := fun rest => encIn_extWords _ f rest
theorem cunmap (f : Ext) : Statement (.cunmap f) := fun rest => encIn_extWords _ f rest
theorem cflush (f : Ext) : Statement (.cflush f) := fun rest => encIn_extWords _ f rest
theorem binit (f : Ext) : Statement (.binit f) := fun rest => encIn_extWords _ f rest
theorem arrive (f : Ext) : Statement (.arrive f) := fun rest => encIn_extWords _ f rest
theorem waitb (f : Ext) : Statement (.waitb f) := fun rest => encIn_extWords _ f rest
theorem waitbWake (a : Agent) : Statement (.waitbWake a) := rfl
theorem drain (f : Ext) : Statement (.drain f) := fun rest => encIn_extWords _ f rest
theorem pin (f : Ext) : Statement (.pin f) := fun rest => encIn_extWords _ f rest
theorem unpin (f : Ext) : Statement (.unpin f) := fun rest => encIn_extWords _ f rest
theorem reclaim (f : Ext) : Statement (.reclaim f) := fun rest => encIn_extWords _ f rest
theorem cpy (f : Ext) : Statement (.cpy f) := fun rest => encIn_extWords _ f rest
theorem cpyY (f : Ext) : Statement (.cpyY f) := fun rest => encIn_extWords _ f rest
theorem cpyYReactivate (a : Agent) : Statement (.cpyYReactivate a) := rfl
theorem gth (f : Ext) : Statement (.gth f) := fun rest => encIn_extWords _ f rest
theorem sct (f : Ext) : Statement (.sct f) := fun rest => encIn_extWords _ f rest
theorem kick (f : Ext) : Statement (.kick f) := fun rest => encIn_extWords _ f rest
theorem requestEntryStart (kick : Nat) : Statement (.requestEntryStart kick) := rfl
theorem requestEntryComplete (op : Nat) : Statement (.requestEntryComplete op) := rfl
theorem waitc (f : Ext) : Statement (.waitc f) := fun rest => encIn_extWords _ f rest
theorem empty (f : Ext) : Statement (.empty f) := fun rest => encIn_extWords _ f rest
theorem spawn (f : Ext) : Statement (.spawn f) := fun rest => encIn_extWords _ f rest
theorem spawnEnqueue (op : Nat) : Statement (.spawnEnqueue op) := rfl
theorem setom (f : Ext) : Statement (.setom f) := fun rest => encIn_extWords _ f rest
theorem mldb (f : Ext) : Statement (.mldb f) := fun rest => encIn_extWords _ f rest
theorem mma (f : Ext) : Statement (.mma f) := fun rest => encIn_extWords _ f rest
theorem mzero (f : Ext) : Statement (.mzero f) := fun rest => encIn_extWords _ f rest
theorem mdrain (f : Ext) : Statement (.mdrain f) := fun rest => encIn_extWords _ f rest
theorem mscale (f : Ext) : Statement (.mscale f) := fun rest => encIn_extWords _ f rest
theorem setrp (f : Ext) : Statement (.setrp f) := fun rest => encIn_extWords _ f rest
theorem setcp (f : Ext) : Statement (.setcp f) := fun rest => encIn_extWords _ f rest
theorem sfmt (f : Ext) : Statement (.sfmt f) := fun rest => encIn_extWords _ f rest
theorem matrixOpStart (core : Nat) : Statement (.matrixOpStart core) := rfl
theorem guardRelease (op : Nat) : Statement (.guardRelease op) := rfl
theorem matrixOpComplete (op : Nat) : Statement (.matrixOpComplete op) := rfl
theorem vest (f : Ext) : Statement (.vest f) := fun rest => encIn_extWords _ f rest
theorem vbound (f : Ext) : Statement (.vbound f) := fun rest => encIn_extWords _ f rest
theorem vcost (f : Ext) : Statement (.vcost f) := fun rest => encIn_extWords _ f rest
theorem vprobe (f : Ext) : Statement (.vprobe f) := fun rest => encIn_extWords _ f rest
theorem vpol (f : Ext) : Statement (.vpol f) := fun rest => encIn_extWords _ f rest
theorem rld (f : Ext) : Statement (.rld f) := fun rest => encIn_extWords _ f rest
theorem rst (f : Ext) : Statement (.rst f) := fun rest => encIn_extWords _ f rest
theorem ratom (f : Ext) : Statement (.ratom f) := fun rest => encIn_extWords _ f rest
theorem coll (f : Ext) : Statement (.coll f) := fun rest => encIn_extWords _ f rest
theorem sysr (f : Ext) : Statement (.sysr f) := fun rest => encIn_extWords _ f rest
theorem sysw (f : Ext) : Statement (.sysw f) := fun rest => encIn_extWords _ f rest
theorem mapf (f : Ext) : Statement (.mapf f) := fun rest => encIn_extWords _ f rest
theorem fltr (f : Ext) : Statement (.fltr f) := fun rest => encIn_extWords _ f rest
theorem cnt (f : Ext) : Statement (.cnt f) := fun rest => encIn_extWords _ f rest
theorem dbg (f : Ext) : Statement (.dbg f) := fun rest => encIn_extWords _ f rest
theorem loadDataArrival (op : Nat) : Statement (.loadDataArrival op) := rfl
theorem storeAck (a : Agent) : Statement (.storeAck a) := rfl
theorem refillComplete (op : OpReport) : Statement (.refillComplete op) := rfl
theorem spillWrite (g row : Nat) (ok : Bool) : Statement (.spillWrite g row ok) := rfl
theorem regionFillComplete (team region line : Nat) : Statement (.regionFillComplete team region line) := rfl
theorem copyBytesLanded (op : Nat) : Statement (.copyBytesLanded op) := rfl
theorem copyRetire (op : Nat) : Statement (.copyRetire op) := rfl
theorem gatherRetire (op : Nat) : Statement (.gatherRetire op) := rfl
theorem windowWriteLand (op : Nat) : Statement (.windowWriteLand op) := rfl
theorem engineFaultPark (op : Nat) : Statement (.engineFaultPark op) := rfl
theorem engineErrorRetire (op : Nat) : Statement (.engineErrorRetire op) := rfl
theorem groupEnd (g : Nat) : Statement (.groupEnd g) := rfl
theorem dispatcherVisit : Statement (.dispatcherVisit) := rfl
theorem teamAdmit (ctx : Nat) : Statement (.teamAdmit ctx) := rfl
theorem compactStart (team : Nat) : Statement (.compactStart team) := rfl
theorem compactSwap (team : Nat) : Statement (.compactSwap team) := rfl
theorem quiescence (core : Nat) : Statement (.quiescence core) := rfl
theorem stallLimit (a : Agent) : Statement (.stallLimit a) := rfl
theorem vacate (ctx : Nat) (pairs : List Nat) : Statement (.vacate ctx pairs) := rfl
theorem recallPair (pair : Nat) : Statement (.recallPair pair) := rfl
theorem drainComplete (core : Nat) : Statement (.drainComplete core) := rfl
theorem saveComplete (core : Nat) (lost : List LostItem) : Statement (.saveComplete core lost) := rfl
theorem vacateCommit (ctx : Nat) : Statement (.vacateCommit ctx) := rfl
theorem create (ctx owner : Nat) : Statement (.create ctx owner) := rfl
theorem assign (ctx : Nat) (pairs : List Nat) (nowait : Bool) : Statement (.assign ctx pairs nowait) := rfl
theorem restoreComplete (ctx : Nat) : Statement (.restoreComplete ctx) := rfl
theorem release (ctx : Nat) : Statement (.release ctx) := rfl
theorem zeroingComplete (ctx : Nat) (failed : List Nat) : Statement (.zeroingComplete ctx failed) := rfl
theorem exportImage (ctx : Nat) : Statement (.exportImage ctx) := rfl
theorem imageImport (image : NativeImage) : Statement (.imageImport image) := rfl
theorem driverReplay (ctx : Nat) (record : Option Nat) : Statement (.driverReplay ctx record) := rfl
theorem driverCancel (ctx : Nat) (record : Option Nat) : Statement (.driverCancel ctx record) := rfl
theorem translationInvalidate (ctx : Nat) : Statement (.translationInvalidate ctx) := rfl
theorem frameTest (frame : Nat) (pass : Bool) : Statement (.frameTest frame pass) := rfl
theorem selfTest (pair : Nat) (pass : Bool) : Statement (.selfTest pair pass) := rfl
theorem usageReport (owner : Nat) (nonce : List Byte) : Statement (.usageReport owner nonce) := rfl
theorem boundWrite (ctx : Nat) (value : W64) : Statement (.boundWrite ctx value) := rfl
theorem sliceWrite (pair : Nat) (value : W64) : Statement (.sliceWrite pair value) := rfl
theorem qcfgWrite (queue : Nat) (value : W64) : Statement (.qcfgWrite queue value) := rfl
theorem qtailWrite (queue : Nat) (value : W64) : Statement (.qtailWrite queue value) := rfl
theorem l2ModeWrite (mode : L2Mode) : Statement (.l2ModeWrite mode) := rfl
theorem registerWrite (r : MgmtReg) (value : W64) : Statement (.registerWrite r value) := rfl
theorem hvResourceTake (r : HvResource) : Statement (.hvResourceTake r) := rfl
theorem hvResourceFree (r : HvResource) : Statement (.hvResourceFree r) := rfl
theorem traceUnitArm (unit : Nat) (conf : TraceUnit) : Statement (.traceUnitArm unit conf) := rfl
theorem triggerFire (source : Nat) (value : W64) : Statement (.triggerFire source value) := rfl
theorem breakArm (ctx : Nat) (on : Bool) : Statement (.breakArm ctx on) := rfl
theorem debugResume (ctx : Nat) : Statement (.debugResume ctx) := rfl
theorem research : Statement (.research) := rfl
theorem freedRingPush (ctx : Nat) : Statement (.freedRingPush ctx) := rfl
theorem remoteRequestReceive (r : RemoteReq) : Statement (.remoteRequestReceive r) := rfl
theorem remoteReply (op : Nat) (r : RemoteReply) : Statement (.remoteReply op r) := rfl
theorem replayNotice (n : LogNotice) (failed : Bool) : Statement (.replayNotice n failed) := rfl
theorem remoteTimeout (op : Nat) : Statement (.remoteTimeout op) := rfl
theorem collStepStart (op : OpReport) : Statement (.collStepStart op) := rfl
theorem collStepComplete (op : Nat) (a : StepAnswer) (data : List Byte) : Statement (.collStepComplete op a data) := rfl
theorem receiveReduce (op : Nat) (h : CollHeader) (off : Nat) (data : List Byte) : Statement (.receiveReduce op h off data) := rfl
theorem innetRequest (op : Nat) (granted : Bool) : Statement (.innetRequest op granted) := rfl
theorem collTimeout (op : Nat) : Statement (.collTimeout op) := rfl
theorem portDown (port : Nat) : Statement (.portDown port) := rfl
theorem flitCrcError (port : Nat) : Statement (.flitCrcError port) := rfl
theorem launchFrame (src : BitVec 128) (port : Nat) (payload : List Byte) : Statement (.launchFrame src port payload) := rfl
theorem coldReset (readOk : Bool) (devid : BitVec 9) (firmware : W64) : Statement (.coldReset readOk devid firmware) := rfl
theorem warmReset (readOk : Bool) (devid : BitVec 9) (firmware : W64) : Statement (.warmReset readOk devid firmware) := rfl
theorem recoveryImage (image : List Byte) : Statement (.recoveryImage image) := rfl
theorem thermalSample (readings : List Reading) : Statement (.thermalSample readings) := rfl
theorem dieRestart (die : Nat) : Statement (.dieRestart die) := rfl
theorem eccError (e : EccEvent) : Statement (.eccError e) := rfl
theorem mapfCompletion (op : Nat) : Statement (.mapfCompletion op) := rfl
theorem pinSearchComplete (op : Nat) : Statement (.pinSearchComplete op) := rfl
theorem ownerDeficitDebit (owner : Nat) : Statement (.ownerDeficitDebit owner) := rfl
theorem powerLoss (keep : Nat) : Statement (.powerLoss keep) := rfl
theorem portRetrain (port : Nat) : Statement (.portRetrain port) := rfl
theorem logBufferReplay (seq : Nat) (discard : Bool) : Statement (.logBufferReplay seq discard) := rfl
theorem shareGroupRelease (grp : Nat) : Statement (.shareGroupRelease grp) := rfl
theorem l2WritebackComplete : Statement (.l2WritebackComplete) := rfl
theorem drainChargeElapsed (op : Nat) : Statement (.drainChargeElapsed op) := rfl

end Sys2Proof.Laws.Words
end

