-- ==== Sys2Proof/Laws/State.lean ====
section
/-! SUPPORT. What each update of the state leaves alone, one lemma per field and update, and what it makes of the entry that it changes. -/
namespace Sys2Proof.Machine

open Sys2Proof

variable (s : State) (n m k j : Nat) (a : Agent) (v w : W64) (G : Group) (T : Thread) (O : Op)
variable (fG : Group → Group) (fT : Thread → Thread) (fC : Core → Core) (fX : Context → Context) (fM : Team → Team) (fL : Launch → Launch)
variable (fO : Op → Op) (fH : Hub → Hub) (fQ : Queue → Queue) (fW : Owner → Owner) (fS : Slot → Slot) (fA : AgentState → AgentState)

@[simp] theorem State.setGroup_now : (s.setGroup n G).now = s.now := rfl
@[simp] theorem State.setGroup_checked : (s.setGroup n G).checked = s.checked := rfl
@[simp] theorem State.setGroup_cur : (s.setGroup n G).cur = s.cur := rfl
@[simp] theorem State.setGroup_agenda : (s.setGroup n G).agenda = s.agenda := rfl
@[simp] theorem State.setGroup_free : (s.setGroup n G).free = s.free := rfl
@[simp] theorem State.setGroup_nextId : (s.setGroup n G).nextId = s.nextId := rfl
@[simp] theorem State.setGroup_mem : (s.setGroup n G).mem = s.mem := rfl
@[simp] theorem State.setGroup_poison : (s.setGroup n G).poison = s.poison := rfl
@[simp] theorem State.setGroup_rewrites : (s.setGroup n G).rewrites = s.rewrites := rfl
@[simp] theorem State.setGroup_stamps : (s.setGroup n G).stamps = s.stamps := rfl
@[simp] theorem State.setGroup_epochs : (s.setGroup n G).epochs = s.epochs := rfl
@[simp] theorem State.setGroup_scMarks : (s.setGroup n G).scMarks = s.scMarks := rfl
@[simp] theorem State.setGroup_marks : (s.setGroup n G).marks = s.marks := rfl
@[simp] theorem State.setGroup_l2 : (s.setGroup n G).l2 = s.l2 := rfl
@[simp] theorem State.setGroup_caches : (s.setGroup n G).caches = s.caches := rfl
@[simp] theorem State.setGroup_icache : (s.setGroup n G).icache = s.icache := rfl
@[simp] theorem State.setGroup_partials : (s.setGroup n G).partials = s.partials := rfl
@[simp] theorem State.setGroup_tlb : (s.setGroup n G).tlb = s.tlb := rfl
@[simp] theorem State.setGroup_clm : (s.setGroup n G).clm = s.clm := rfl
@[simp] theorem State.setGroup_dirty : (s.setGroup n G).dirty = s.dirty := rfl
@[simp] theorem State.setGroup_copied : (s.setGroup n G).copied = s.copied := rfl
@[simp] theorem State.setGroup_lost : (s.setGroup n G).lost = s.lost := rfl
@[simp] theorem State.setGroup_banks : (s.setGroup n G).banks = s.banks := rfl
@[simp] theorem State.setGroup_bankBusy : (s.setGroup n G).bankBusy = s.bankBusy := rfl
@[simp] theorem State.setGroup_macros : (s.setGroup n G).macros = s.macros := rfl
@[simp] theorem State.setGroup_shadow : (s.setGroup n G).shadow = s.shadow := rfl
@[simp] theorem State.setGroup_threads : (s.setGroup n G).threads = s.threads := rfl
@[simp] theorem State.setGroup_cores : (s.setGroup n G).cores = s.cores := rfl
@[simp] theorem State.setGroup_teams : (s.setGroup n G).teams = s.teams := rfl
@[simp] theorem State.setGroup_launches : (s.setGroup n G).launches = s.launches := rfl
@[simp] theorem State.setGroup_ctxs : (s.setGroup n G).ctxs = s.ctxs := rfl
@[simp] theorem State.setGroup_queues : (s.setGroup n G).queues = s.queues := rfl
@[simp] theorem State.setGroup_owners : (s.setGroup n G).owners = s.owners := rfl
@[simp] theorem State.setGroup_ops : (s.setGroup n G).ops = s.ops := rfl
@[simp] theorem State.setGroup_compactions : (s.setGroup n G).compactions = s.compactions := rfl
@[simp] theorem State.setGroup_hub : (s.setGroup n G).hub = s.hub := rfl

@[simp] theorem State.setThread_now : (s.setThread n T).now = s.now := rfl
@[simp] theorem State.setThread_checked : (s.setThread n T).checked = s.checked := rfl
@[simp] theorem State.setThread_cur : (s.setThread n T).cur = s.cur := rfl
@[simp] theorem State.setThread_agenda : (s.setThread n T).agenda = s.agenda := rfl
@[simp] theorem State.setThread_free : (s.setThread n T).free = s.free := rfl
@[simp] theorem State.setThread_nextId : (s.setThread n T).nextId = s.nextId := rfl
@[simp] theorem State.setThread_mem : (s.setThread n T).mem = s.mem := rfl
@[simp] theorem State.setThread_poison : (s.setThread n T).poison = s.poison := rfl
@[simp] theorem State.setThread_rewrites : (s.setThread n T).rewrites = s.rewrites := rfl
@[simp] theorem State.setThread_stamps : (s.setThread n T).stamps = s.stamps := rfl
@[simp] theorem State.setThread_epochs : (s.setThread n T).epochs = s.epochs := rfl
@[simp] theorem State.setThread_scMarks : (s.setThread n T).scMarks = s.scMarks := rfl
@[simp] theorem State.setThread_marks : (s.setThread n T).marks = s.marks := rfl
@[simp] theorem State.setThread_l2 : (s.setThread n T).l2 = s.l2 := rfl
@[simp] theorem State.setThread_caches : (s.setThread n T).caches = s.caches := rfl
@[simp] theorem State.setThread_icache : (s.setThread n T).icache = s.icache := rfl
@[simp] theorem State.setThread_partials : (s.setThread n T).partials = s.partials := rfl
@[simp] theorem State.setThread_tlb : (s.setThread n T).tlb = s.tlb := rfl
@[simp] theorem State.setThread_clm : (s.setThread n T).clm = s.clm := rfl
@[simp] theorem State.setThread_dirty : (s.setThread n T).dirty = s.dirty := rfl
@[simp] theorem State.setThread_copied : (s.setThread n T).copied = s.copied := rfl
@[simp] theorem State.setThread_lost : (s.setThread n T).lost = s.lost := rfl
@[simp] theorem State.setThread_banks : (s.setThread n T).banks = s.banks := rfl
@[simp] theorem State.setThread_bankBusy : (s.setThread n T).bankBusy = s.bankBusy := rfl
@[simp] theorem State.setThread_macros : (s.setThread n T).macros = s.macros := rfl
@[simp] theorem State.setThread_shadow : (s.setThread n T).shadow = s.shadow := rfl
@[simp] theorem State.setThread_groups : (s.setThread n T).groups = s.groups := rfl
@[simp] theorem State.setThread_cores : (s.setThread n T).cores = s.cores := rfl
@[simp] theorem State.setThread_teams : (s.setThread n T).teams = s.teams := rfl
@[simp] theorem State.setThread_launches : (s.setThread n T).launches = s.launches := rfl
@[simp] theorem State.setThread_ctxs : (s.setThread n T).ctxs = s.ctxs := rfl
@[simp] theorem State.setThread_queues : (s.setThread n T).queues = s.queues := rfl
@[simp] theorem State.setThread_owners : (s.setThread n T).owners = s.owners := rfl
@[simp] theorem State.setThread_ops : (s.setThread n T).ops = s.ops := rfl
@[simp] theorem State.setThread_compactions : (s.setThread n T).compactions = s.compactions := rfl
@[simp] theorem State.setThread_hub : (s.setThread n T).hub = s.hub := rfl

@[simp] theorem State.modGroup_now : (s.modGroup n fG).now = s.now := rfl
@[simp] theorem State.modGroup_checked : (s.modGroup n fG).checked = s.checked := rfl
@[simp] theorem State.modGroup_cur : (s.modGroup n fG).cur = s.cur := rfl
@[simp] theorem State.modGroup_agenda : (s.modGroup n fG).agenda = s.agenda := rfl
@[simp] theorem State.modGroup_free : (s.modGroup n fG).free = s.free := rfl
@[simp] theorem State.modGroup_nextId : (s.modGroup n fG).nextId = s.nextId := rfl
@[simp] theorem State.modGroup_mem : (s.modGroup n fG).mem = s.mem := rfl
@[simp] theorem State.modGroup_poison : (s.modGroup n fG).poison = s.poison := rfl
@[simp] theorem State.modGroup_rewrites : (s.modGroup n fG).rewrites = s.rewrites := rfl
@[simp] theorem State.modGroup_stamps : (s.modGroup n fG).stamps = s.stamps := rfl
@[simp] theorem State.modGroup_epochs : (s.modGroup n fG).epochs = s.epochs := rfl
@[simp] theorem State.modGroup_scMarks : (s.modGroup n fG).scMarks = s.scMarks := rfl
@[simp] theorem State.modGroup_marks : (s.modGroup n fG).marks = s.marks := rfl
@[simp] theorem State.modGroup_l2 : (s.modGroup n fG).l2 = s.l2 := rfl
@[simp] theorem State.modGroup_caches : (s.modGroup n fG).caches = s.caches := rfl
@[simp] theorem State.modGroup_icache : (s.modGroup n fG).icache = s.icache := rfl
@[simp] theorem State.modGroup_partials : (s.modGroup n fG).partials = s.partials := rfl
@[simp] theorem State.modGroup_tlb : (s.modGroup n fG).tlb = s.tlb := rfl
@[simp] theorem State.modGroup_clm : (s.modGroup n fG).clm = s.clm := rfl
@[simp] theorem State.modGroup_dirty : (s.modGroup n fG).dirty = s.dirty := rfl
@[simp] theorem State.modGroup_copied : (s.modGroup n fG).copied = s.copied := rfl
@[simp] theorem State.modGroup_lost : (s.modGroup n fG).lost = s.lost := rfl
@[simp] theorem State.modGroup_banks : (s.modGroup n fG).banks = s.banks := rfl
@[simp] theorem State.modGroup_bankBusy : (s.modGroup n fG).bankBusy = s.bankBusy := rfl
@[simp] theorem State.modGroup_macros : (s.modGroup n fG).macros = s.macros := rfl
@[simp] theorem State.modGroup_shadow : (s.modGroup n fG).shadow = s.shadow := rfl
@[simp] theorem State.modGroup_threads : (s.modGroup n fG).threads = s.threads := rfl
@[simp] theorem State.modGroup_cores : (s.modGroup n fG).cores = s.cores := rfl
@[simp] theorem State.modGroup_teams : (s.modGroup n fG).teams = s.teams := rfl
@[simp] theorem State.modGroup_launches : (s.modGroup n fG).launches = s.launches := rfl
@[simp] theorem State.modGroup_ctxs : (s.modGroup n fG).ctxs = s.ctxs := rfl
@[simp] theorem State.modGroup_queues : (s.modGroup n fG).queues = s.queues := rfl
@[simp] theorem State.modGroup_owners : (s.modGroup n fG).owners = s.owners := rfl
@[simp] theorem State.modGroup_ops : (s.modGroup n fG).ops = s.ops := rfl
@[simp] theorem State.modGroup_compactions : (s.modGroup n fG).compactions = s.compactions := rfl
@[simp] theorem State.modGroup_hub : (s.modGroup n fG).hub = s.hub := rfl

@[simp] theorem State.modThread_now : (s.modThread n fT).now = s.now := rfl
@[simp] theorem State.modThread_checked : (s.modThread n fT).checked = s.checked := rfl
@[simp] theorem State.modThread_cur : (s.modThread n fT).cur = s.cur := rfl
@[simp] theorem State.modThread_agenda : (s.modThread n fT).agenda = s.agenda := rfl
@[simp] theorem State.modThread_free : (s.modThread n fT).free = s.free := rfl
@[simp] theorem State.modThread_nextId : (s.modThread n fT).nextId = s.nextId := rfl
@[simp] theorem State.modThread_mem : (s.modThread n fT).mem = s.mem := rfl
@[simp] theorem State.modThread_poison : (s.modThread n fT).poison = s.poison := rfl
@[simp] theorem State.modThread_rewrites : (s.modThread n fT).rewrites = s.rewrites := rfl
@[simp] theorem State.modThread_stamps : (s.modThread n fT).stamps = s.stamps := rfl
@[simp] theorem State.modThread_epochs : (s.modThread n fT).epochs = s.epochs := rfl
@[simp] theorem State.modThread_scMarks : (s.modThread n fT).scMarks = s.scMarks := rfl
@[simp] theorem State.modThread_marks : (s.modThread n fT).marks = s.marks := rfl
@[simp] theorem State.modThread_l2 : (s.modThread n fT).l2 = s.l2 := rfl
@[simp] theorem State.modThread_caches : (s.modThread n fT).caches = s.caches := rfl
@[simp] theorem State.modThread_icache : (s.modThread n fT).icache = s.icache := rfl
@[simp] theorem State.modThread_partials : (s.modThread n fT).partials = s.partials := rfl
@[simp] theorem State.modThread_tlb : (s.modThread n fT).tlb = s.tlb := rfl
@[simp] theorem State.modThread_clm : (s.modThread n fT).clm = s.clm := rfl
@[simp] theorem State.modThread_dirty : (s.modThread n fT).dirty = s.dirty := rfl
@[simp] theorem State.modThread_copied : (s.modThread n fT).copied = s.copied := rfl
@[simp] theorem State.modThread_lost : (s.modThread n fT).lost = s.lost := rfl
@[simp] theorem State.modThread_banks : (s.modThread n fT).banks = s.banks := rfl
@[simp] theorem State.modThread_bankBusy : (s.modThread n fT).bankBusy = s.bankBusy := rfl
@[simp] theorem State.modThread_macros : (s.modThread n fT).macros = s.macros := rfl
@[simp] theorem State.modThread_shadow : (s.modThread n fT).shadow = s.shadow := rfl
@[simp] theorem State.modThread_groups : (s.modThread n fT).groups = s.groups := rfl
@[simp] theorem State.modThread_cores : (s.modThread n fT).cores = s.cores := rfl
@[simp] theorem State.modThread_teams : (s.modThread n fT).teams = s.teams := rfl
@[simp] theorem State.modThread_launches : (s.modThread n fT).launches = s.launches := rfl
@[simp] theorem State.modThread_ctxs : (s.modThread n fT).ctxs = s.ctxs := rfl
@[simp] theorem State.modThread_queues : (s.modThread n fT).queues = s.queues := rfl
@[simp] theorem State.modThread_owners : (s.modThread n fT).owners = s.owners := rfl
@[simp] theorem State.modThread_ops : (s.modThread n fT).ops = s.ops := rfl
@[simp] theorem State.modThread_compactions : (s.modThread n fT).compactions = s.compactions := rfl
@[simp] theorem State.modThread_hub : (s.modThread n fT).hub = s.hub := rfl

@[simp] theorem State.modCore_now : (s.modCore n fC).now = s.now := rfl
@[simp] theorem State.modCore_checked : (s.modCore n fC).checked = s.checked := rfl
@[simp] theorem State.modCore_cur : (s.modCore n fC).cur = s.cur := rfl
@[simp] theorem State.modCore_agenda : (s.modCore n fC).agenda = s.agenda := rfl
@[simp] theorem State.modCore_free : (s.modCore n fC).free = s.free := rfl
@[simp] theorem State.modCore_nextId : (s.modCore n fC).nextId = s.nextId := rfl
@[simp] theorem State.modCore_mem : (s.modCore n fC).mem = s.mem := rfl
@[simp] theorem State.modCore_poison : (s.modCore n fC).poison = s.poison := rfl
@[simp] theorem State.modCore_rewrites : (s.modCore n fC).rewrites = s.rewrites := rfl
@[simp] theorem State.modCore_stamps : (s.modCore n fC).stamps = s.stamps := rfl
@[simp] theorem State.modCore_epochs : (s.modCore n fC).epochs = s.epochs := rfl
@[simp] theorem State.modCore_scMarks : (s.modCore n fC).scMarks = s.scMarks := rfl
@[simp] theorem State.modCore_marks : (s.modCore n fC).marks = s.marks := rfl
@[simp] theorem State.modCore_l2 : (s.modCore n fC).l2 = s.l2 := rfl
@[simp] theorem State.modCore_caches : (s.modCore n fC).caches = s.caches := rfl
@[simp] theorem State.modCore_icache : (s.modCore n fC).icache = s.icache := rfl
@[simp] theorem State.modCore_partials : (s.modCore n fC).partials = s.partials := rfl
@[simp] theorem State.modCore_tlb : (s.modCore n fC).tlb = s.tlb := rfl
@[simp] theorem State.modCore_clm : (s.modCore n fC).clm = s.clm := rfl
@[simp] theorem State.modCore_dirty : (s.modCore n fC).dirty = s.dirty := rfl
@[simp] theorem State.modCore_copied : (s.modCore n fC).copied = s.copied := rfl
@[simp] theorem State.modCore_lost : (s.modCore n fC).lost = s.lost := rfl
@[simp] theorem State.modCore_banks : (s.modCore n fC).banks = s.banks := rfl
@[simp] theorem State.modCore_bankBusy : (s.modCore n fC).bankBusy = s.bankBusy := rfl
@[simp] theorem State.modCore_macros : (s.modCore n fC).macros = s.macros := rfl
@[simp] theorem State.modCore_shadow : (s.modCore n fC).shadow = s.shadow := rfl
@[simp] theorem State.modCore_groups : (s.modCore n fC).groups = s.groups := rfl
@[simp] theorem State.modCore_threads : (s.modCore n fC).threads = s.threads := rfl
@[simp] theorem State.modCore_teams : (s.modCore n fC).teams = s.teams := rfl
@[simp] theorem State.modCore_launches : (s.modCore n fC).launches = s.launches := rfl
@[simp] theorem State.modCore_ctxs : (s.modCore n fC).ctxs = s.ctxs := rfl
@[simp] theorem State.modCore_queues : (s.modCore n fC).queues = s.queues := rfl
@[simp] theorem State.modCore_owners : (s.modCore n fC).owners = s.owners := rfl
@[simp] theorem State.modCore_ops : (s.modCore n fC).ops = s.ops := rfl
@[simp] theorem State.modCore_compactions : (s.modCore n fC).compactions = s.compactions := rfl
@[simp] theorem State.modCore_hub : (s.modCore n fC).hub = s.hub := rfl

@[simp] theorem State.modCtx_now : (s.modCtx n fX).now = s.now := rfl
@[simp] theorem State.modCtx_checked : (s.modCtx n fX).checked = s.checked := rfl
@[simp] theorem State.modCtx_cur : (s.modCtx n fX).cur = s.cur := rfl
@[simp] theorem State.modCtx_agenda : (s.modCtx n fX).agenda = s.agenda := rfl
@[simp] theorem State.modCtx_free : (s.modCtx n fX).free = s.free := rfl
@[simp] theorem State.modCtx_nextId : (s.modCtx n fX).nextId = s.nextId := rfl
@[simp] theorem State.modCtx_mem : (s.modCtx n fX).mem = s.mem := rfl
@[simp] theorem State.modCtx_poison : (s.modCtx n fX).poison = s.poison := rfl
@[simp] theorem State.modCtx_rewrites : (s.modCtx n fX).rewrites = s.rewrites := rfl
@[simp] theorem State.modCtx_stamps : (s.modCtx n fX).stamps = s.stamps := rfl
@[simp] theorem State.modCtx_epochs : (s.modCtx n fX).epochs = s.epochs := rfl
@[simp] theorem State.modCtx_scMarks : (s.modCtx n fX).scMarks = s.scMarks := rfl
@[simp] theorem State.modCtx_marks : (s.modCtx n fX).marks = s.marks := rfl
@[simp] theorem State.modCtx_l2 : (s.modCtx n fX).l2 = s.l2 := rfl
@[simp] theorem State.modCtx_caches : (s.modCtx n fX).caches = s.caches := rfl
@[simp] theorem State.modCtx_icache : (s.modCtx n fX).icache = s.icache := rfl
@[simp] theorem State.modCtx_partials : (s.modCtx n fX).partials = s.partials := rfl
@[simp] theorem State.modCtx_tlb : (s.modCtx n fX).tlb = s.tlb := rfl
@[simp] theorem State.modCtx_clm : (s.modCtx n fX).clm = s.clm := rfl
@[simp] theorem State.modCtx_dirty : (s.modCtx n fX).dirty = s.dirty := rfl
@[simp] theorem State.modCtx_copied : (s.modCtx n fX).copied = s.copied := rfl
@[simp] theorem State.modCtx_lost : (s.modCtx n fX).lost = s.lost := rfl
@[simp] theorem State.modCtx_banks : (s.modCtx n fX).banks = s.banks := rfl
@[simp] theorem State.modCtx_bankBusy : (s.modCtx n fX).bankBusy = s.bankBusy := rfl
@[simp] theorem State.modCtx_macros : (s.modCtx n fX).macros = s.macros := rfl
@[simp] theorem State.modCtx_shadow : (s.modCtx n fX).shadow = s.shadow := rfl
@[simp] theorem State.modCtx_groups : (s.modCtx n fX).groups = s.groups := rfl
@[simp] theorem State.modCtx_threads : (s.modCtx n fX).threads = s.threads := rfl
@[simp] theorem State.modCtx_cores : (s.modCtx n fX).cores = s.cores := rfl
@[simp] theorem State.modCtx_teams : (s.modCtx n fX).teams = s.teams := rfl
@[simp] theorem State.modCtx_launches : (s.modCtx n fX).launches = s.launches := rfl
@[simp] theorem State.modCtx_queues : (s.modCtx n fX).queues = s.queues := rfl
@[simp] theorem State.modCtx_owners : (s.modCtx n fX).owners = s.owners := rfl
@[simp] theorem State.modCtx_ops : (s.modCtx n fX).ops = s.ops := rfl
@[simp] theorem State.modCtx_compactions : (s.modCtx n fX).compactions = s.compactions := rfl
@[simp] theorem State.modCtx_hub : (s.modCtx n fX).hub = s.hub := rfl

@[simp] theorem State.modTeam_now : (s.modTeam n fM).now = s.now := rfl
@[simp] theorem State.modTeam_checked : (s.modTeam n fM).checked = s.checked := rfl
@[simp] theorem State.modTeam_cur : (s.modTeam n fM).cur = s.cur := rfl
@[simp] theorem State.modTeam_agenda : (s.modTeam n fM).agenda = s.agenda := rfl
@[simp] theorem State.modTeam_free : (s.modTeam n fM).free = s.free := rfl
@[simp] theorem State.modTeam_nextId : (s.modTeam n fM).nextId = s.nextId := rfl
@[simp] theorem State.modTeam_mem : (s.modTeam n fM).mem = s.mem := rfl
@[simp] theorem State.modTeam_poison : (s.modTeam n fM).poison = s.poison := rfl
@[simp] theorem State.modTeam_rewrites : (s.modTeam n fM).rewrites = s.rewrites := rfl
@[simp] theorem State.modTeam_stamps : (s.modTeam n fM).stamps = s.stamps := rfl
@[simp] theorem State.modTeam_epochs : (s.modTeam n fM).epochs = s.epochs := rfl
@[simp] theorem State.modTeam_scMarks : (s.modTeam n fM).scMarks = s.scMarks := rfl
@[simp] theorem State.modTeam_marks : (s.modTeam n fM).marks = s.marks := rfl
@[simp] theorem State.modTeam_l2 : (s.modTeam n fM).l2 = s.l2 := rfl
@[simp] theorem State.modTeam_caches : (s.modTeam n fM).caches = s.caches := rfl
@[simp] theorem State.modTeam_icache : (s.modTeam n fM).icache = s.icache := rfl
@[simp] theorem State.modTeam_partials : (s.modTeam n fM).partials = s.partials := rfl
@[simp] theorem State.modTeam_tlb : (s.modTeam n fM).tlb = s.tlb := rfl
@[simp] theorem State.modTeam_clm : (s.modTeam n fM).clm = s.clm := rfl
@[simp] theorem State.modTeam_dirty : (s.modTeam n fM).dirty = s.dirty := rfl
@[simp] theorem State.modTeam_copied : (s.modTeam n fM).copied = s.copied := rfl
@[simp] theorem State.modTeam_lost : (s.modTeam n fM).lost = s.lost := rfl
@[simp] theorem State.modTeam_banks : (s.modTeam n fM).banks = s.banks := rfl
@[simp] theorem State.modTeam_bankBusy : (s.modTeam n fM).bankBusy = s.bankBusy := rfl
@[simp] theorem State.modTeam_macros : (s.modTeam n fM).macros = s.macros := rfl
@[simp] theorem State.modTeam_shadow : (s.modTeam n fM).shadow = s.shadow := rfl
@[simp] theorem State.modTeam_groups : (s.modTeam n fM).groups = s.groups := rfl
@[simp] theorem State.modTeam_threads : (s.modTeam n fM).threads = s.threads := rfl
@[simp] theorem State.modTeam_cores : (s.modTeam n fM).cores = s.cores := rfl
@[simp] theorem State.modTeam_launches : (s.modTeam n fM).launches = s.launches := rfl
@[simp] theorem State.modTeam_ctxs : (s.modTeam n fM).ctxs = s.ctxs := rfl
@[simp] theorem State.modTeam_queues : (s.modTeam n fM).queues = s.queues := rfl
@[simp] theorem State.modTeam_owners : (s.modTeam n fM).owners = s.owners := rfl
@[simp] theorem State.modTeam_ops : (s.modTeam n fM).ops = s.ops := rfl
@[simp] theorem State.modTeam_compactions : (s.modTeam n fM).compactions = s.compactions := rfl
@[simp] theorem State.modTeam_hub : (s.modTeam n fM).hub = s.hub := rfl

@[simp] theorem State.modLaunch_now : (s.modLaunch n fL).now = s.now := rfl
@[simp] theorem State.modLaunch_checked : (s.modLaunch n fL).checked = s.checked := rfl
@[simp] theorem State.modLaunch_cur : (s.modLaunch n fL).cur = s.cur := rfl
@[simp] theorem State.modLaunch_agenda : (s.modLaunch n fL).agenda = s.agenda := rfl
@[simp] theorem State.modLaunch_free : (s.modLaunch n fL).free = s.free := rfl
@[simp] theorem State.modLaunch_nextId : (s.modLaunch n fL).nextId = s.nextId := rfl
@[simp] theorem State.modLaunch_mem : (s.modLaunch n fL).mem = s.mem := rfl
@[simp] theorem State.modLaunch_poison : (s.modLaunch n fL).poison = s.poison := rfl
@[simp] theorem State.modLaunch_rewrites : (s.modLaunch n fL).rewrites = s.rewrites := rfl
@[simp] theorem State.modLaunch_stamps : (s.modLaunch n fL).stamps = s.stamps := rfl
@[simp] theorem State.modLaunch_epochs : (s.modLaunch n fL).epochs = s.epochs := rfl
@[simp] theorem State.modLaunch_scMarks : (s.modLaunch n fL).scMarks = s.scMarks := rfl
@[simp] theorem State.modLaunch_marks : (s.modLaunch n fL).marks = s.marks := rfl
@[simp] theorem State.modLaunch_l2 : (s.modLaunch n fL).l2 = s.l2 := rfl
@[simp] theorem State.modLaunch_caches : (s.modLaunch n fL).caches = s.caches := rfl
@[simp] theorem State.modLaunch_icache : (s.modLaunch n fL).icache = s.icache := rfl
@[simp] theorem State.modLaunch_partials : (s.modLaunch n fL).partials = s.partials := rfl
@[simp] theorem State.modLaunch_tlb : (s.modLaunch n fL).tlb = s.tlb := rfl
@[simp] theorem State.modLaunch_clm : (s.modLaunch n fL).clm = s.clm := rfl
@[simp] theorem State.modLaunch_dirty : (s.modLaunch n fL).dirty = s.dirty := rfl
@[simp] theorem State.modLaunch_copied : (s.modLaunch n fL).copied = s.copied := rfl
@[simp] theorem State.modLaunch_lost : (s.modLaunch n fL).lost = s.lost := rfl
@[simp] theorem State.modLaunch_banks : (s.modLaunch n fL).banks = s.banks := rfl
@[simp] theorem State.modLaunch_bankBusy : (s.modLaunch n fL).bankBusy = s.bankBusy := rfl
@[simp] theorem State.modLaunch_macros : (s.modLaunch n fL).macros = s.macros := rfl
@[simp] theorem State.modLaunch_shadow : (s.modLaunch n fL).shadow = s.shadow := rfl
@[simp] theorem State.modLaunch_groups : (s.modLaunch n fL).groups = s.groups := rfl
@[simp] theorem State.modLaunch_threads : (s.modLaunch n fL).threads = s.threads := rfl
@[simp] theorem State.modLaunch_cores : (s.modLaunch n fL).cores = s.cores := rfl
@[simp] theorem State.modLaunch_teams : (s.modLaunch n fL).teams = s.teams := rfl
@[simp] theorem State.modLaunch_ctxs : (s.modLaunch n fL).ctxs = s.ctxs := rfl
@[simp] theorem State.modLaunch_queues : (s.modLaunch n fL).queues = s.queues := rfl
@[simp] theorem State.modLaunch_owners : (s.modLaunch n fL).owners = s.owners := rfl
@[simp] theorem State.modLaunch_ops : (s.modLaunch n fL).ops = s.ops := rfl
@[simp] theorem State.modLaunch_compactions : (s.modLaunch n fL).compactions = s.compactions := rfl
@[simp] theorem State.modLaunch_hub : (s.modLaunch n fL).hub = s.hub := rfl

@[simp] theorem State.modOp_now : (s.modOp n fO).now = s.now := rfl
@[simp] theorem State.modOp_checked : (s.modOp n fO).checked = s.checked := rfl
@[simp] theorem State.modOp_cur : (s.modOp n fO).cur = s.cur := rfl
@[simp] theorem State.modOp_agenda : (s.modOp n fO).agenda = s.agenda := rfl
@[simp] theorem State.modOp_free : (s.modOp n fO).free = s.free := rfl
@[simp] theorem State.modOp_nextId : (s.modOp n fO).nextId = s.nextId := rfl
@[simp] theorem State.modOp_mem : (s.modOp n fO).mem = s.mem := rfl
@[simp] theorem State.modOp_poison : (s.modOp n fO).poison = s.poison := rfl
@[simp] theorem State.modOp_rewrites : (s.modOp n fO).rewrites = s.rewrites := rfl
@[simp] theorem State.modOp_stamps : (s.modOp n fO).stamps = s.stamps := rfl
@[simp] theorem State.modOp_epochs : (s.modOp n fO).epochs = s.epochs := rfl
@[simp] theorem State.modOp_scMarks : (s.modOp n fO).scMarks = s.scMarks := rfl
@[simp] theorem State.modOp_marks : (s.modOp n fO).marks = s.marks := rfl
@[simp] theorem State.modOp_l2 : (s.modOp n fO).l2 = s.l2 := rfl
@[simp] theorem State.modOp_caches : (s.modOp n fO).caches = s.caches := rfl
@[simp] theorem State.modOp_icache : (s.modOp n fO).icache = s.icache := rfl
@[simp] theorem State.modOp_partials : (s.modOp n fO).partials = s.partials := rfl
@[simp] theorem State.modOp_tlb : (s.modOp n fO).tlb = s.tlb := rfl
@[simp] theorem State.modOp_clm : (s.modOp n fO).clm = s.clm := rfl
@[simp] theorem State.modOp_dirty : (s.modOp n fO).dirty = s.dirty := rfl
@[simp] theorem State.modOp_copied : (s.modOp n fO).copied = s.copied := rfl
@[simp] theorem State.modOp_lost : (s.modOp n fO).lost = s.lost := rfl
@[simp] theorem State.modOp_banks : (s.modOp n fO).banks = s.banks := rfl
@[simp] theorem State.modOp_bankBusy : (s.modOp n fO).bankBusy = s.bankBusy := rfl
@[simp] theorem State.modOp_macros : (s.modOp n fO).macros = s.macros := rfl
@[simp] theorem State.modOp_shadow : (s.modOp n fO).shadow = s.shadow := rfl
@[simp] theorem State.modOp_groups : (s.modOp n fO).groups = s.groups := rfl
@[simp] theorem State.modOp_threads : (s.modOp n fO).threads = s.threads := rfl
@[simp] theorem State.modOp_cores : (s.modOp n fO).cores = s.cores := rfl
@[simp] theorem State.modOp_teams : (s.modOp n fO).teams = s.teams := rfl
@[simp] theorem State.modOp_launches : (s.modOp n fO).launches = s.launches := rfl
@[simp] theorem State.modOp_ctxs : (s.modOp n fO).ctxs = s.ctxs := rfl
@[simp] theorem State.modOp_queues : (s.modOp n fO).queues = s.queues := rfl
@[simp] theorem State.modOp_owners : (s.modOp n fO).owners = s.owners := rfl
@[simp] theorem State.modOp_compactions : (s.modOp n fO).compactions = s.compactions := rfl
@[simp] theorem State.modOp_hub : (s.modOp n fO).hub = s.hub := rfl

@[simp] theorem State.modHub_now : (s.modHub fH).now = s.now := rfl
@[simp] theorem State.modHub_checked : (s.modHub fH).checked = s.checked := rfl
@[simp] theorem State.modHub_cur : (s.modHub fH).cur = s.cur := rfl
@[simp] theorem State.modHub_agenda : (s.modHub fH).agenda = s.agenda := rfl
@[simp] theorem State.modHub_free : (s.modHub fH).free = s.free := rfl
@[simp] theorem State.modHub_nextId : (s.modHub fH).nextId = s.nextId := rfl
@[simp] theorem State.modHub_mem : (s.modHub fH).mem = s.mem := rfl
@[simp] theorem State.modHub_poison : (s.modHub fH).poison = s.poison := rfl
@[simp] theorem State.modHub_rewrites : (s.modHub fH).rewrites = s.rewrites := rfl
@[simp] theorem State.modHub_stamps : (s.modHub fH).stamps = s.stamps := rfl
@[simp] theorem State.modHub_epochs : (s.modHub fH).epochs = s.epochs := rfl
@[simp] theorem State.modHub_scMarks : (s.modHub fH).scMarks = s.scMarks := rfl
@[simp] theorem State.modHub_marks : (s.modHub fH).marks = s.marks := rfl
@[simp] theorem State.modHub_l2 : (s.modHub fH).l2 = s.l2 := rfl
@[simp] theorem State.modHub_caches : (s.modHub fH).caches = s.caches := rfl
@[simp] theorem State.modHub_icache : (s.modHub fH).icache = s.icache := rfl
@[simp] theorem State.modHub_partials : (s.modHub fH).partials = s.partials := rfl
@[simp] theorem State.modHub_tlb : (s.modHub fH).tlb = s.tlb := rfl
@[simp] theorem State.modHub_clm : (s.modHub fH).clm = s.clm := rfl
@[simp] theorem State.modHub_dirty : (s.modHub fH).dirty = s.dirty := rfl
@[simp] theorem State.modHub_copied : (s.modHub fH).copied = s.copied := rfl
@[simp] theorem State.modHub_lost : (s.modHub fH).lost = s.lost := rfl
@[simp] theorem State.modHub_banks : (s.modHub fH).banks = s.banks := rfl
@[simp] theorem State.modHub_bankBusy : (s.modHub fH).bankBusy = s.bankBusy := rfl
@[simp] theorem State.modHub_macros : (s.modHub fH).macros = s.macros := rfl
@[simp] theorem State.modHub_shadow : (s.modHub fH).shadow = s.shadow := rfl
@[simp] theorem State.modHub_groups : (s.modHub fH).groups = s.groups := rfl
@[simp] theorem State.modHub_threads : (s.modHub fH).threads = s.threads := rfl
@[simp] theorem State.modHub_cores : (s.modHub fH).cores = s.cores := rfl
@[simp] theorem State.modHub_teams : (s.modHub fH).teams = s.teams := rfl
@[simp] theorem State.modHub_launches : (s.modHub fH).launches = s.launches := rfl
@[simp] theorem State.modHub_ctxs : (s.modHub fH).ctxs = s.ctxs := rfl
@[simp] theorem State.modHub_queues : (s.modHub fH).queues = s.queues := rfl
@[simp] theorem State.modHub_owners : (s.modHub fH).owners = s.owners := rfl
@[simp] theorem State.modHub_ops : (s.modHub fH).ops = s.ops := rfl
@[simp] theorem State.modHub_compactions : (s.modHub fH).compactions = s.compactions := rfl

@[simp] theorem State.modQueue_now : (s.modQueue n fQ).now = s.now := rfl
@[simp] theorem State.modQueue_checked : (s.modQueue n fQ).checked = s.checked := rfl
@[simp] theorem State.modQueue_cur : (s.modQueue n fQ).cur = s.cur := rfl
@[simp] theorem State.modQueue_agenda : (s.modQueue n fQ).agenda = s.agenda := rfl
@[simp] theorem State.modQueue_free : (s.modQueue n fQ).free = s.free := rfl
@[simp] theorem State.modQueue_nextId : (s.modQueue n fQ).nextId = s.nextId := rfl
@[simp] theorem State.modQueue_mem : (s.modQueue n fQ).mem = s.mem := rfl
@[simp] theorem State.modQueue_poison : (s.modQueue n fQ).poison = s.poison := rfl
@[simp] theorem State.modQueue_rewrites : (s.modQueue n fQ).rewrites = s.rewrites := rfl
@[simp] theorem State.modQueue_stamps : (s.modQueue n fQ).stamps = s.stamps := rfl
@[simp] theorem State.modQueue_epochs : (s.modQueue n fQ).epochs = s.epochs := rfl
@[simp] theorem State.modQueue_scMarks : (s.modQueue n fQ).scMarks = s.scMarks := rfl
@[simp] theorem State.modQueue_marks : (s.modQueue n fQ).marks = s.marks := rfl
@[simp] theorem State.modQueue_l2 : (s.modQueue n fQ).l2 = s.l2 := rfl
@[simp] theorem State.modQueue_caches : (s.modQueue n fQ).caches = s.caches := rfl
@[simp] theorem State.modQueue_icache : (s.modQueue n fQ).icache = s.icache := rfl
@[simp] theorem State.modQueue_partials : (s.modQueue n fQ).partials = s.partials := rfl
@[simp] theorem State.modQueue_tlb : (s.modQueue n fQ).tlb = s.tlb := rfl
@[simp] theorem State.modQueue_clm : (s.modQueue n fQ).clm = s.clm := rfl
@[simp] theorem State.modQueue_dirty : (s.modQueue n fQ).dirty = s.dirty := rfl
@[simp] theorem State.modQueue_copied : (s.modQueue n fQ).copied = s.copied := rfl
@[simp] theorem State.modQueue_lost : (s.modQueue n fQ).lost = s.lost := rfl
@[simp] theorem State.modQueue_banks : (s.modQueue n fQ).banks = s.banks := rfl
@[simp] theorem State.modQueue_bankBusy : (s.modQueue n fQ).bankBusy = s.bankBusy := rfl
@[simp] theorem State.modQueue_macros : (s.modQueue n fQ).macros = s.macros := rfl
@[simp] theorem State.modQueue_shadow : (s.modQueue n fQ).shadow = s.shadow := rfl
@[simp] theorem State.modQueue_groups : (s.modQueue n fQ).groups = s.groups := rfl
@[simp] theorem State.modQueue_threads : (s.modQueue n fQ).threads = s.threads := rfl
@[simp] theorem State.modQueue_cores : (s.modQueue n fQ).cores = s.cores := rfl
@[simp] theorem State.modQueue_teams : (s.modQueue n fQ).teams = s.teams := rfl
@[simp] theorem State.modQueue_launches : (s.modQueue n fQ).launches = s.launches := rfl
@[simp] theorem State.modQueue_ctxs : (s.modQueue n fQ).ctxs = s.ctxs := rfl
@[simp] theorem State.modQueue_owners : (s.modQueue n fQ).owners = s.owners := rfl
@[simp] theorem State.modQueue_ops : (s.modQueue n fQ).ops = s.ops := rfl
@[simp] theorem State.modQueue_compactions : (s.modQueue n fQ).compactions = s.compactions := rfl
@[simp] theorem State.modQueue_hub : (s.modQueue n fQ).hub = s.hub := rfl

@[simp] theorem State.modOwner_now : (s.modOwner n fW).now = s.now := rfl
@[simp] theorem State.modOwner_checked : (s.modOwner n fW).checked = s.checked := rfl
@[simp] theorem State.modOwner_cur : (s.modOwner n fW).cur = s.cur := rfl
@[simp] theorem State.modOwner_agenda : (s.modOwner n fW).agenda = s.agenda := rfl
@[simp] theorem State.modOwner_free : (s.modOwner n fW).free = s.free := rfl
@[simp] theorem State.modOwner_nextId : (s.modOwner n fW).nextId = s.nextId := rfl
@[simp] theorem State.modOwner_mem : (s.modOwner n fW).mem = s.mem := rfl
@[simp] theorem State.modOwner_poison : (s.modOwner n fW).poison = s.poison := rfl
@[simp] theorem State.modOwner_rewrites : (s.modOwner n fW).rewrites = s.rewrites := rfl
@[simp] theorem State.modOwner_stamps : (s.modOwner n fW).stamps = s.stamps := rfl
@[simp] theorem State.modOwner_epochs : (s.modOwner n fW).epochs = s.epochs := rfl
@[simp] theorem State.modOwner_scMarks : (s.modOwner n fW).scMarks = s.scMarks := rfl
@[simp] theorem State.modOwner_marks : (s.modOwner n fW).marks = s.marks := rfl
@[simp] theorem State.modOwner_l2 : (s.modOwner n fW).l2 = s.l2 := rfl
@[simp] theorem State.modOwner_caches : (s.modOwner n fW).caches = s.caches := rfl
@[simp] theorem State.modOwner_icache : (s.modOwner n fW).icache = s.icache := rfl
@[simp] theorem State.modOwner_partials : (s.modOwner n fW).partials = s.partials := rfl
@[simp] theorem State.modOwner_tlb : (s.modOwner n fW).tlb = s.tlb := rfl
@[simp] theorem State.modOwner_clm : (s.modOwner n fW).clm = s.clm := rfl
@[simp] theorem State.modOwner_dirty : (s.modOwner n fW).dirty = s.dirty := rfl
@[simp] theorem State.modOwner_copied : (s.modOwner n fW).copied = s.copied := rfl
@[simp] theorem State.modOwner_lost : (s.modOwner n fW).lost = s.lost := rfl
@[simp] theorem State.modOwner_banks : (s.modOwner n fW).banks = s.banks := rfl
@[simp] theorem State.modOwner_bankBusy : (s.modOwner n fW).bankBusy = s.bankBusy := rfl
@[simp] theorem State.modOwner_macros : (s.modOwner n fW).macros = s.macros := rfl
@[simp] theorem State.modOwner_shadow : (s.modOwner n fW).shadow = s.shadow := rfl
@[simp] theorem State.modOwner_groups : (s.modOwner n fW).groups = s.groups := rfl
@[simp] theorem State.modOwner_threads : (s.modOwner n fW).threads = s.threads := rfl
@[simp] theorem State.modOwner_cores : (s.modOwner n fW).cores = s.cores := rfl
@[simp] theorem State.modOwner_teams : (s.modOwner n fW).teams = s.teams := rfl
@[simp] theorem State.modOwner_launches : (s.modOwner n fW).launches = s.launches := rfl
@[simp] theorem State.modOwner_ctxs : (s.modOwner n fW).ctxs = s.ctxs := rfl
@[simp] theorem State.modOwner_queues : (s.modOwner n fW).queues = s.queues := rfl
@[simp] theorem State.modOwner_ops : (s.modOwner n fW).ops = s.ops := rfl
@[simp] theorem State.modOwner_compactions : (s.modOwner n fW).compactions = s.compactions := rfl
@[simp] theorem State.modOwner_hub : (s.modOwner n fW).hub = s.hub := rfl

@[simp] theorem State.addUsage_now : (s.addUsage n m k).now = s.now := rfl
@[simp] theorem State.addUsage_checked : (s.addUsage n m k).checked = s.checked := rfl
@[simp] theorem State.addUsage_cur : (s.addUsage n m k).cur = s.cur := rfl
@[simp] theorem State.addUsage_agenda : (s.addUsage n m k).agenda = s.agenda := rfl
@[simp] theorem State.addUsage_free : (s.addUsage n m k).free = s.free := rfl
@[simp] theorem State.addUsage_nextId : (s.addUsage n m k).nextId = s.nextId := rfl
@[simp] theorem State.addUsage_mem : (s.addUsage n m k).mem = s.mem := rfl
@[simp] theorem State.addUsage_poison : (s.addUsage n m k).poison = s.poison := rfl
@[simp] theorem State.addUsage_rewrites : (s.addUsage n m k).rewrites = s.rewrites := rfl
@[simp] theorem State.addUsage_stamps : (s.addUsage n m k).stamps = s.stamps := rfl
@[simp] theorem State.addUsage_epochs : (s.addUsage n m k).epochs = s.epochs := rfl
@[simp] theorem State.addUsage_scMarks : (s.addUsage n m k).scMarks = s.scMarks := rfl
@[simp] theorem State.addUsage_marks : (s.addUsage n m k).marks = s.marks := rfl
@[simp] theorem State.addUsage_l2 : (s.addUsage n m k).l2 = s.l2 := rfl
@[simp] theorem State.addUsage_caches : (s.addUsage n m k).caches = s.caches := rfl
@[simp] theorem State.addUsage_icache : (s.addUsage n m k).icache = s.icache := rfl
@[simp] theorem State.addUsage_partials : (s.addUsage n m k).partials = s.partials := rfl
@[simp] theorem State.addUsage_tlb : (s.addUsage n m k).tlb = s.tlb := rfl
@[simp] theorem State.addUsage_clm : (s.addUsage n m k).clm = s.clm := rfl
@[simp] theorem State.addUsage_dirty : (s.addUsage n m k).dirty = s.dirty := rfl
@[simp] theorem State.addUsage_copied : (s.addUsage n m k).copied = s.copied := rfl
@[simp] theorem State.addUsage_lost : (s.addUsage n m k).lost = s.lost := rfl
@[simp] theorem State.addUsage_banks : (s.addUsage n m k).banks = s.banks := rfl
@[simp] theorem State.addUsage_bankBusy : (s.addUsage n m k).bankBusy = s.bankBusy := rfl
@[simp] theorem State.addUsage_macros : (s.addUsage n m k).macros = s.macros := rfl
@[simp] theorem State.addUsage_shadow : (s.addUsage n m k).shadow = s.shadow := rfl
@[simp] theorem State.addUsage_groups : (s.addUsage n m k).groups = s.groups := rfl
@[simp] theorem State.addUsage_threads : (s.addUsage n m k).threads = s.threads := rfl
@[simp] theorem State.addUsage_cores : (s.addUsage n m k).cores = s.cores := rfl
@[simp] theorem State.addUsage_teams : (s.addUsage n m k).teams = s.teams := rfl
@[simp] theorem State.addUsage_launches : (s.addUsage n m k).launches = s.launches := rfl
@[simp] theorem State.addUsage_ctxs : (s.addUsage n m k).ctxs = s.ctxs := rfl
@[simp] theorem State.addUsage_queues : (s.addUsage n m k).queues = s.queues := rfl
@[simp] theorem State.addUsage_ops : (s.addUsage n m k).ops = s.ops := rfl
@[simp] theorem State.addUsage_compactions : (s.addUsage n m k).compactions = s.compactions := rfl
@[simp] theorem State.addUsage_hub : (s.addUsage n m k).hub = s.hub := rfl

@[simp] theorem State.modSlot_now : (s.modSlot a fS).now = s.now := by cases a <;> rfl
@[simp] theorem State.modSlot_checked : (s.modSlot a fS).checked = s.checked := by cases a <;> rfl
@[simp] theorem State.modSlot_cur : (s.modSlot a fS).cur = s.cur := by cases a <;> rfl
@[simp] theorem State.modSlot_agenda : (s.modSlot a fS).agenda = s.agenda := by cases a <;> rfl
@[simp] theorem State.modSlot_free : (s.modSlot a fS).free = s.free := by cases a <;> rfl
@[simp] theorem State.modSlot_nextId : (s.modSlot a fS).nextId = s.nextId := by cases a <;> rfl
@[simp] theorem State.modSlot_mem : (s.modSlot a fS).mem = s.mem := by cases a <;> rfl
@[simp] theorem State.modSlot_poison : (s.modSlot a fS).poison = s.poison := by cases a <;> rfl
@[simp] theorem State.modSlot_rewrites : (s.modSlot a fS).rewrites = s.rewrites := by cases a <;> rfl
@[simp] theorem State.modSlot_stamps : (s.modSlot a fS).stamps = s.stamps := by cases a <;> rfl
@[simp] theorem State.modSlot_epochs : (s.modSlot a fS).epochs = s.epochs := by cases a <;> rfl
@[simp] theorem State.modSlot_scMarks : (s.modSlot a fS).scMarks = s.scMarks := by cases a <;> rfl
@[simp] theorem State.modSlot_marks : (s.modSlot a fS).marks = s.marks := by cases a <;> rfl
@[simp] theorem State.modSlot_l2 : (s.modSlot a fS).l2 = s.l2 := by cases a <;> rfl
@[simp] theorem State.modSlot_caches : (s.modSlot a fS).caches = s.caches := by cases a <;> rfl
@[simp] theorem State.modSlot_icache : (s.modSlot a fS).icache = s.icache := by cases a <;> rfl
@[simp] theorem State.modSlot_partials : (s.modSlot a fS).partials = s.partials := by cases a <;> rfl
@[simp] theorem State.modSlot_tlb : (s.modSlot a fS).tlb = s.tlb := by cases a <;> rfl
@[simp] theorem State.modSlot_clm : (s.modSlot a fS).clm = s.clm := by cases a <;> rfl
@[simp] theorem State.modSlot_dirty : (s.modSlot a fS).dirty = s.dirty := by cases a <;> rfl
@[simp] theorem State.modSlot_copied : (s.modSlot a fS).copied = s.copied := by cases a <;> rfl
@[simp] theorem State.modSlot_lost : (s.modSlot a fS).lost = s.lost := by cases a <;> rfl
@[simp] theorem State.modSlot_banks : (s.modSlot a fS).banks = s.banks := by cases a <;> rfl
@[simp] theorem State.modSlot_bankBusy : (s.modSlot a fS).bankBusy = s.bankBusy := by cases a <;> rfl
@[simp] theorem State.modSlot_macros : (s.modSlot a fS).macros = s.macros := by cases a <;> rfl
@[simp] theorem State.modSlot_shadow : (s.modSlot a fS).shadow = s.shadow := by cases a <;> rfl
@[simp] theorem State.modSlot_cores : (s.modSlot a fS).cores = s.cores := by cases a <;> rfl
@[simp] theorem State.modSlot_teams : (s.modSlot a fS).teams = s.teams := by cases a <;> rfl
@[simp] theorem State.modSlot_launches : (s.modSlot a fS).launches = s.launches := by cases a <;> rfl
@[simp] theorem State.modSlot_ctxs : (s.modSlot a fS).ctxs = s.ctxs := by cases a <;> rfl
@[simp] theorem State.modSlot_queues : (s.modSlot a fS).queues = s.queues := by cases a <;> rfl
@[simp] theorem State.modSlot_owners : (s.modSlot a fS).owners = s.owners := by cases a <;> rfl
@[simp] theorem State.modSlot_ops : (s.modSlot a fS).ops = s.ops := by cases a <;> rfl
@[simp] theorem State.modSlot_compactions : (s.modSlot a fS).compactions = s.compactions := by cases a <;> rfl
@[simp] theorem State.modSlot_hub : (s.modSlot a fS).hub = s.hub := by cases a <;> rfl

@[simp] theorem State.modAgent_now : (s.modAgent a fA).now = s.now := by cases a <;> rfl
@[simp] theorem State.modAgent_checked : (s.modAgent a fA).checked = s.checked := by cases a <;> rfl
@[simp] theorem State.modAgent_cur : (s.modAgent a fA).cur = s.cur := by cases a <;> rfl
@[simp] theorem State.modAgent_agenda : (s.modAgent a fA).agenda = s.agenda := by cases a <;> rfl
@[simp] theorem State.modAgent_free : (s.modAgent a fA).free = s.free := by cases a <;> rfl
@[simp] theorem State.modAgent_nextId : (s.modAgent a fA).nextId = s.nextId := by cases a <;> rfl
@[simp] theorem State.modAgent_mem : (s.modAgent a fA).mem = s.mem := by cases a <;> rfl
@[simp] theorem State.modAgent_poison : (s.modAgent a fA).poison = s.poison := by cases a <;> rfl
@[simp] theorem State.modAgent_rewrites : (s.modAgent a fA).rewrites = s.rewrites := by cases a <;> rfl
@[simp] theorem State.modAgent_stamps : (s.modAgent a fA).stamps = s.stamps := by cases a <;> rfl
@[simp] theorem State.modAgent_epochs : (s.modAgent a fA).epochs = s.epochs := by cases a <;> rfl
@[simp] theorem State.modAgent_scMarks : (s.modAgent a fA).scMarks = s.scMarks := by cases a <;> rfl
@[simp] theorem State.modAgent_marks : (s.modAgent a fA).marks = s.marks := by cases a <;> rfl
@[simp] theorem State.modAgent_l2 : (s.modAgent a fA).l2 = s.l2 := by cases a <;> rfl
@[simp] theorem State.modAgent_caches : (s.modAgent a fA).caches = s.caches := by cases a <;> rfl
@[simp] theorem State.modAgent_icache : (s.modAgent a fA).icache = s.icache := by cases a <;> rfl
@[simp] theorem State.modAgent_partials : (s.modAgent a fA).partials = s.partials := by cases a <;> rfl
@[simp] theorem State.modAgent_tlb : (s.modAgent a fA).tlb = s.tlb := by cases a <;> rfl
@[simp] theorem State.modAgent_clm : (s.modAgent a fA).clm = s.clm := by cases a <;> rfl
@[simp] theorem State.modAgent_dirty : (s.modAgent a fA).dirty = s.dirty := by cases a <;> rfl
@[simp] theorem State.modAgent_copied : (s.modAgent a fA).copied = s.copied := by cases a <;> rfl
@[simp] theorem State.modAgent_lost : (s.modAgent a fA).lost = s.lost := by cases a <;> rfl
@[simp] theorem State.modAgent_banks : (s.modAgent a fA).banks = s.banks := by cases a <;> rfl
@[simp] theorem State.modAgent_bankBusy : (s.modAgent a fA).bankBusy = s.bankBusy := by cases a <;> rfl
@[simp] theorem State.modAgent_macros : (s.modAgent a fA).macros = s.macros := by cases a <;> rfl
@[simp] theorem State.modAgent_shadow : (s.modAgent a fA).shadow = s.shadow := by cases a <;> rfl
@[simp] theorem State.modAgent_cores : (s.modAgent a fA).cores = s.cores := by cases a <;> rfl
@[simp] theorem State.modAgent_teams : (s.modAgent a fA).teams = s.teams := by cases a <;> rfl
@[simp] theorem State.modAgent_launches : (s.modAgent a fA).launches = s.launches := by cases a <;> rfl
@[simp] theorem State.modAgent_ctxs : (s.modAgent a fA).ctxs = s.ctxs := by cases a <;> rfl
@[simp] theorem State.modAgent_queues : (s.modAgent a fA).queues = s.queues := by cases a <;> rfl
@[simp] theorem State.modAgent_owners : (s.modAgent a fA).owners = s.owners := by cases a <;> rfl
@[simp] theorem State.modAgent_ops : (s.modAgent a fA).ops = s.ops := by cases a <;> rfl
@[simp] theorem State.modAgent_compactions : (s.modAgent a fA).compactions = s.compactions := by cases a <;> rfl
@[simp] theorem State.modAgent_hub : (s.modAgent a fA).hub = s.hub := by cases a <;> rfl

@[simp] theorem State.draw_now : (s.draw).2.now = s.now := rfl
@[simp] theorem State.draw_checked : (s.draw).2.checked = s.checked := rfl
@[simp] theorem State.draw_cur : (s.draw).2.cur = s.cur := rfl
@[simp] theorem State.draw_agenda : (s.draw).2.agenda = s.agenda := rfl
@[simp] theorem State.draw_nextId : (s.draw).2.nextId = s.nextId := rfl
@[simp] theorem State.draw_mem : (s.draw).2.mem = s.mem := rfl
@[simp] theorem State.draw_poison : (s.draw).2.poison = s.poison := rfl
@[simp] theorem State.draw_rewrites : (s.draw).2.rewrites = s.rewrites := rfl
@[simp] theorem State.draw_stamps : (s.draw).2.stamps = s.stamps := rfl
@[simp] theorem State.draw_epochs : (s.draw).2.epochs = s.epochs := rfl
@[simp] theorem State.draw_scMarks : (s.draw).2.scMarks = s.scMarks := rfl
@[simp] theorem State.draw_marks : (s.draw).2.marks = s.marks := rfl
@[simp] theorem State.draw_l2 : (s.draw).2.l2 = s.l2 := rfl
@[simp] theorem State.draw_caches : (s.draw).2.caches = s.caches := rfl
@[simp] theorem State.draw_icache : (s.draw).2.icache = s.icache := rfl
@[simp] theorem State.draw_partials : (s.draw).2.partials = s.partials := rfl
@[simp] theorem State.draw_tlb : (s.draw).2.tlb = s.tlb := rfl
@[simp] theorem State.draw_clm : (s.draw).2.clm = s.clm := rfl
@[simp] theorem State.draw_dirty : (s.draw).2.dirty = s.dirty := rfl
@[simp] theorem State.draw_copied : (s.draw).2.copied = s.copied := rfl
@[simp] theorem State.draw_lost : (s.draw).2.lost = s.lost := rfl
@[simp] theorem State.draw_banks : (s.draw).2.banks = s.banks := rfl
@[simp] theorem State.draw_bankBusy : (s.draw).2.bankBusy = s.bankBusy := rfl
@[simp] theorem State.draw_macros : (s.draw).2.macros = s.macros := rfl
@[simp] theorem State.draw_shadow : (s.draw).2.shadow = s.shadow := rfl
@[simp] theorem State.draw_groups : (s.draw).2.groups = s.groups := rfl
@[simp] theorem State.draw_threads : (s.draw).2.threads = s.threads := rfl
@[simp] theorem State.draw_cores : (s.draw).2.cores = s.cores := rfl
@[simp] theorem State.draw_teams : (s.draw).2.teams = s.teams := rfl
@[simp] theorem State.draw_launches : (s.draw).2.launches = s.launches := rfl
@[simp] theorem State.draw_ctxs : (s.draw).2.ctxs = s.ctxs := rfl
@[simp] theorem State.draw_queues : (s.draw).2.queues = s.queues := rfl
@[simp] theorem State.draw_owners : (s.draw).2.owners = s.owners := rfl
@[simp] theorem State.draw_ops : (s.draw).2.ops = s.ops := rfl
@[simp] theorem State.draw_compactions : (s.draw).2.compactions = s.compactions := rfl
@[simp] theorem State.draw_hub : (s.draw).2.hub = s.hub := rfl

@[simp] theorem State.drawBit_now : (s.drawBit).2.now = s.now := rfl
@[simp] theorem State.drawBit_checked : (s.drawBit).2.checked = s.checked := rfl
@[simp] theorem State.drawBit_cur : (s.drawBit).2.cur = s.cur := rfl
@[simp] theorem State.drawBit_agenda : (s.drawBit).2.agenda = s.agenda := rfl
@[simp] theorem State.drawBit_nextId : (s.drawBit).2.nextId = s.nextId := rfl
@[simp] theorem State.drawBit_mem : (s.drawBit).2.mem = s.mem := rfl
@[simp] theorem State.drawBit_poison : (s.drawBit).2.poison = s.poison := rfl
@[simp] theorem State.drawBit_rewrites : (s.drawBit).2.rewrites = s.rewrites := rfl
@[simp] theorem State.drawBit_stamps : (s.drawBit).2.stamps = s.stamps := rfl
@[simp] theorem State.drawBit_epochs : (s.drawBit).2.epochs = s.epochs := rfl
@[simp] theorem State.drawBit_scMarks : (s.drawBit).2.scMarks = s.scMarks := rfl
@[simp] theorem State.drawBit_marks : (s.drawBit).2.marks = s.marks := rfl
@[simp] theorem State.drawBit_l2 : (s.drawBit).2.l2 = s.l2 := rfl
@[simp] theorem State.drawBit_caches : (s.drawBit).2.caches = s.caches := rfl
@[simp] theorem State.drawBit_icache : (s.drawBit).2.icache = s.icache := rfl
@[simp] theorem State.drawBit_partials : (s.drawBit).2.partials = s.partials := rfl
@[simp] theorem State.drawBit_tlb : (s.drawBit).2.tlb = s.tlb := rfl
@[simp] theorem State.drawBit_clm : (s.drawBit).2.clm = s.clm := rfl
@[simp] theorem State.drawBit_dirty : (s.drawBit).2.dirty = s.dirty := rfl
@[simp] theorem State.drawBit_copied : (s.drawBit).2.copied = s.copied := rfl
@[simp] theorem State.drawBit_lost : (s.drawBit).2.lost = s.lost := rfl
@[simp] theorem State.drawBit_banks : (s.drawBit).2.banks = s.banks := rfl
@[simp] theorem State.drawBit_bankBusy : (s.drawBit).2.bankBusy = s.bankBusy := rfl
@[simp] theorem State.drawBit_macros : (s.drawBit).2.macros = s.macros := rfl
@[simp] theorem State.drawBit_shadow : (s.drawBit).2.shadow = s.shadow := rfl
@[simp] theorem State.drawBit_groups : (s.drawBit).2.groups = s.groups := rfl
@[simp] theorem State.drawBit_threads : (s.drawBit).2.threads = s.threads := rfl
@[simp] theorem State.drawBit_cores : (s.drawBit).2.cores = s.cores := rfl
@[simp] theorem State.drawBit_teams : (s.drawBit).2.teams = s.teams := rfl
@[simp] theorem State.drawBit_launches : (s.drawBit).2.launches = s.launches := rfl
@[simp] theorem State.drawBit_ctxs : (s.drawBit).2.ctxs = s.ctxs := rfl
@[simp] theorem State.drawBit_queues : (s.drawBit).2.queues = s.queues := rfl
@[simp] theorem State.drawBit_owners : (s.drawBit).2.owners = s.owners := rfl
@[simp] theorem State.drawBit_ops : (s.drawBit).2.ops = s.ops := rfl
@[simp] theorem State.drawBit_compactions : (s.drawBit).2.compactions = s.compactions := rfl
@[simp] theorem State.drawBit_hub : (s.drawBit).2.hub = s.hub := rfl

@[simp] theorem State.addOp_now : (s.addOp O).2.now = s.now := rfl
@[simp] theorem State.addOp_checked : (s.addOp O).2.checked = s.checked := rfl
@[simp] theorem State.addOp_cur : (s.addOp O).2.cur = s.cur := rfl
@[simp] theorem State.addOp_agenda : (s.addOp O).2.agenda = s.agenda := rfl
@[simp] theorem State.addOp_free : (s.addOp O).2.free = s.free := rfl
@[simp] theorem State.addOp_mem : (s.addOp O).2.mem = s.mem := rfl
@[simp] theorem State.addOp_poison : (s.addOp O).2.poison = s.poison := rfl
@[simp] theorem State.addOp_rewrites : (s.addOp O).2.rewrites = s.rewrites := rfl
@[simp] theorem State.addOp_stamps : (s.addOp O).2.stamps = s.stamps := rfl
@[simp] theorem State.addOp_epochs : (s.addOp O).2.epochs = s.epochs := rfl
@[simp] theorem State.addOp_scMarks : (s.addOp O).2.scMarks = s.scMarks := rfl
@[simp] theorem State.addOp_marks : (s.addOp O).2.marks = s.marks := rfl
@[simp] theorem State.addOp_l2 : (s.addOp O).2.l2 = s.l2 := rfl
@[simp] theorem State.addOp_caches : (s.addOp O).2.caches = s.caches := rfl
@[simp] theorem State.addOp_icache : (s.addOp O).2.icache = s.icache := rfl
@[simp] theorem State.addOp_partials : (s.addOp O).2.partials = s.partials := rfl
@[simp] theorem State.addOp_tlb : (s.addOp O).2.tlb = s.tlb := rfl
@[simp] theorem State.addOp_clm : (s.addOp O).2.clm = s.clm := rfl
@[simp] theorem State.addOp_dirty : (s.addOp O).2.dirty = s.dirty := rfl
@[simp] theorem State.addOp_copied : (s.addOp O).2.copied = s.copied := rfl
@[simp] theorem State.addOp_lost : (s.addOp O).2.lost = s.lost := rfl
@[simp] theorem State.addOp_banks : (s.addOp O).2.banks = s.banks := rfl
@[simp] theorem State.addOp_bankBusy : (s.addOp O).2.bankBusy = s.bankBusy := rfl
@[simp] theorem State.addOp_macros : (s.addOp O).2.macros = s.macros := rfl
@[simp] theorem State.addOp_shadow : (s.addOp O).2.shadow = s.shadow := rfl
@[simp] theorem State.addOp_groups : (s.addOp O).2.groups = s.groups := rfl
@[simp] theorem State.addOp_threads : (s.addOp O).2.threads = s.threads := rfl
@[simp] theorem State.addOp_cores : (s.addOp O).2.cores = s.cores := rfl
@[simp] theorem State.addOp_teams : (s.addOp O).2.teams = s.teams := rfl
@[simp] theorem State.addOp_launches : (s.addOp O).2.launches = s.launches := rfl
@[simp] theorem State.addOp_ctxs : (s.addOp O).2.ctxs = s.ctxs := rfl
@[simp] theorem State.addOp_queues : (s.addOp O).2.queues = s.queues := rfl
@[simp] theorem State.addOp_owners : (s.addOp O).2.owners = s.owners := rfl
@[simp] theorem State.addOp_compactions : (s.addOp O).2.compactions = s.compactions := rfl
@[simp] theorem State.addOp_hub : (s.addOp O).2.hub = s.hub := rfl

@[simp] theorem State.midnight_now : (s.midnight n m k j v w).now = s.now := rfl
@[simp] theorem State.midnight_checked : (s.midnight n m k j v w).checked = s.checked := rfl
@[simp] theorem State.midnight_cur : (s.midnight n m k j v w).cur = s.cur := rfl
@[simp] theorem State.midnight_agenda : (s.midnight n m k j v w).agenda = s.agenda := rfl
@[simp] theorem State.midnight_free : (s.midnight n m k j v w).free = s.free := rfl
@[simp] theorem State.midnight_nextId : (s.midnight n m k j v w).nextId = s.nextId := rfl
@[simp] theorem State.midnight_mem : (s.midnight n m k j v w).mem = s.mem := rfl
@[simp] theorem State.midnight_poison : (s.midnight n m k j v w).poison = s.poison := rfl
@[simp] theorem State.midnight_rewrites : (s.midnight n m k j v w).rewrites = s.rewrites := rfl
@[simp] theorem State.midnight_stamps : (s.midnight n m k j v w).stamps = s.stamps := rfl
@[simp] theorem State.midnight_epochs : (s.midnight n m k j v w).epochs = s.epochs := rfl
@[simp] theorem State.midnight_scMarks : (s.midnight n m k j v w).scMarks = s.scMarks := rfl
@[simp] theorem State.midnight_marks : (s.midnight n m k j v w).marks = s.marks := rfl
@[simp] theorem State.midnight_l2 : (s.midnight n m k j v w).l2 = s.l2 := rfl
@[simp] theorem State.midnight_caches : (s.midnight n m k j v w).caches = s.caches := rfl
@[simp] theorem State.midnight_icache : (s.midnight n m k j v w).icache = s.icache := rfl
@[simp] theorem State.midnight_partials : (s.midnight n m k j v w).partials = s.partials := rfl
@[simp] theorem State.midnight_tlb : (s.midnight n m k j v w).tlb = s.tlb := rfl
@[simp] theorem State.midnight_clm : (s.midnight n m k j v w).clm = s.clm := rfl
@[simp] theorem State.midnight_dirty : (s.midnight n m k j v w).dirty = s.dirty := rfl
@[simp] theorem State.midnight_copied : (s.midnight n m k j v w).copied = s.copied := rfl
@[simp] theorem State.midnight_lost : (s.midnight n m k j v w).lost = s.lost := rfl
@[simp] theorem State.midnight_banks : (s.midnight n m k j v w).banks = s.banks := rfl
@[simp] theorem State.midnight_bankBusy : (s.midnight n m k j v w).bankBusy = s.bankBusy := rfl
@[simp] theorem State.midnight_macros : (s.midnight n m k j v w).macros = s.macros := rfl
@[simp] theorem State.midnight_shadow : (s.midnight n m k j v w).shadow = s.shadow := rfl
@[simp] theorem State.midnight_groups : (s.midnight n m k j v w).groups = s.groups := rfl
@[simp] theorem State.midnight_threads : (s.midnight n m k j v w).threads = s.threads := rfl
@[simp] theorem State.midnight_cores : (s.midnight n m k j v w).cores = s.cores := rfl
@[simp] theorem State.midnight_teams : (s.midnight n m k j v w).teams = s.teams := rfl
@[simp] theorem State.midnight_launches : (s.midnight n m k j v w).launches = s.launches := rfl
@[simp] theorem State.midnight_ctxs : (s.midnight n m k j v w).ctxs = s.ctxs := rfl
@[simp] theorem State.midnight_queues : (s.midnight n m k j v w).queues = s.queues := rfl
@[simp] theorem State.midnight_owners : (s.midnight n m k j v w).owners = s.owners := rfl
@[simp] theorem State.midnight_ops : (s.midnight n m k j v w).ops = s.ops := rfl
@[simp] theorem State.midnight_compactions : (s.midnight n m k j v w).compactions = s.compactions := rfl

@[simp] theorem State.setFrameWord_now : (s.setFrameWord n m).now = s.now := rfl
@[simp] theorem State.setFrameWord_checked : (s.setFrameWord n m).checked = s.checked := rfl
@[simp] theorem State.setFrameWord_cur : (s.setFrameWord n m).cur = s.cur := rfl
@[simp] theorem State.setFrameWord_agenda : (s.setFrameWord n m).agenda = s.agenda := rfl
@[simp] theorem State.setFrameWord_free : (s.setFrameWord n m).free = s.free := rfl
@[simp] theorem State.setFrameWord_nextId : (s.setFrameWord n m).nextId = s.nextId := rfl
@[simp] theorem State.setFrameWord_poison : (s.setFrameWord n m).poison = s.poison := rfl
@[simp] theorem State.setFrameWord_rewrites : (s.setFrameWord n m).rewrites = s.rewrites := rfl
@[simp] theorem State.setFrameWord_stamps : (s.setFrameWord n m).stamps = s.stamps := rfl
@[simp] theorem State.setFrameWord_epochs : (s.setFrameWord n m).epochs = s.epochs := rfl
@[simp] theorem State.setFrameWord_scMarks : (s.setFrameWord n m).scMarks = s.scMarks := rfl
@[simp] theorem State.setFrameWord_marks : (s.setFrameWord n m).marks = s.marks := rfl
@[simp] theorem State.setFrameWord_l2 : (s.setFrameWord n m).l2 = s.l2 := rfl
@[simp] theorem State.setFrameWord_caches : (s.setFrameWord n m).caches = s.caches := rfl
@[simp] theorem State.setFrameWord_icache : (s.setFrameWord n m).icache = s.icache := rfl
@[simp] theorem State.setFrameWord_partials : (s.setFrameWord n m).partials = s.partials := rfl
@[simp] theorem State.setFrameWord_tlb : (s.setFrameWord n m).tlb = s.tlb := rfl
@[simp] theorem State.setFrameWord_clm : (s.setFrameWord n m).clm = s.clm := rfl
@[simp] theorem State.setFrameWord_dirty : (s.setFrameWord n m).dirty = s.dirty := rfl
@[simp] theorem State.setFrameWord_copied : (s.setFrameWord n m).copied = s.copied := rfl
@[simp] theorem State.setFrameWord_lost : (s.setFrameWord n m).lost = s.lost := rfl
@[simp] theorem State.setFrameWord_banks : (s.setFrameWord n m).banks = s.banks := rfl
@[simp] theorem State.setFrameWord_bankBusy : (s.setFrameWord n m).bankBusy = s.bankBusy := rfl
@[simp] theorem State.setFrameWord_macros : (s.setFrameWord n m).macros = s.macros := rfl
@[simp] theorem State.setFrameWord_shadow : (s.setFrameWord n m).shadow = s.shadow := rfl
@[simp] theorem State.setFrameWord_groups : (s.setFrameWord n m).groups = s.groups := rfl
@[simp] theorem State.setFrameWord_threads : (s.setFrameWord n m).threads = s.threads := rfl
@[simp] theorem State.setFrameWord_cores : (s.setFrameWord n m).cores = s.cores := rfl
@[simp] theorem State.setFrameWord_teams : (s.setFrameWord n m).teams = s.teams := rfl
@[simp] theorem State.setFrameWord_launches : (s.setFrameWord n m).launches = s.launches := rfl
@[simp] theorem State.setFrameWord_ctxs : (s.setFrameWord n m).ctxs = s.ctxs := rfl
@[simp] theorem State.setFrameWord_queues : (s.setFrameWord n m).queues = s.queues := rfl
@[simp] theorem State.setFrameWord_owners : (s.setFrameWord n m).owners = s.owners := rfl
@[simp] theorem State.setFrameWord_ops : (s.setFrameWord n m).ops = s.ops := rfl
@[simp] theorem State.setFrameWord_compactions : (s.setFrameWord n m).compactions = s.compactions := rfl
@[simp] theorem State.setFrameWord_hub : (s.setFrameWord n m).hub = s.hub := rfl

/-! The entries that an update changes -/

theorem State.group?_setGroup : (s.setGroup n G).group? k = if k = n then some G else s.group? k := FMap.find_put _ _ _ _
theorem State.thread?_setThread : (s.setThread n T).thread? k = if k = n then some T else s.thread? k := FMap.find_put _ _ _ _
theorem State.group?_modGroup : (s.modGroup n fG).group? k = if k = n then (s.group? k).map fG else s.group? k := by
  unfold State.group? State.modGroup; rw [FMap.find_update]
theorem State.thread?_modThread : (s.modThread n fT).thread? k = if k = n then (s.thread? k).map fT else s.thread? k := by
  unfold State.thread? State.modThread; rw [FMap.find_update]
theorem State.ctx?_modCtx : (s.modCtx n fX).ctx? k = if k = n then (s.ctx? k).map fX else s.ctx? k := by
  unfold State.ctx? State.modCtx; rw [FMap.find_update]
theorem State.team?_modTeam : (s.modTeam n fM).team? k = if k = n then (s.team? k).map fM else s.team? k := by
  unfold State.team? State.modTeam; rw [FMap.find_update]
theorem State.core_modCore : (s.modCore n fC).core k = if k = n then fC (s.core k) else s.core k := by
  unfold State.core State.modCore FMap.at; rw [FMap.find_put]; split <;> simp_all [State.core, FMap.at]
@[simp] theorem State.modHub_hub : (s.modHub fH).hub = fH s.hub := rfl
@[simp] theorem State.modCore_core_same : (s.modCore n fC).core n = fC (s.core n) := by simp [State.core_modCore]

/-! The accessors across updates of other fields -/

@[simp] theorem State.setGroup_thread? : (s.setGroup n G).thread? j = s.thread? j := rfl
@[simp] theorem State.setGroup_core : (s.setGroup n G).core j = s.core j := rfl
@[simp] theorem State.setGroup_ctx? : (s.setGroup n G).ctx? j = s.ctx? j := rfl
@[simp] theorem State.setGroup_team? : (s.setGroup n G).team? j = s.team? j := rfl
@[simp] theorem State.setThread_group? : (s.setThread n T).group? j = s.group? j := rfl
@[simp] theorem State.setThread_core : (s.setThread n T).core j = s.core j := rfl
@[simp] theorem State.setThread_ctx? : (s.setThread n T).ctx? j = s.ctx? j := rfl
@[simp] theorem State.setThread_team? : (s.setThread n T).team? j = s.team? j := rfl
@[simp] theorem State.modGroup_thread? : (s.modGroup n fG).thread? j = s.thread? j := rfl
@[simp] theorem State.modGroup_core : (s.modGroup n fG).core j = s.core j := rfl
@[simp] theorem State.modGroup_ctx? : (s.modGroup n fG).ctx? j = s.ctx? j := rfl
@[simp] theorem State.modGroup_team? : (s.modGroup n fG).team? j = s.team? j := rfl
@[simp] theorem State.modThread_group? : (s.modThread n fT).group? j = s.group? j := rfl
@[simp] theorem State.modThread_core : (s.modThread n fT).core j = s.core j := rfl
@[simp] theorem State.modThread_ctx? : (s.modThread n fT).ctx? j = s.ctx? j := rfl
@[simp] theorem State.modThread_team? : (s.modThread n fT).team? j = s.team? j := rfl
@[simp] theorem State.modCore_group? : (s.modCore n fC).group? j = s.group? j := rfl
@[simp] theorem State.modCore_thread? : (s.modCore n fC).thread? j = s.thread? j := rfl
@[simp] theorem State.modCore_ctx? : (s.modCore n fC).ctx? j = s.ctx? j := rfl
@[simp] theorem State.modCore_team? : (s.modCore n fC).team? j = s.team? j := rfl
@[simp] theorem State.modCtx_group? : (s.modCtx n fX).group? j = s.group? j := rfl
@[simp] theorem State.modCtx_thread? : (s.modCtx n fX).thread? j = s.thread? j := rfl
@[simp] theorem State.modCtx_core : (s.modCtx n fX).core j = s.core j := rfl
@[simp] theorem State.modCtx_team? : (s.modCtx n fX).team? j = s.team? j := rfl
@[simp] theorem State.modTeam_group? : (s.modTeam n fM).group? j = s.group? j := rfl
@[simp] theorem State.modTeam_thread? : (s.modTeam n fM).thread? j = s.thread? j := rfl
@[simp] theorem State.modTeam_core : (s.modTeam n fM).core j = s.core j := rfl
@[simp] theorem State.modTeam_ctx? : (s.modTeam n fM).ctx? j = s.ctx? j := rfl
@[simp] theorem State.modLaunch_group? : (s.modLaunch n fL).group? j = s.group? j := rfl
@[simp] theorem State.modLaunch_thread? : (s.modLaunch n fL).thread? j = s.thread? j := rfl
@[simp] theorem State.modLaunch_core : (s.modLaunch n fL).core j = s.core j := rfl
@[simp] theorem State.modLaunch_ctx? : (s.modLaunch n fL).ctx? j = s.ctx? j := rfl
@[simp] theorem State.modLaunch_team? : (s.modLaunch n fL).team? j = s.team? j := rfl
@[simp] theorem State.modOp_group? : (s.modOp n fO).group? j = s.group? j := rfl
@[simp] theorem State.modOp_thread? : (s.modOp n fO).thread? j = s.thread? j := rfl
@[simp] theorem State.modOp_core : (s.modOp n fO).core j = s.core j := rfl
@[simp] theorem State.modOp_ctx? : (s.modOp n fO).ctx? j = s.ctx? j := rfl
@[simp] theorem State.modOp_team? : (s.modOp n fO).team? j = s.team? j := rfl
@[simp] theorem State.modHub_group? : (s.modHub fH).group? j = s.group? j := rfl
@[simp] theorem State.modHub_thread? : (s.modHub fH).thread? j = s.thread? j := rfl
@[simp] theorem State.modHub_core : (s.modHub fH).core j = s.core j := rfl
@[simp] theorem State.modHub_ctx? : (s.modHub fH).ctx? j = s.ctx? j := rfl
@[simp] theorem State.modHub_team? : (s.modHub fH).team? j = s.team? j := rfl
@[simp] theorem State.modQueue_group? : (s.modQueue n fQ).group? j = s.group? j := rfl
@[simp] theorem State.modQueue_thread? : (s.modQueue n fQ).thread? j = s.thread? j := rfl
@[simp] theorem State.modQueue_core : (s.modQueue n fQ).core j = s.core j := rfl
@[simp] theorem State.modQueue_ctx? : (s.modQueue n fQ).ctx? j = s.ctx? j := rfl
@[simp] theorem State.modQueue_team? : (s.modQueue n fQ).team? j = s.team? j := rfl
@[simp] theorem State.modOwner_group? : (s.modOwner n fW).group? j = s.group? j := rfl
@[simp] theorem State.modOwner_thread? : (s.modOwner n fW).thread? j = s.thread? j := rfl
@[simp] theorem State.modOwner_core : (s.modOwner n fW).core j = s.core j := rfl
@[simp] theorem State.modOwner_ctx? : (s.modOwner n fW).ctx? j = s.ctx? j := rfl
@[simp] theorem State.modOwner_team? : (s.modOwner n fW).team? j = s.team? j := rfl
@[simp] theorem State.addUsage_group? : (s.addUsage n m k).group? j = s.group? j := rfl
@[simp] theorem State.addUsage_thread? : (s.addUsage n m k).thread? j = s.thread? j := rfl
@[simp] theorem State.addUsage_core : (s.addUsage n m k).core j = s.core j := rfl
@[simp] theorem State.addUsage_ctx? : (s.addUsage n m k).ctx? j = s.ctx? j := rfl
@[simp] theorem State.addUsage_team? : (s.addUsage n m k).team? j = s.team? j := rfl
@[simp] theorem State.modSlot_core : (s.modSlot a fS).core j = s.core j := by cases a <;> rfl
@[simp] theorem State.modSlot_ctx? : (s.modSlot a fS).ctx? j = s.ctx? j := by cases a <;> rfl
@[simp] theorem State.modSlot_team? : (s.modSlot a fS).team? j = s.team? j := by cases a <;> rfl
@[simp] theorem State.modAgent_core : (s.modAgent a fA).core j = s.core j := by cases a <;> rfl
@[simp] theorem State.modAgent_ctx? : (s.modAgent a fA).ctx? j = s.ctx? j := by cases a <;> rfl
@[simp] theorem State.modAgent_team? : (s.modAgent a fA).team? j = s.team? j := by cases a <;> rfl
@[simp] theorem State.midnight_group? : (s.midnight n m k j v w).group? j = s.group? j := rfl
@[simp] theorem State.midnight_thread? : (s.midnight n m k j v w).thread? j = s.thread? j := rfl
@[simp] theorem State.midnight_core : (s.midnight n m k j v w).core j = s.core j := rfl
@[simp] theorem State.midnight_ctx? : (s.midnight n m k j v w).ctx? j = s.ctx? j := rfl
@[simp] theorem State.midnight_team? : (s.midnight n m k j v w).team? j = s.team? j := rfl
@[simp] theorem State.setFrameWord_group? : (s.setFrameWord n m).group? j = s.group? j := rfl
@[simp] theorem State.setFrameWord_thread? : (s.setFrameWord n m).thread? j = s.thread? j := rfl
@[simp] theorem State.setFrameWord_core : (s.setFrameWord n m).core j = s.core j := rfl
@[simp] theorem State.setFrameWord_ctx? : (s.setFrameWord n m).ctx? j = s.ctx? j := rfl
@[simp] theorem State.setFrameWord_team? : (s.setFrameWord n m).team? j = s.team? j := rfl

end Sys2Proof.Machine
end

