-- ==== Sys2Proof/Laws/Step.lean ====
section
/-! SUPPORT. What one step of the machine can do, once for all steps, and what a step of the part answers. -/
namespace Sys2Proof.Machine

open Sys2Proof

/-- A step runs its turn. -/
theorem step_issue {s r : State} {a : Agent} (h : s.turn = .issue r a) : step s = r.issue a := by unfold step; rw [h]

theorem step_event {s r : State} {i : Instr} (h : s.turn = .event r i) : step s = exec i r := by unfold step; rw [h]

theorem step_pass {s t : State} (h : s.turn = .pass t) : step s = .next t := by unfold step; rw [h]

/-- Everything a step that answers a next state can do. -/
theorem step_cases {s t : State} (h : step s = .next t) :
    (∃ r a, s.turn = .issue r a ∧ r.issue a = .next t) ∨ (∃ r i, s.turn = .event r i ∧ exec i r = .next t) ∨ s.turn = .pass t := by
  unfold step at h
  split at h
  · exact .inl ⟨_, _, ‹_›, h⟩
  · exact .inr (.inl ⟨_, _, ‹_›, h⟩)
  · injection h with h; subst h; exact .inr (.inr ‹_›)

/-- Everything an agent that tries to issue can do: its instruction runs, or the attempt ends by itself. -/
theorem issue_cases {s t : State} {a : Agent} (h : s.issue a = .next t) :
    (∃ r i, s.fetch a = .run r i ∧ exec i r = .next t) ∨ s.fetch a = .done (.next t) := by
  unfold State.issue at h
  split at h
  · exact .inl ⟨_, _, ‹_›, h⟩
  · subst h; exact .inr ‹_›

/-- Everything a step of the part that answers a next state can do. -/
theorem stepOut_next {s t : State} {r : Res State} (h : stepOut s r = .next t) : r = .ok t ∨ r = .error (.wait t) ∨ t = s := by
  unfold stepOut at h
  split at h
  · injection h with h; subst h; exact .inl rfl
  · injection h with h; subst h; exact .inr (.inl rfl)
  · cases h
  · injection h with h; exact .inr (.inr h.symm)

/-- A step of the part stops the machine only with a fault that its operation answers. -/
theorem stepOut_fault {s : State} {r : Res State} {f : Fault} (h : stepOut s r = .fault f) : r = .error (.fault f) := by
  unfold stepOut at h
  split at h
  · cases h
  · cases h
  · injection h with h; subst h; rfl
  · cases h

@[simp] theorem stepOut_ok (s t : State) : stepOut s (.ok t) = .next t := rfl

@[simp] theorem State.tries_checked (s : State) : s.tries.checked = s.now + 1 := rfl
@[simp] theorem State.tries_now (s : State) : s.tries.now = s.now := rfl
@[simp] theorem State.tries_cur (s : State) : s.tries.cur = s.cur := rfl
@[simp] theorem State.tries_agenda (s : State) : s.tries.agenda = s.agenda := rfl
@[simp] theorem State.tries_cores (s : State) : s.tries.cores = s.cores := rfl
@[simp] theorem State.tries_mem (s : State) : s.tries.mem = s.mem := rfl
@[simp] theorem State.tries_clm (s : State) : s.tries.clm = s.clm := rfl

/-- An agent that can still try in this cycle is the one that the order of the checks chooses. -/
theorem State.stillToTry_some {s : State} {a : Agent} (h : s.stillToTry = some a) : ∃ n, s.choose = some (n, a) ∧ n ≤ s.now := by
  unfold State.stillToTry at h
  cases hc : s.choose with
  | none => simp [hc] at h
  | some x =>
    obtain ⟨n, b⟩ := x
    simp [hc, Option.filter] at h
    exact ⟨n, by rw [h.2], h.1⟩

end Sys2Proof.Machine
end

