-- ==== Sys2Proof/Tests/Slice0.lean ====
section
/-! SUPPORT. Tests: ill-formed terms, words of the spec's encodings, single steps with the spec's values, and a witness for each statement
with hypotheses. -/
namespace Sys2Proof.Tests

open Sys2Proof Sys2Proof.Machine

-- One theorem after the other: each evaluation in the kernel needs a large stack.
set_option Elab.async false

/-! Ill-formed terms: one for each check of R131 -/

theorem test_wf_good : (Instr.addExt { d := 10, a := 164, b := 165, ty := 2 }).failing {} = none := by decide +kernel
theorem test_wf_literal_with_operand : (Instr.addExt { d := 10, a := 164, b := 165, ty := 2, lit := some 1 }).failing {} = some 1 := by decide +kernel
theorem test_wf_sub : (Instr.addExt { d := 10, a := 164, b := 165, ty := 2, sub := 5 }).failing {} = some 2 := by decide +kernel
theorem test_wf_type : (Instr.addExt { d := 10, a := 164, b := 165, ty := 6 }).failing {} = some 3 := by decide +kernel
theorem test_wf_rounding : (Instr.addExt { d := 10, a := 164, b := 165, ty := 2, rm := 1 }).failing {} = some 4 := by decide +kernel
theorem test_wf_predicate : (Instr.addExt { d := 10, a := 164, b := 165, ty := 2, pn := true }).failing {} = some 5 := by decide +kernel
theorem test_wf_scope : (Instr.fence { sc := 7 }).failing {} = some 6 := by decide +kernel
theorem test_wf_last_use : (Instr.addExt { d := 10, a := 164, la := true, b := 165, ty := 2 }).failing {} = some 8 := by decide +kernel
theorem test_wf_register : (Instr.mop { d := 9, a := 3, b := 5 }).failing {} = some 9 := by decide +kernel
theorem test_wf_view : (Instr.addExt { u := true, d := 164, a := 164, b := 165, ty := 2, vs := 1 }).failing {} = some 7 := by decide +kernel
theorem test_wf_odd_pair : (Instr.addExt { d := 11, a := 164, b := 165, ty := 4 }).failing {} = some 13 := by decide +kernel
theorem test_wf_reserved : (Instr.addExt { d := 10, a := 164, b := 165, ty := 2, imm := 1 }).failing {} = some 10 := by decide +kernel
theorem test_wf_agent : (Instr.setom { u := true, d := 1, a := 10, ty := 8, imm := 1024, lit := some 0 }).failing {} = some 11 := by decide +kernel
theorem test_wf_step : (Instr.dispatcherVisit).wf {} = false := by decide +kernel
theorem test_word_control_bra : decode {} [0x40200000, 0x0, 0x5000] = .ok (.bra { imm := 5 }) 3 := by decide +kernel
theorem test_word_move_sel : decode {} [0x422080A0, 0x6010000, 0x0] = .ok (.sel { d := 4, a := 5, b := 6, c := 2, ty := 0 }) 3 := by decide +kernel
theorem test_word_group_shfl : decode {} [0x458080A3, 0xA5000000, 0x0] = .ok (.shfl { d := 4, a := 5, b := 165, sub := 3 }) 3 := by decide +kernel
theorem test_word_float_fmul_short : decode {} [0x6618815] = .ok (.fmulShort { d := 3, a := 4, b := 5, p := true }) 1 := by decide +kernel
theorem test_word_float_fdiv : decode {} [0x47006080, 0x500001A, 0x0] = .ok (.fdiv { d := 3, a := 4, b := 5, ty := 6, rm := 2 }) 3 := by decide +kernel
theorem test_word_residue_rnc : decode {} [0x48806000, 0x5000038, 0x0] = .ok (.rnc { d := 3, b := 5, ty := 14 }) 3 := by decide +kernel
theorem test_word_plane_pln : decode {} [0x48F4A080, 0xA6000040, 0x10000] = .ok (.pln { d := 165, a := 4, b := 166, ty := 16, imm := 16 }) 3 := by decide +kernel
theorem test_word_memory_ldl : decode {} [0x49807540, 0x5000008, 0x2] = .ok (.ldlExt { d := 3, a := 170, b := 5, ty := 2, xs := 2 }) 3 := by decide +kernel
theorem test_word_sampler_smp : decode {} [0x49E07540, 0x6000018, 0x0] = .ok (.smp { d := 3, a := 170, b := 6, ty := 6 }) 3 := by decide +kernel
theorem test_word_atomic_cas : decode {} [0x4A607547, 0x5030000, 0x2800] = .ok (.atom { d := 3, a := 170, b := 5, c := 6, sub := 7, ty := 0, sc := 4, imm := 2 }) 3 := by decide +kernel
theorem test_word_barrier_arrive : decode {} [0x4B601540, 0x0, 0x40000] = .ok (.arrive { a := 170, imm := 64 }) 3 := by decide +kernel
theorem test_word_pin_pin : decode {} [0x6BC06000, 0xA5000000, 0x0] = .ok (.pin { u := true, d := 3, b := 165 }) 3 := by decide +kernel
theorem test_word_engine_gth : decode {} [0x4C407540, 0x5000000, 0x0] = .ok (.gth { d := 3, a := 170, b := 5, ty := 0 }) 3 := by decide +kernel
theorem test_word_engine_kick : decode {} [0x6C801540, 0xA5000000, 0x0] = .ok (.kick { u := true, a := 170, b := 165 }) 3 := by decide +kernel
theorem test_word_engine_waitc : decode {} [0x4CA00001, 0x0, 0x1000] = .ok (.waitc { sub := 1, imm := 1 }) 3 := by decide +kernel
theorem test_word_matrix_mma : decode { seq := true } [0x6D400080, 0x5000000, 0x0] = .ok (.mma { u := true, d := 0, a := 4, b := 5, imm := 0 }) 3 := by decide +kernel
theorem test_word_vacate_vpol : decode {} [0x6EA00001, 0x14, 0x0] = .ok (.vpol { u := true, sub := 1, ty := 5 }) 3 := by decide +kernel
theorem test_word_fabric_rld : decode {} [0x4EC080C0, 0x8000000, 0x0] = .ok (.rld { d := 4, a := 6, b := 8, ty := 0 }) 3 := by decide +kernel
theorem test_word_system_sysr : decode {} [0x6F54A000, 0x0, 0x4000] = .ok (.sysr { u := true, d := 165, imm := 4 }) 3 := by decide +kernel
theorem test_word_debug_dbg : decode {} [0x4FE00000, 0xA5000000, 0x0] = .ok (.dbg { b := 165 }) 3 := by decide +kernel

/-! Single steps: a group of 16 lanes in place 0 of core 0, and a sequencer thread, of one team of context 1 -/

/-- Context 1 with a mapped code page, its team, its group and its thread; the group issues. -/
def base : State :=
  let s := (State.reset.placeProgram (.thread 0) []).placeProgram (.group 0 .pc0) []
  { s with agenda := [], cur := .group 0 .pc0, launches := [(0, { ctx := 1, queue := 0, owner := 1, record := { desc := 0, args := 0, teams := 1, phase := 0 } })] }

/-- A state with q registers of the group set. -/
def withQs (qs : List (Nat × W64)) (s : State) : State :=
  s.modGroup 0 (fun g => { g with qs := qs.foldl (fun m (x : Nat × W64) => FMap.put m x.1 { val := x.2 }) g.qs })

/-- A state with a backed row of the group set. -/
def withRow (n : Nat) (data : List W32) (s : State) : State :=
  s.modGroup 0 (fun g => g.setRow n { backed := true, data })

/-- The state after an instruction, if it has a next one. -/
def after (i : Instr) (s : State) : Option State := match exec i s with | .next t => some t | _ => none

/-- A q register after a step. -/
def qOf (o : Option State) (n : Nat) : Option Nat := o.bind (fun t => (t.group? 0).map (fun (g : Group) => (g.q n).val.toNat))

/-- A lane of a row after a step. -/
def laneOf (o : Option State) (n l : Nat) : Option Nat := o.bind (fun t => (t.group? 0).map (fun (g : Group) => ((g.row n).lane l).toNat))

/-- The slot 0 of the group after a step. -/
def slotOf (o : Option State) : Option Slot := o.bind (fun t => (t.group? 0).map (fun (g : Group) => g.s0))

/-- The low word of q7 after a U = 1 instruction on q4 and q6, with a literal B. -/
def u1 (ins : Ext → Instr) (sub ty : Nat) (a b : W64) (c : W64 := 0) : Option Nat :=
  (qOf (after (ins { u := true, d := 167, a := 164, c := 166, sub := BitVec.ofNat 4 sub, ty := BitVec.ofNat 5 ty, lit := some b })
    (withQs [(4, a), (6, c)] base)) 7).map (· % 2 ^ 32)

-- The table "Arithmetic at the edges" (R162).
theorem test_add_i32 : u1 .addExt 0 2 0x7FFFFFF0 0x20 = some 0x80000010 := by decide +kernel
theorem test_add_sat_i8 : u1 .addExt 1 12 100 100 = some 0x7F := by decide +kernel
theorem test_sub_n32 : u1 .subExt 0 3 3 5 = some 0xFFFFFFFE := by decide +kernel
theorem test_sub_sat_n32 : u1 .subExt 1 3 3 5 = some 0 := by decide +kernel
theorem test_mulh : u1 .mulh 0 2 0x40000000 4 = some 1 := by decide +kernel
theorem test_mulh_neg : u1 .mulh 0 2 0xFFFFFFFF 1 = some 0xFFFFFFFF := by decide +kernel
theorem test_mad_hi : u1 .mad 2 3 0xFFFFFFFF 0xFFFFFFFF 1 = some 0xFFFFFFFF := by decide +kernel
theorem test_div_neg : u1 .div 0 2 0xFFFFFFF9 2 = some 0xFFFFFFFD := by decide +kernel
theorem test_div_zero : u1 .div 0 2 9 0 = some 0xFFFFFFFF := by decide +kernel
theorem test_rem_neg : u1 .rem 0 2 0xFFFFFFF9 2 = some 0xFFFFFFFF := by decide +kernel
theorem test_rem_overflow : u1 .rem 0 2 0x80000000 0xFFFFFFFF = some 0 := by decide +kernel
theorem test_abs : u1 .abs 0 2 0 0x80000000 = some 0x80000000 := by decide +kernel
theorem test_abs_sat : u1 .abs 1 2 0 0x80000000 = some 0x7FFFFFFF := by decide +kernel
theorem test_neg : u1 .neg 0 3 0 5 = some 0xFFFFFFFB := by decide +kernel
theorem test_neg_sat : u1 .neg 1 3 0 5 = some 0 := by decide +kernel
-- The examples of R164 and R165.
theorem test_shl : u1 .shlExt 0 2 1 32 = some 0 := by decide +kernel
theorem test_sar : u1 .sarExt 0 2 0x80000000 40 = some 0xFFFFFFFF := by decide +kernel
theorem test_rot_right : u1 .rot 1 0 1 33 = some 0x80000000 := by decide +kernel
theorem test_bfe : u1 .bfe 0 0 0xF00 (8 + 256 * 4) = some 0xF := by decide +kernel
theorem test_bfe_s : u1 .bfe 1 0 0xF00 (8 + 256 * 4) = some 0xFFFFFFFF := by decide +kernel
theorem test_bfe_clips : u1 .bfe 0 0 0xC0000000 (30 + 256 * 8) = some 3 := by decide +kernel
-- The example of R152: lanes 0 to 3 hold 2^24, 1, 1, 1.
def fourLanes : State :=
  (withRow 4 [0x4B800000, 0x3F800000, 0x3F800000, 0x3F800000] base).modSlot (.group 0 .pc0) (fun sl => { sl with mask := 0xF })
theorem test_redg_fadd : qOf (after (.redg { d := 167, b := 4, sub := 6, ty := 6 }) fourLanes) 7 = some 0x4B800001 := by decide +kernel
theorem test_scan_fadd :
    let t := after (.scan { d := 8, b := 4, sub := 6, ty := 6 }) fourLanes
    [0, 1, 2, 3, 4].map (laneOf t 8) = [some 0x4B800000, some 0x4B800000, some 0x4B800000, some 0x4B800001, some 0] := by decide +kernel
-- R143: the code of `trap` in DETAIL; with no HANDLER the record is posted to the driver (R331).
theorem test_trap :
    (after (.trap { imm := 5 }) base).map (fun t => (t.ctx? 1).map (fun (c : Context) => c.faults.map (fun p => (bits p.record.w0 0 8, p.record.detail)))) =
      some (some [(0x11, 5)]) := by decide +kernel
-- R138, R139: a branch that is taken goes to its label; a `brd` with lanes on both sides gives the taken ones to the other slot (R27).
theorem test_bra : (slotOf (after (.bra { imm := 5 }) base)).map (fun (sl : Slot) => sl.pc) = some 0x20014 := by decide +kernel
theorem test_brd :
    (after (.brd { a := 1, imm := 5 }) (base.modGroup 0 (fun g => { g with ms := [(1, { val := 0xF })] }))).bind (fun t => (t.group? 0).map
      (fun (g : Group) => (g.s0.pc, g.s0.mask, g.s1.pc, g.s1.mask))) = some (0x2000C, 0xFFF0, 0x20014, 0xF) := by decide +kernel
-- R141: a nap of 100 cycles.
theorem test_nap : (slotOf (after (.nap { b := 164, u := true }) (withQs [(4, 100)] base))).map (fun (sl : Slot) => sl.park) = some (.nap 101) := by
  decide +kernel
-- R7, R194: a store of one lane writes its bytes, least significant first, and waits for one acknowledgement; a load leaves its row empty.
def oneLane : State := (withRow 4 [0x11223344] (withQs [(4, 0x20100)] base)).modSlot (.group 0 .pc0) (fun sl => { sl with mask := 1 })
theorem test_st :
    (after (.stExt { a := 164, c := 4, xs := 8 }) oneLane).map (fun t => (Mem.readBytes t.mem 0x20100 5, (t.group? 0).map (fun (g : Group) => g.agent.ack))) =
      some ([0x44, 0x33, 0x22, 0x11, 0], some 1) := by decide +kernel
theorem test_ld :
    (after (.ldExt { d := 8, a := 164, xs := 8 }) oneLane).map (fun t => ((t.group? 0).map (fun (g : Group) => (g.row 8).full), t.ops.length)) =
      some (some false, 1) := by decide +kernel
-- R200: an atomic add of 5 to 0.
theorem test_atom :
    (after (.atom { d := 8, a := 164, b := 165, ty := 2 }) (withQs [(5, 5)] oneLane)).map (fun t => Mem.readNat t.mem 0x20100 4) = some 5 := by decide +kernel
-- R344's copy of 8,192 bytes is charged 160 ticks and takes the operation counter to 1.
theorem test_cpy :
    (after (.cpy { u := true, a := 164, b := 165, c := 166 }) (withQs [(4, 0x30000), (5, 0x20000), (6, 8192)] base)).map (fun t =>
      (t.ops.map (fun o => o.2.charge), (t.group? 0).map (fun (g : Group) => g.copies))) = some ([160], some 1) := by decide +kernel
-- R101: H, a group, a thread and 16 banks. R102, R110: a copy of 4,096 bytes costs 96 ticks.
theorem test_vest : qOf (after (.vest { u := true, d := 164, ty := 5 }) base) 4 = some (1024 + 32 + 32 + 16 * 256) := by decide +kernel
theorem test_vcost : qOf (after (.vcost { u := true, d := 164, ty := 5, lit := some 4096 }) base) 4 = some 96 := by decide +kernel
-- R226: `setom` writes an output map of the thread.
theorem test_setom :
    (after (.setom { u := true, d := 1, a := 10, ty := 8, imm := 1024, lit := some 0x400080 })
      { base with cur := .thread 0 }).bind (fun t => (t.thread? 0).map (fun (th : Thread) => th.oms.length)) = some 1 := by decide +kernel
-- R301: CREATE. R311: RELEASE of a resident context halts its cores (R111).
theorem test_create : (after (.create 5 3) base).bind (fun t => (t.ctx? 5).map (fun (c : Context) => (c.owner, c.state))) = some (3, .configured) := by
  decide +kernel
theorem test_release : (after (.release 1) base).map (fun t => ((t.core 0).phase, (t.core 1).phase, (t.core 2).phase)) =
    some (.draining, .draining, .running) := by decide +kernel
-- R320, R321: a cold reset with a partly written image in flash ends in the recovery loader, with no port up.
theorem test_cold_reset : (after (.coldReset true 7 1) (base.modHub (fun h => { h with flashBad := true }))).map (fun t =>
    (t.hub.dawn, t.hub.recovery, t.hub.l2mode, t.hub.portsUp.length, t.groups.length)) = some (0, true, .dawn, 0, 0) := by decide +kernel
/-- Whether a step has a next state. -/
def answers (i : Instr) (s : State) : Bool := (after i s).isSome
/-- Whether a step changes the state: an event that cannot happen leaves it as it is. -/
def isNext (i : Instr) (s : State) : Bool := match exec i s with | .next t => t != s | _ => false

/-! Witnesses: concrete states and operands that meet the hypotheses of the statements -/

/-- Whether the issuing agent's instruction passes its checks and acts, and meets `c`. -/
def meets (h : Hooks) (op : Nat) (short : Bool) (f : Ext) (s : State) (c : Iss → State → Bool := fun _ _ => true) : Bool :=
  match mkIss s op short f with
  | some i => match prepare h i s with | .ok p => p.lost.isNone && !(f.u && i.eff == 0) && (heldTrap h i s).isNone && c i s | .error _ => false
  | none => false

theorem meets_passes {h : Hooks} {op : Nat} {short : Bool} {f : Ext} {s : State} {c : Iss → State → Bool} (hm : meets h op short f s c = true) :
    ∃ i p, Passes h op short f s i p ∧ c i s = true := by
  unfold meets at hm
  split at hm
  · next i hi =>
    split at hm
    · next p hp =>
      simp only [Bool.and_eq_true] at hm
      refine ⟨i, p, ⟨hi, hp, by simpa using hm.1.1.1, by simpa using hm.1.2, ?_⟩, hm.2⟩
      intro h'
      obtain ⟨h1, h2⟩ := h'
      simp [h1, h2] at hm
    · cases hm
  · cases hm

/-- A result that is no error. -/
def isOk {ε α β : Type} (x : α × Except ε β) : Bool := match x.2 with | .ok _ => true | .error _ => false

theorem isOk_iff {ε α β : Type} {x : α × Except ε β} (h : isOk x = true) : ∃ a b, x = (a, .ok b) := by
  obtain ⟨a, b | b⟩ := x
  · cases h
  · exact ⟨a, b, rfl⟩

/-- The thread issues. -/
def seqBase : State := { base with cur := .thread 0 }

/-- Fields of a group-wide operation, of one on rows, and of a short form. -/
def fq : Ext := { u := true, d := 167, a := 164, b := 165, c := 166, ty := 2 }
def fr : Ext := { d := 10, a := 164, b := 165, c := 166, ty := 2 }

-- O9: R46, R50, R51, R54, R106: the conditions of an instruction that reads q4 and q5 and writes q7.
theorem witness_checksPass :
    ∃ i g, mkIss base 0x12 false fq = some i ∧ base.group? i.gi = some g ∧ i.seq = false ∧ (g.slotOf .pc0).owes = none ∧ i.agent = .group i.gi .pc0 ∧
      (i.f.pm ≠ 0 → (g.m i.f.pm.toNat).full = true) ∧ base.searching i.agent = false ∧ ¬ (i.f.u = true ∧ i.eff = 0) ∧
      (∀ x ∈ i.srcs, ∀ u ∈ x.reg.units, base.unitFull i.gi g u = true ∧ g.unitReady u ≤ base.now) ∧
      (∀ r ∈ i.dsts, ∀ u ∈ r.units, base.unitFull i.gi g u = true) ∧ g.agent.late = [] ∧ g.errors = [] ∧ base.lostBank i = none :=
  ⟨_, _, rfl, rfl, by decide +kernel⟩

/-- All of a list of checks hold. -/
def all (l : List Bool) : Bool := l.all id

/-- The state of the last test word: an `add` in the short form where the group fetches. -/
def fetching : State := State.reset.withFetchWord 32 0x02420A14

-- O1
theorem witness_stepRunsDecoded :
    (match fetching.agenda, fetching.slot? (.group 0 .pc0) with
      | .issue a :: rest, some sl =>
        let r : State := { fetching with agenda := rest }
        match ({ r.elapse (max r.now sl.notBefore) with cur := a } : State).fetchWord 0 1 sl.pc with
        | (s1, .ok w0) => match s1.fetchWords 0 1 (sl.pc + 4) (lengthOf w0 - 1) with
          | (s2, .ok ws) => r.canIssue a && fetching.choose.map (fun x => x.2) == some a && (match decode (s2.decEnv a) (w0 :: ws) with | .ok _ _ => true | _ => false)
          | _ => false
        | _ => false
      | _, _ => false) = true := by decide +kernel
-- O2: the words of an `add` with a reserved sub-op.
theorem witness_illegalAtDecode :
    encOf (.addExt { fq with sub := 5 }) = some (.ext 0x12 { fq with sub := 5 }) ∧ checkFields {} 0x12 false { fq with sub := 5 } = some 2 ∧
    ofExt 0x12 { fq with sub := 5 } = some (.addExt { fq with sub := 5 }) ∧
    (match State.reset.withFetchWord 96 ((encode (.addExt { fq with sub := 5 })).foldr (fun w n => w.toNat + 2 ^ 32 * n) 0) with
      | s => (match s.fetchWord 0 1 0x20000 with
        | (s1, .ok w0) => match s1.fetchWords 0 1 0x20004 (lengthOf w0 - 1) with
          | (s2, .ok ws) => decode (s2.decEnv (.group 0 .pc0)) (w0 :: ws) == .illegal 2
          | _ => false
        | _ => false)) = true := by decide +kernel
-- O4, O5
theorem witness_decodeOfEncode : (Instr.addExt { fq with c := 0 }).wf {} = true ∧ decode {} (encode (.addExt { fq with c := 0 })) = .ok (.addExt { fq with c := 0 }) 3 := by
  decide +kernel
-- O8
theorem witness_stepKeepsMemories : (fetching.mem.wf = true ∧ fetching.clm.wf = true) ∧ (match step fetching with | .next _ => true | _ => false) = true :=
  ⟨⟨by decide +kernel, by decide +kernel⟩, by decide +kernel⟩
-- O10: a source that is early, one that is empty and marked, one that is empty; a trap of the body; an empty effective mask.
def fm : Ext := { u := true, d := 167, b := 165, ty := 2 }
def early : State := base.modGroup 0 (fun g => { g with qs := [(5, { val := 1, ready := 9 })] })
def emptied : State := base.modGroup 0 (fun g => { g with qs := [(5, { full := false })] })
def masked : State := base.modGroup 0 (fun g => { g with ms := [(1, { val := 0 })] })
theorem witness_issueOutcomes :
    all [match mkIss early 0x10 false fm with
          | some i => i.srcs.length == 1 && i.f.pm == 0 && !early.searching i.agent && (match prepare {} i early with | .error (.trap t) => t.cause == .sched | _ => false)
          | none => false,
        match mkIss emptied 0x10 false { fm with fb := true } with
          | some i => i.srcs.length == 1 && (match prepare {} i emptied with | .error (.trap t) => t.cause == .fempty | _ => false) | none => false,
        match mkIss emptied 0x10 false fm with
          | some i => i.srcs.length == 1 && (match prepare {} i emptied with | .error (.wait _) => true | _ => false) | none => false,
        meets {} 0x0C false { imm := 5 } base,
        match mkIss masked 0x10 false { fm with pm := 1 } with
          | some i => i.eff == 0 && i.desc.pred && masked.fullFor i (.m 1) && !masked.searching i.agent | none => false] = true := by decide +kernel
-- O11, O12: a row destination and a q destination.
theorem witness_destinationReadsBack :
    all [match mkIss base 0x12 false fr with
          | some i => !i.seq && i.width == 16 && rowsOf i.dsts == rowsOf i.d.toList && i.d == some (.vec 10 .word) | none => false,
        match mkIss base 0x12 false fq with | some i => i.d == some (.q 7) && i.lanes != [] | none => false] = true := by decide +kernel
-- O13
theorem witness_controlAndSpecialRegisters :
    let at5 (v : W64) : State := withQs [(5, v)] base
    let sreg (n : Nat) : Bool := meets {} 0x0E false { u := true, d := 167, imm := BitVec.ofNat 20 n } base
    let h : Hooks := { illegal := fun i s => !fmtLegal ((i.vb s 0).setWidth 32) }
    all [meets {} 0x00 false {} base, meets {} 0x00 true (shortExt false 0x00 {}) base, meets {} 0x01 false { imm := 5 } base, meets {} 0x01 false { u := true, a := 4 } seqBase,
      meets {} 0x04 false { u := true, d := 167 } base,
      meets {} 0x04 false { u := true, d := 167, sub := 1, b := 165 } (at5 8) (fun i s => bits (i.vb s 0) 0 2 == 0),
      meets {} 0x04 false { u := true, d := 167, sub := 1, b := 165 } (at5 2) (fun i s => bits (i.vb s 0) 0 2 != 0),
      meets {} 0x05 false { u := true, b := 165 } (at5 8) (fun i s => bits (i.vb s 0) 0 2 == 0),
      meets {} 0x05 false { u := true, b := 165 } (at5 2) (fun i s => bits (i.vb s 0) 0 2 != 0),
      meets {} 0x09 false {} base, meets {} 0x09 true (shortExt false 0x09 {}) base,
      meets {} 0x0F false { u := true, b := 165 } (at5 5) (fun i s => i.vb s 0 == 5), meets {} 0x0F false { u := true, b := 165 } (at5 0) (fun i s => i.vb s 0 == 0),
      meets h 0x0A false { u := true, b := 165 } (at5 0), meets {} 0x0B false { u := true, d := 167 } base, meets {} 0x0C false { imm := 5 } base,
      sreg 0x05, sreg 0x09, sreg 0x0D, (base.agentState? base.cur).isSome,
      meets {} 0x0E false { u := true, sub := 1, b := 165 } (at5 1) (fun i s => (i.vb s 0).getLsbD 0),
      meets {} 0x0E false { u := true, sub := 1, b := 165 } (at5 0) (fun i s => !(i.vb s 0).getLsbD 0)] = true := by decide +kernel
-- O14
def branching (stack : List StackEntry) : State :=
  (withRow 4 [5, 5, 7] base).modGroup 0 (fun g => { g with ms := [(1, { val := 0xF })], stack })
def deep : List StackEntry := List.replicate 256 { kind := .join, mask := 0xFFFF }
def both (s : State) : State := s.modGroup 0 (fun g => { g with s1 := { status := .live } })
def theGroup (s : State) : Group := (s.group? 0).getD { ctx := 0, team := 0, launch := 0 }
theorem witness_divergenceResults :
    let hJoin : Hooks := { illegal := fun i _ => i.handler }
    let hBrd : Hooks := { illegal := fun i s => splitsHandler i (i.va s 0) }
    let hBrx : Hooks := { illegal := fun i s => splitsHandler i (brxTaken i s).1 }
    let onGroup (c : Iss → Group → Bool) : Iss → State → Bool := fun i s =>
      match s.group? i.gi with | some g => !i.handler && !i.seq && c i g | none => false
    let j : StackEntry := { kind := .join, mask := 0xFFFF }
    let g0 := theGroup (branching [])
    let g1 := theGroup (branching [j])
    let g2 := theGroup (branching [{ kind := .path, mask := 0xF0 }, j])
    all [meets hBrd 0x02 false { a := 1, imm := 5 } (branching [])
          (onGroup (fun i g => g.stackRoom i.slot 0 && (lostReload g.stack (g.brd i.slot 0xF 0x20014 0x2000C).stack).isNone)),
      meets hBrd 0x02 false { a := 1, imm := 5 } (both (branching deep)) (onGroup (fun i g => !g.stackRoom i.slot 0)),
      meets hBrx 0x03 false { b := 4 } (branching []) (onGroup (fun i g => g.stackRoom i.slot 0)),
      meets hBrx 0x03 false { b := 4 } (both (branching deep)) (onGroup (fun i g => !g.stackRoom i.slot 0)),
      meets hJoin 0x06 false { imm := 5 } (branching []) (onGroup (fun i g => g.stackRoom i.slot 1)),
      meets hJoin 0x06 false { imm := 5 } (branching deep) (onGroup (fun i g => !g.stackRoom i.slot 1)),
      meets hJoin 0x07 false {} (branching [j]) (onGroup (fun i g => (g.join i.slot).isSome)),
      meets hJoin 0x07 true (shortExt false 0x07 {}) (branching [j]) (onGroup (fun i g => (g.join i.slot).isSome)),
      meets hJoin 0x07 false {} (branching []) (onGroup (fun i g => (g.join i.slot).isNone)),
      meets hJoin 0x07 true (shortExt false 0x07 {}) (branching []) (onGroup (fun i g => (g.join i.slot).isNone)),
      meets exitHooks 0x08 false {} (branching []) (onGroup (fun i g => (lostReload g.stack (g.exitSlot i.slot).stack).isNone)),
      meets exitHooks 0x08 true (shortExt false 0x08 {}) (branching []) (onGroup (fun _ _ => true)),
      meets exitHooks 0x08 false { u := true } seqBase (fun i _ => i.seq), meets exitHooks 0x08 true (shortExt true 0x08 { u := true }) seqBase (fun i _ => i.seq),
      -- the table: a live path with some, all and none of its lanes taken, a `join` that completes, one that does not, one that matches no J
      g0.s0.status == .live && g0.s0.mask &&& 0xF != 0 && g0.s0.mask &&& 0xF != g0.s0.mask && g0.s1.status == .free,
      (splitJ g1.stack).isSome && (match splitJ g1.stack with | some (ab, j, _) => g1.arrived ab g1.s0.mask == j.mask | none => false),
      (match splitJ g2.stack with | some (ab, j, _) => g2.arrived ab 0xF != j.mask && g2.arrived ab 0xF &&& ~~~j.mask == 0 | none => false),
      (match splitJ g1.stack with | some (ab, j, _) => g1.arrived ab 0x10000 &&& ~~~j.mask != 0 | none => false)] = true := by decide +kernel
-- O15
theorem witness_branchesKeepLanes :
    let g := theGroup base
    (g.slotOf .pc0).status = .live ∧ (∀ k, g.places k ≤ 1) ∧ ∀ e ∈ g.stack, ∀ sl, e.held = some sl → sl.mask = e.mask ∧ sl.status ≠ .free := by
  have h1 : (theGroup base).s1.status = .free := by decide +kernel
  have h2 : (theGroup base).stack = [] := by decide +kernel
  refine ⟨by decide +kernel, fun k => ?_, by simp [h2]⟩
  simp only [Group.places, h1, h2]
  split <;> simp
-- O16 to O19, O21: every operation on rows, group-wide and in its short form.
theorem witness_integerArithmeticResults :
    ((List.range 11).all (fun k => meets {} (0x12 + k) false fr base && meets {} (0x12 + k) false fq base)) = true ∧
    ([0x12, 0x13, 0x14, 0x19, 0x1A].all (fun k => meets {} k true (shortExt false k { d := 10, a := 52, b := 53 }) base)) = true := by decide +kernel
theorem witness_logicAndShiftResults :
    ((List.range 12).all (fun k => meets {} (0x1D + k) false { fr with ty := 0 } base)) = true ∧
    ([0x1D, 0x1E, 0x1F, 0x22, 0x23, 0x24].all (fun k => meets {} k true (shortExt false k { d := 10, a := 52, b := 53 }) base)) = true := by decide +kernel
theorem witness_moveCompareAndGroupResults :
    all [meets {} 0x10 false fr base, meets {} 0x10 true (shortExt false 0x10 { d := 10, b := 53 }) base, meets {} 0x11 false { fr with c := 1 } base,
      meets {} 0x2A false { fr with ty := 4 } base, meets {} 0x2B false { fr with c := 3 } base, meets {} 0x29 false { fr with d := 1 } base (fun i _ => !i.seq),
      meets {} 0x29 false { u := true, d := 4, a := 5, b := 6, ty := 2 } seqBase (fun i _ => i.seq),
      meets {} 0x2C false { fr with a := 4 } base, meets {} 0x2C false { fq with a := 4, sub := 4, ty := 0 } base, meets {} 0x2D false { d := 167, b := 4 } base,
      meets {} 0x2E false { d := 167, b := 4, ty := 2 } base, meets {} 0x2F false { d := 10, b := 4, ty := 2 } base, meets {} 0x30 false { u := true, d := 167, b := 1, sub := 8 } base,
      meets {} 0x30 false { d := 2, a := 1, b := 1 } base (fun i _ => i.d == some (.mask 2))] = true := by decide +kernel
theorem witness_floatResults :
    ((List.range 18).all (fun k => k == 17 || meets {} (0x31 + k) false { fr with ty := 6, d := if k == 6 then 1 else 10 } base)) = true ∧
    ([0x31, 0x32, 0x33, 0x35, 0x36].all (fun k => meets {} k true (shortExt false k { d := 10, a := 52, b := 53 }) base)) = true ∧
    meets { illegal := fun i _ => dot2Fmt i != 8 && dot2Fmt i != 9 } 0x42 false { fr with ty := 6, xs := 8 } base = true ∧
    meets {} 0x43 false { fr with ty := 6 } base = true := by decide +kernel
-- O20: a NaN result, an exact value, ordered and unordered pairs.
theorem witness_floatProperties :
    isNaN .f32 (fpAdd .f32 .rne 0x7F800000 0xFF800000) = true ∧ unpack .f32 0x3F800000 = .fin false 0x800000 (-23) ∧
    isNaN .f32 0x3F800000 = false ∧ isNaN .f32 0x7FC00000 = true := by decide +kernel
theorem witness_residueAndPlaneResults :
    let rns : Hooks := { illegal := fun i _ => !isRns i.planeFmt }
    all [meets rns 0x44 false { fr with ty := 14 } base, meets rns 0x45 false { fr with ty := 15 } base, meets rns 0x46 false { fr with ty := 14 } base,
      meets { illegal := fun i _ => tyPlanes i.planeFmt == 0 } 0x47 false { d := 165, a := 4, b := 166, ty := 16, imm := 16 } base,
      meets { illegal := fun i _ => tyPlanes i.planeFmt == 0 } 0x48 false { d := 10, a := 164, b := 170, ty := 16 } base,
      meets { illegal := fun i _ => tyPlanes i.planeFmt == 0 } 0x49 false { d := 10, a := 164, b := 4, c := 12, ty := 16 } base] = true := by decide +kernel
-- O22
theorem witness_residueAndPlaneProperties : (∀ c < 3, 0 < rnsMod 14 c) ∧ (∀ c < 3, 0 < rnsMod 15 c) ∧ tyPlanes 16 = 4 ∧ tyPlanes 17 = 2 ∧ tyPlanes 18 = 1 := by
  decide +kernel

/-- The cause of a result that is an error. -/
def causeOf {α β : Type} (x : α × Except Trap β) : Option Cause := match x.2 with | .ok _ => none | .error t => some t.cause

/-- One lane, with the address of a place in the data page, in core-local memory or in no page, in q4. -/
def oneAt (a : W64) : State := withRow 4 [0] (withRow 5 [0] (withQs [(4, a), (5, 5)] oneLane))

-- O23
theorem witness_addressesAndHome :
    all [base.partials == [], base.caches == [], base.poison == [], base.homePasses 1 0x20100 false, !base.homePasses 1 0x50000 false,
      base.homePasses 1 0x20100 true, !base.homePasses 1 0x50000 true] = true := by decide +kernel
-- O24, O25: an address in a mapped page, one in no page; a state in which no byte is held in an update-only line.
def accesses (h : Hooks) (op : Nat) (short : Bool) (f : Ext) (rights : Iss → State → Bool × FMap W64) : Bool :=
  let tr (i : Iss) (s : State) := s.translateLanes i.core i.ctx (if (rights i s).1 then { w := true } else { r := true })
    (if (rights i s).1 then .store else .load) (rights i s).2 (tyBits f.ty.toNat / 8)
  meets h op short f (oneAt 0x20100) (fun i s => i.lanes == [0] && isOk (tr i s)) &&
  meets h op short f (oneAt 0x900000) (fun i s => i.lanes == [0] && (causeOf (tr i s)).isSome)
def flatOf (w : Bool) (i : Iss) (s : State) : Bool × FMap W64 := (w, i.lanes.map (fun l => (l, i.addr s l)))
def tileOf (w : Bool) (i : Iss) (s : State) : Bool × FMap W64 := (w, i.lanes.map (fun l => (l, i.tileAddr s l)))
theorem witness_loadStoreResults :
    all [accesses {} 0x4A false { d := 8, a := 164, xs := 8 } (flatOf false),
      accesses {} 0x4A true (shortExt false 0x4A { d := 8, a := 52 }) (flatOf false), accesses {} 0x4E false { d := 8, a := 164, xs := 8 } (flatOf false),
      accesses {} 0x50 false { d := 8, a := 164, b := 4, imm := 16 } (tileOf false), accesses ackHooks 0x4B false { c := 4, a := 164, xs := 8 } (flatOf true),
      accesses ackHooks 0x4B true (shortExt false 0x4B { d := 4, a := 52 }) (flatOf true), accesses ackHooks 0x51 false { c := 4, a := 164, b := 4, imm := 16 } (tileOf true)] = true := by
  decide +kernel
theorem witness_loadStoreFrames :
    all [(oneAt 0x20100).partials == [], (after (.ldExt { d := 8, a := 164, xs := 8 }) (oneAt 0x20100)).isSome,
      (after (.ldc { d := 8, a := 164, xs := 8 }) (oneAt 0x20100)).isSome, (after (.ldt { d := 8, a := 164, b := 4, imm := 16 }) (oneAt 0x20100)).isSome,
      (after (.stExt { c := 4, a := 164, xs := 8 }) (oneAt 0x20100)).isSome, (after (.stt { c := 4, a := 164, b := 4, imm := 16 }) (oneAt 0x20100)).isSome,
      (base.team? 0).isSome, (match base.team? 0 with | some t => t.baseOn 0 % 64 == 0 | none => false)] = true := by decide +kernel
-- O26: the first word of the team's block, the first past it, and one in an untouched line of a region.
theorem witness_clmLoadStoreResults :
    let lanes (i : Iss) (s : State) (t : Team) := resolveLanes t i.core 4 (i.lanes.map (fun l => (l, i.addr s l)))
    let ready (store : Bool) (i : Iss) (s : State) : Bool := match s.team? i.team with
      | some t => (lanes i s t).2 == [] && (lanes i s t).1 != [] && (lanes i s t).1.all (fun a => s.clmGate i.team t a.core a.o 4 store == .ok)
      | none => false
    let fails (store : Bool) (i : Iss) (s : State) (t : Team) : Option Trap :=
      let ro := if store then s.readOnlyLanes i.team t 4 (lanes i s t).1 else []
      kindTrap 0 (byLane (((lanes i s t).2 ++ ro).map (fun x => (x, if store then .store else .load)) ++
        (s.fillFails t (s.untouchedLines i.team t 4 (lanes i s t).1)).2.map (fun x => (x, .regionFill))))
    let traps (store : Bool) (i : Iss) (s : State) : Bool := match s.team? i.team with | some t => (fails store i s t).isSome | none => false
    let asks (store : Bool) (i : Iss) (s : State) : Bool := match s.team? i.team with
      | some t => (fails store i s t).isNone && s.untouchedLines i.team t 4 (lanes i s t).1 != [] | none => false
    let region (s : State) : State :=
      s.modTeam 0 (fun t => { t with regions := [(1, { core := 0, off := 256, lines := 2, va := 0x20140, we := true, state := [(1, 0xF)] })] })
    let four (h : Hooks) (op : Nat) (st short : Bool) (f : Ext) : Bool :=
      meets h op short f (oneAt 0) (ready st) && meets h op short f (oneAt 4096) (traps st) && meets h op short f (region (oneAt 256)) (asks st)
    all [four {} 0x4C false false { d := 8, a := 164, xs := 8 }, four {} 0x4C false true (shortExt false 0x4C { d := 8, a := 52 }),
      four stlHooks 0x4D true false { c := 4, a := 164, xs := 8 }, four stlHooks 0x4D true true (shortExt false 0x4D { d := 4, a := 52 })] = true := by
  decide +kernel
-- O27: no lane; a 1 x 1 texture, one with an odd base, one in no page, a border texture beside which the point lies; NaN and finite coordinates.
theorem witness_samplerResults :
    let h : Hooks := { illegal := fun i s => !i.lanes.isEmpty && (bits (i.sampler s).d 59 5 != 0 || (i.sampler s).amode == 3) }
    let f : Ext := { d := 8, a := 164, b := 4, ty := 6 }
    let withD (d : W64) (s : State) : State := s.modGroup 0 (fun g => { g with qs := FMap.put g.qs 5 { val := d } })
    let at' (a : W64) : State := withD 0x400000000 (oneAt a)
    let border : State := withRow 4 [0x40000000] (withD (0x400000000 ||| 2 <<< 56) (oneAt 0x20100))
    let x (i : Iss) (s : State) (l : Nat) : Nat := (bits (i.vb s l) 0 32).toNat
    let y (i : Iss) (s : State) (l : Nat) : Nat := (bits (i.read s i.bRun.head? l) 0 32).toNat
    let las (i : Iss) (s : State) : List (Nat × W64) := i.lanes.flatMap (fun l => ((i.sampler s).texels (x i s l) (y i s l)).filterMap
      (fun c => ((i.sampler s).texAddr c).map (fun a => (l, a))))
    let even (i : Iss) (s : State) : Bool := (i.sampler s).base.toNat % (i.sampler s).e == 0 && (i.sampler s).pitch % (i.sampler s).e == 0
    let d (filt : W64) : Sampler := { base := 0x20100, d := 0x400000000 ||| filt <<< 58, e := 4, ty := 6 }
    all [meets h 0x4F false { f with pm := 1 } ((at' 0x20100).modGroup 0 (fun g => { g with ms := [(1, { val := 0 })] })) (fun i _ => i.lanes == []),
      meets h 0x4F false f (at' 0x20100) (fun i s => i.lanes == [0] && even i s && las i s == [(0, 0x20100)] && (match i.texelPages s (las i s) with
        | (_, pas, bad) => pas == [(0x20100, 0x20100)] && bad == [])),
      meets h 0x4F false f border (fun i s => i.lanes == [0] && even i s && las i s == []),
      meets h 0x4F false f (at' 0x20101) (fun i s => i.lanes == [0] && (i.sampler s).base.toNat % (i.sampler s).e != 0),
      meets h 0x4F false f (at' 0x900000) (fun i s => i.lanes == [0] && even i s && (match i.texelPages s (las i s) with
        | (_, _, bad) => (laneTrap .load 0 bad).isSome)),
      notFinite32 0x7FC00000 && !notFinite32 0 && !(d 0).d.getLsbD 58 && (d 1).d.getLsbD 58] = true := by decide +kernel
-- O28
theorem witness_fenceResults :
    let hFence : Hooks :=
      { hold := fun i s => (i.f.sub != 1 && releaseHeld i s i.scope) || (i.f.sub != 2 && s.loadsOut i.agent), sync := true
        takes := fun i e => i.f.sub != 1 && i.scope == 6 && e.discarded }
    all [meets hFence 0x55 false { sc := 2 } base, meets hFence 0x55 false { sub := 1, sc := 2 } base, meets hFence 0x55 false { sub := 2, sc := 6 } base,
      meets { hold := fun i s => (i.state s).ack != 0, sync := true } 0x56 false { xs := 15 } base,
      meets {} 0x52 false { a := 164, xs := 8 } (oneAt 0x900000) (fun _ s => s.partials == [])] = true := by decide +kernel
-- O29: one lane at an aligned, translated global address, where no reduction is held; codes of a location at which `red` and `red` of the same kind meet.
theorem witness_atomicResults :
    let s0 : State := { oneAt 0x20100 with tlb := [{ core := 0, ctx := 1, va := 0x20000, size := 0x10000, pa := 0x20000, r := true, w := true, x := true, frames := [(2, 0x8001)] }] }
    let fine (i : Iss) (s : State) : Bool := (s.team? i.team).isSome && i.lanes == [0] && (i.va s 0).toNat % 4 == 0 && clmTag (i.va s 0) == none &&
      (match s.translate i.core i.ctx (i.va s 0) { r := true, w := true } with | (s', .ok pa) => s' == s && pa == 0x20100 | _ => false) &&
      s.partials == [] && s.homePasses i.ctx 0x20100 true && s.poison == []
    all [meets (atomHooks false) 0x53 false { d := 8, a := 164, b := 165, ty := 2 } s0 fine, meets ackHooks 0x54 false { a := 164, b := 165, ty := 2 } s0 fine] = true := by
  decide +kernel

-- O30: a region of two lines at offset 256, a control word without lines, an index with and without a region.
def someRegion : Region := { core := 0, off := 256, lines := 2, va := 0x20140, we := true, state := [(1, 0xF)] }
def mapped (rs : List (Nat × Region)) (a b : W64) : State := (withQs [(4, a), (5, b)] base).modTeam 0 (fun t => { t with regions := rs })
theorem witness_mappedRegionResults :
    let f : Ext := { u := true, a := 164, b := 165 }
    let fb : Ext := { u := true, b := 165 }
    let ctl : W64 := 0x30_0020_0100 ||| 1 <<< 40
    let found (n : Bool) : Iss → State → Bool := fun i s => match s.team? i.team with | some t => (FMap.find t.regions (i.vb s 0).toNat).isSome == n | none => false
    all [meets {} 0x57 false f (mapped [] 0x20140 (0x10_0020_0100 ||| 1 <<< 40)) (fun i s => match s.team? i.team with
        | some t =>
          let c := i.vb s 0
          bits c 44 20 == 0 && bits c 37 3 == 0 && bits c 33 3 == 0 && (bits c 20 13).toNat == 2 && bits c 0 6 == 0 && bits (i.va s 0) 0 6 == 0 &&
          t.regions == [] && t.resolve i.core ((bits c 0 20).setWidth 64) 128 == some (0, 256)
        | none => false),
      meets {} 0x57 false f (mapped [] 0x20140 (0x10_0000_0100 ||| 1 <<< 40)) (fun i s => (s.team? i.team).isSome && (bits (i.vb s 0) 20 13).toNat == 0),
      meets {} 0x57 false f (mapped [] 0x20140 ctl) (fun i s => (s.team? i.team).isSome && bits (i.vb s 0) 37 3 != 0),
      meets (writeBackHooks false) 0x59 false fb (mapped [] 0 1) (found false), meets (writeBackHooks true) 0x58 false fb (mapped [] 0 1) (found false),
      meets (writeBackHooks false) 0x59 false fb (mapped [(1, someRegion)] 0 1) (found true),
      meets (writeBackHooks true) 0x58 false fb (mapped [(1, someRegion)] 0 1) (found true)] = true := by decide +kernel
-- O31: the object at offset 64; `waitb` for either parity; a slot that waits for a parity that the object no longer has, and one that is woken.
theorem witness_barrierResults :
    let at' (store : Bool) (more : Iss → State → BarObj → Bool) : Iss → State → Bool := fun i s => match i.object s store with
      | .ok (t, core, o) => core == 0 && o == 64 && s.clmGate i.team t core o 16 store == .ok && s.lostLine t core o 16 == none && more i s (s.barObj t core o)
      | .error _ => false
    let yes : Iss → State → BarObj → Bool := fun _ _ _ => true
    let s0 (b : W64) : State := withQs [(4, 0), (5, b)] base
    let f : Ext := { u := true, a := 164, b := 165, imm := 64 }
    let parked (p : Park) : State := base.modSlot (.group 0 .pc0) (fun sl => { sl with park := p })
    all [meets { delta := objDelta } 0x5A false f (s0 4) (at' true yes), meets { delta := objDelta, sync := true } 0x5B false { f with xs := 1 } (s0 4) (at' true yes),
      meets { hold := fun i s => (i.state s).ack != 0, delta := objDelta, sync := true } 0x5D false { u := true, a := 164, imm := 64 } (s0 0) (at' true yes),
      meets { sync := true } 0x5C false f (s0 1) (at' false (fun i s b => b.phase != (i.vb s 0).getLsbD 0)),
      meets { sync := true } 0x5C false f (s0 0) (at' false (fun i s b => b.phase == (i.vb s 0).getLsbD 0 && !i.seq && !i.f.s)),
      isNext (.waitbWake (.group 0 .pc0)) (parked (.woken 64 3)), isNext (.waitbWake (.group 0 .pc0)) (parked (.waitb 64 true 3)),
      (BarObj.ofNat 0xFFFFFFFF).expect < 65536 && (BarObj.ofNat 0xFFFFFFFF).arrived < 65536] = true := by decide +kernel

/-! Reads of the hub through a cached translation of one frame, for witnesses that read a whole deferred list -/

/-- The one cached translation is the hub's, of a 64 KiB page that the context may read, whose entry it holds; no line is poisoned or update-only. -/
def calmPage (s : State) (ctx : Nat) (t : TlbEntry) (word : Nat) : Bool :=
  s.tlb == [t] && t.core == hubCore && t.ctx == ctx && t.size == 65536 && t.pa % 65536 == 0 && decide (t.va + 65536 ≤ 2 ^ 52) && t.r &&
  t.frames == [(t.pa / 65536, word)] && framePasses s ctx word false && s.homePasses ctx t.pa false && s.partials == [] && s.poison == []

/-- Whether the home slice of an address holds its line. -/
def inL2 (s : State) (ctx pa : Nat) : Bool := (FMap.find s.l2 (l2Key (s.homeSlice ctx pa) (pa / 64))).isSome

/-- Whether it does, is the same for every address of a line. -/
theorem inL2_line (s : State) (ctx pa : Nat) : inL2 s ctx (pa / 64 * 64) = inL2 s ctx pa := by
  have h : channelOf (pa / 64 * 64) = channelOf pa := by
    unfold channelOf
    rw [show pa / 64 * 64 / 2 ^ 8 = pa / 2 ^ 8 by omega, show pa / 64 * 64 / 2 ^ 16 = pa / 2 ^ 16 by omega,
      show pa / 64 * 64 / 2 ^ 24 = pa / 2 ^ 24 by omega, show pa / 64 * 64 / 2 ^ 32 = pa / 2 ^ 32 by omega]
  unfold inL2 State.homeSlice sliceOf
  rw [h, show pa / 64 * 64 / 64 = pa / 64 by omega]

theorem hubRead_calm {s : State} {ctx word : Nat} {t : TlbEntry} {va : W64} (h : calmPage s ctx t word = true) (h1 : t.va ≤ va.toNat)
    (h2 : va.toNat < t.va + 65536) (h3 : va.toNat % 8 = 0) (hl : inL2 s ctx (t.pa + (va.toNat - t.va)) = true) : s.hubRead ctx va 8 = (s, .ok (Mem.readNat s.mem (t.pa + (va.toNat - t.va)) 8)) := by
  simp only [calmPage, Bool.and_eq_true, beq_iff_eq, decide_eq_true_eq] at h
  obtain ⟨⟨⟨⟨⟨⟨⟨⟨⟨⟨⟨e1, e2⟩, e3⟩, e4⟩, e5⟩, e6⟩, e7⟩, e8⟩, e9⟩, e10⟩, e11⟩, e12⟩ := h
  have hf : (t.pa + (va.toNat - t.va)) / 65536 = t.pa / 65536 := by omega
  have hn : ¬ (2 ^ 52 ≤ va.toNat) := by omega
  have ht : s.tlb.find? (fun t => t.core == hubCore && t.ctx == ctx && decide (t.va ≤ va.toNat) && decide (va.toNat < t.va + t.size)) = some t := by
    rw [e1]; simp [e2, e3, e4, h1, h2]
  have hw : FMap.find t.frames (t.pa / 65536) = some word := by rw [e8]; simp [FMap.find]
  have hb : ({ t with frames := FMap.put t.frames (t.pa / 65536) word } == t) = true := by rw [e8]; simp [FMap.put, ← e8]
  have hx : s.translate hubCore ctx va { r := true } = (s, .ok (t.pa + (va.toNat - t.va))) := by
    unfold State.translate
    simp only [hn, if_false, ht, hf, hw, Option.getD_some, hb, if_true]
    simp [e7, e9]
  have hp : FMap.find s.poison ((t.pa + (va.toNat - t.va)) / 64) = none := by rw [e12]; rfl
  have hr : s.recall ((t.pa + (va.toNat - t.va)) / 64) = s := by unfold State.recall; rw [e11]; rfl
  have hh : s.homePasses ctx (t.pa + (va.toNat - t.va)) false = true := by rw [← e10]; unfold State.homePasses; rw [hf]
  obtain ⟨x, hx'⟩ := Option.isSome_iff_exists.mp hl
  unfold State.hubRead State.homeRead State.l2Touch
  simp only [h3, ne_eq, not_true_eq_false, if_false, hx, hh, hp, hr, hx', Bool.not_true, Bool.false_eq_true]

theorem hubWords_calm {s : State} {ctx word : Nat} {t : TlbEntry} (h : calmPage s ctx t word = true) : ∀ (n : Nat) (va : W64),
    t.va ≤ va.toNat → va.toNat + 8 * n ≤ t.va + 65536 → va.toNat % 8 = 0 →
    (∀ k, k < n → inL2 s ctx (t.pa + (va.toNat + 8 * k - t.va)) = true) →
    ∃ ws : List W64, s.hubWords ctx va n = (s, .ok ws) ∧ ∀ k, k < n → ws[k]? = some (BitVec.ofNat 64 (Mem.readNat s.mem (t.pa + (va.toNat + 8 * k - t.va)) 8)) := by
  intro n
  induction n with
  | zero => intro va _ _ _ _; exact ⟨[], rfl, fun k hk => by omega⟩
  | succ n ih =>
    intro va h1 h2 h3 hl
    have hb := h
    simp only [calmPage, Bool.and_eq_true, decide_eq_true_eq] at hb
    have hlim : va.toNat + 8 ≤ 2 ^ 52 := by omega
    have e : (va + 8).toNat = va.toNat + 8 := by
      rw [BitVec.toNat_add, Nat.mod_eq_of_lt]
      · rfl
      · show va.toNat + 8 < 2 ^ 64; omega
    obtain ⟨ws, hw, hk⟩ := ih (va + 8) (by omega) (by omega) (by omega)
      (fun k hk => by rw [e]; have := hl (k + 1) (by omega); rwa [show va.toNat + 8 * (k + 1) = va.toNat + 8 + 8 * k by omega] at this)
    refine ⟨BitVec.ofNat 64 (Mem.readNat s.mem (t.pa + (va.toNat - t.va)) 8) :: ws, ?_, ?_⟩
    · simp only [State.hubWords, hubRead_calm h h1 (by omega) h3 (by simpa using hl 0 (by omega)), hw]
    · intro k hk'
      match k with
      | 0 => rfl
      | k + 1 =>
        rw [List.getElem?_cons_succ, hk k (by omega), e]
        simp only [Nat.mul_add, Nat.mul_one, Nat.add_comm (8 * k) 8, Nat.add_assoc]

theorem readNat_blank {m : Mem} : ∀ (n a : Nat), (∀ p ∈ m, p.1 < a ∨ a + n ≤ p.1) → Mem.readNat m a n = 0
  | 0, _, _ => rfl
  | n + 1, a, h => by
    have h0 : Mem.read m a = 0 := by
      unfold Mem.read FMap.at
      have : ∀ m : Mem, (∀ p ∈ m, p.1 < a ∨ a + (n + 1) ≤ p.1) → FMap.find m a = none := by
        intro m
        induction m with
        | nil => intro _; rfl
        | cons p m ih =>
          intro h
          obtain ⟨k, v⟩ := p
          have := h (k, v) (by simp)
          unfold FMap.find
          rw [if_neg (by simp only at this; omega)]
          exact ih (fun p hp => h p (by simp [hp]))
      rw [this m h]; rfl
    simp [Mem.readNat, h0, readNat_blank n (a + 1) (fun p hp => by have := h p hp; omega)]

/-- A state whose deferred list holds one word, at its head, and can be read through the hub's cached translation. -/
def listOk (s : State) (x : W64) : Bool :=
  calmPage s 1 { core := hubCore, ctx := 1, va := 0x20000, size := 0x10000, pa := 0x20000, r := true, w := true, x := true, frames := [(2, 0x8001)] } 0x8001 &&
  (s.ctx? 1).map (fun (c : Context) => c.defer) == some 0x22000 && Mem.readNat s.mem 0x22000 8 == x.toNat &&
  s.mem.all (fun p => decide (p.1 < 0x22008) || decide (0x24000 ≤ p.1)) && (List.range 128).all (fun k => inL2 s 1 (0x22000 + 64 * k))

theorem deferList_head {s : State} {x : W64} (h : listOk s x = true) :
    ∃ ws : List W64, s.deferList 1 = (s, some ws) ∧ ws[0]? = some x ∧ ws[1]? = some 0 ∧ (∀ y, y ≠ x → y ≠ 0 → y ∉ ws) := by
  simp only [listOk, Bool.and_eq_true, beq_iff_eq, List.all_eq_true, Bool.or_eq_true, decide_eq_true_eq] at h
  obtain ⟨⟨⟨⟨h1, h2⟩, h3⟩, h4⟩, h5⟩ := h
  obtain ⟨c, hc, hd⟩ := Option.map_eq_some_iff.mp h2
  obtain ⟨ws, hw, hk⟩ := hubWords_calm h1 1024 c.defer (by rw [hd]; decide) (by rw [hd]; decide) (by rw [hd]; decide) (fun k hlt => by
    rw [hd]
    have := h5 (k / 8) (List.mem_range.mpr (by omega))
    rw [← inL2_line]
    rwa [show 0x22000 + 64 * (k / 8) = (0x20000 + ((0x22000#64).toNat + 8 * k - 0x20000)) / 64 * 64 by
      show _ = (0x20000 + (0x22000 + 8 * k - 0x20000)) / 64 * 64; omega] at this)
  have hk' : ∀ k, k < 1024 → ws[k]? = some (if k = 0 then x else 0) := by
    intro k hlt
    rw [hk k hlt, hd]
    show some (BitVec.ofNat 64 (Mem.readNat s.mem (0x20000 + (0x22000 + 8 * k - 0x20000)) 8)) = _
    by_cases h0 : k = 0
    · subst h0; rw [if_pos rfl]; show some (BitVec.ofNat 64 (Mem.readNat s.mem 0x22000 8)) = _; rw [h3]; simp
    · rw [if_neg h0, readNat_blank _ _ (fun p hp => by have := h4 p hp; omega)]; rfl
  refine ⟨ws, by simp only [State.deferList, hc, hw], by simpa using hk' 0 (by omega), by simpa using hk' 1 (by omega), fun y hy hz hm => ?_⟩
  obtain ⟨k, hlt, he⟩ := List.getElem_of_mem hm
  have hlen : k < 1024 := by
    have hl : ∀ (n : Nat) (s s' : State) (va : W64) (ws : List W64), s.hubWords 1 va n = (s', .ok ws) → ws.length = n := by
      intro n
      induction n with
      | zero => intro s s' va ws h; simp only [State.hubWords, Prod.mk.injEq, Except.ok.injEq] at h; rw [← h.2]; rfl
      | succ n ih =>
        intro s s' va ws h
        simp only [State.hubWords] at h
        split at h
        · cases h
        · split at h
          · cases h
          · next h' => cases h; simp [ih _ _ _ _ h']
    have := hl 1024 s s c.defer ws hw
    omega
  have := hk' k hlen
  rw [List.getElem?_eq_getElem hlt, he] at this
  split at this <;> simp_all

theorem slotWith_head {ws : List W64} {x : W64} (k : Nat) (h : ws[k]? = some x) : (slotWith (some ws) x).isSome = true := by
  simp only [slotWith, Option.bind_some, List.findIdx?_isSome, List.any_eq_true]
  exact ⟨x, List.mem_of_getElem? h, by simp⟩

theorem slotWith_absent {ws : List W64} {x : W64} (h : x ∉ ws) : (slotWith (some ws) x).isSome = false := by
  simp only [slotWith, Option.bind_some, List.findIdx?_isSome, List.any_eq_false]
  intro y hy he
  simp at he
  exact h (he ▸ hy)

theorem freeName_result (s : State) (ctx : Nat) (x : W64) : (s.freeName ctx x).2 = (s.pushFreed ctx x).2 := by
  unfold State.freeName
  split
  · next s' h => rw [h]
  · rfl

/-- Context 1 with its freed ring at 0x21000 (PUT, TAKE and the size) and its deferred list, and an operation in flight. -/
def pinState (put lg : W64) (slot0 : W64) (defer : W64 := 0x22000) : State :=
  { base.modCtx 1 (fun c => { c with freed := 0x21000, defer }) with
    mem := Mem.write64 (Mem.write64 (Mem.write64 base.mem 0x21000 put) 0x21010 lg) 0x22000 slot0 }
def flying (k : OpKind) (s : State) : State := { s with ops := [(1, { agent := .group 0 .pc0, core := 0, ctx := 1, kind := k })], nextId := 2 }
def searching (s : State) : State := flying (.search 0x77 (.q 7) 0 none) s
/-- The state after the fence that a search makes. -/
def fenced (s : State) : State := (s.fullFence (.group 0 .pc0) 4).invalidateL1 0
def pinned (s : State) : State := s.camAdd 0 1 0x77
def hubPage : TlbEntry := { core := hubCore, ctx := 1, va := 0x20000, size := 0x10000, pa := 0x20000, r := true, w := true, x := true, frames := [(2, 0x8001)] }
def listed (put lg : W64) (slot0 : W64) : State :=
  { pinState put lg slot0 with tlb := [hubPage], l2 := (List.range 128).map (fun k => (l2Key (sliceOf (64 * (0x880 + k))) (0x880 + k), { dirty := false, ctx := 1 })) }

-- O32: what `listOk` says of a list that holds 0x77 and of one that holds 0x78: there is room for a name.
theorem witness_lists {s : State} (l : W64) (hl : listOk s l = true) :
    ∃ ws, s.deferList 1 = (s, some ws) ∧ ((l = 0x77 → (slotWith (some ws) 0x77).isSome = true) ∧ (l = 0x78 → (slotWith (some ws) 0x77).isSome = false)) ∧
      ∃ s2, s.deferName 1 0x77 = (s2, true) := by
  obtain ⟨ws, h1, h2, h3, h4⟩ := deferList_head hl
  refine ⟨ws, h1, ⟨fun e => slotWith_head 0 (e ▸ h2), fun e => slotWith_absent (h4 _ (by rw [e]; decide) (by decide))⟩, ?_⟩
  obtain ⟨i, hi⟩ := Option.isSome_iff_exists.mp (slotWith_head 1 h3)
  exact ⟨_, by unfold State.deferName; rw [h1]; simp only; rw [hi]⟩
-- pins, and the answers of a search: held by the list already, taken, no room; freed, bad ring, full ring.
theorem witness_pinResults :
    let hold : Iss → State → Bool := fun i s => (i.state s).ack != 0 || s.loadsOut i.agent
    let found (s : State) : Bool := s.pinFound 1 0x77
    all [meets { hold, sync := true } 0x5E false { u := true, d := 1, b := 165 } base (fun i s => (s.group? i.gi).isSome),
      meets { hold := fun i s => hold i s || s.enginesOut i.agent } 0x5F false { u := true, d := 1 } base (fun i s => (s.group? i.gi).isSome),
      meets { hold, sync := true } 0x60 false { u := true, d := 167, b := 165 } base (fun i _ => i.d == some (.q 7)),
      isNext (.pinSearchComplete 1) (flying (.search 0 (.q 7) 0 none) base),
      found (fenced (searching (pinned (listed 0 4 0x77)))) && listOk (fenced (searching (pinned (listed 0 4 0x77)))) 0x77,
      found (fenced (searching (pinned (listed 0 4 0x78)))) && listOk (fenced (searching (pinned (listed 0 4 0x78)))) 0x78,
      found (fenced (searching (pinned (pinState 0 4 0 0x900000)))) && (slotWith ((pinned (pinState 0 4 0 0x900000)).deferList 1).2 0x77).isNone &&
        !(((pinned (pinState 0 4 0 0x900000)).deferList 1).1.deferName 1 0x77).2,
      !found (fenced (searching (pinState 0 4 0))) && ((searching (pinState 0 4 0)).pushFreed 1 0x77).2 == .ok,
      !found (fenced (searching (pinState 0 0 0))) && ((searching (pinState 0 0 0)).freeName 1 0x77).2 == .bad,
      !found (fenced (searching (pinState 16 4 0))) && ((searching (pinState 16 4 0)).freeName 1 0x77).2 == .full && (base.core 0).phase == .running] = true := by
  decide +kernel
-- O33: found in a CAM, not found; the queue of re-searches, the pushes that wait, the ring's three answers (`witness_lists`, `freeName_result`).
theorem witness_pinsAreFound :
    let hunt (s : State) : State := s.modHub (fun h => { h with rehunts := [(1, 0x77)] })
    let push (s : State) : State := s.modHub (fun h => { h with pushes := [(1, 0x77)] })
    let waiting (s : State) : State := flying (.search 0x77 (.q 7) 0 (some true)) s
    let next (s : State) : State := s.modHub (fun h => { h with rehunts := [] })
    all [(base.ctx? 1).isSome, (hunt (listed 0 4 0x78)).hub.rehunts == [(1, 0x77)] && listOk (next (hunt (listed 0 4 0x78))) 0x78,
      listOk (next (hunt (listed 0 4 0x77))) 0x77 && !(listed 0 4 0x77).pinFound 1 0x77 && ((listed 0 4 0x77).pushFreed 1 0x77).2 == .ok,
      listOk (next (hunt (listed 16 4 0x77))) 0x77 && ((listed 16 4 0x77).pushFreed 1 0x77).2 == .full,
      (push base).hub.pushes.find? (fun p => p.1 == 1) == some (1, 0x77) && listOk (push (listed 0 4 0x78)) 0x78, listOk (push (listed 0 4 0x77)) 0x77,
      ((waiting (pinState 0 4 0)).pushFreed 1 0x77).2 == .ok, isNext (.freedRingPush 1) (waiting (pinState 0 4 0 0x900000)),
      ((waiting (pinState 0 0 0)).pushFreed 1 0x77).2 == .bad && isNext (.freedRingPush 1) (waiting (pinState 0 0 0)),
      (match (pinState 16 4 0).hubWords 1 0x21000 3 with | (_, .ok [p, t, k]) => p - t == 16 && k == 4 | _ => false)] = true := by decide +kernel
-- O34: a load's data, an acknowledgement, a refill, a spilled row written, the fill of a region's line.
theorem witness_arrivals :
    let loaded := flying (.load .i32 (.vec 8 .word) 1 [(0, 5)] none none) base
    let acked := base.modAgent (.group 0 .pc0) (fun a => { a with ack := 1 })
    let refilling := flying (.refill 8) base
    let spilled := base.modGroup 0 (fun g => g.setRow 255 { backed := true, full := false, spilled := true, inBuffer := true })
    let asked := base.modTeam 0 (fun t => { t with regions := [(1, { someRegion with asked := [0] })] })
    all [isNext (.loadDataArrival 1) loaded, decide (acked.remoteStores (.group 0 .pc0) < 1) && isNext (.storeAck (.group 0 .pc0)) acked,
      isNext (.refillComplete ⟨1, true⟩) refilling && isNext (.refillComplete ⟨1, false⟩) refilling, isNext (.spillWrite 0 255 true) spilled && isNext (.spillWrite 0 255 false) spilled,
      (match asked.translate 0 1 0x20140 { r := true } with | (s1, .ok pa) => isOk (s1.homeRead 1 pa 64) | _ => false) && isNext (.regionFillComplete 0 1 0) asked,
      (Part.byte 3 == Part.byte 3) && FMap.find [(0, (5 : W64))] 0 == some 5 && FMap.wf loaded.ops && decide (0 < (theGroup loaded).width)] = true := by decide +kernel
-- O35: a group without a handler, with one, with one that runs; a trap in the handler slot and of a thread.
theorem witness_trapEntry :
    let hd : State := base.modCtx 1 (fun c => { c with handler := 0x20400 })
    let running : State := hd.modGroup 0 (fun g => { g with handler := { g.handler with slot := { status := .live } } })
    all [(theGroup base).s0.status == .live && base.handlerOf 1 == 0, hd.handlerOf 1 != 0 && (theGroup hd).handler.slot.status == .free && (theGroup hd).pending == [],
      running.handlerOf 1 != 0 && (theGroup running).handler.slot.status != .free, (base.thread? 0).isSome && (base.ctx? 1).isSome] = true := by decide +kernel
-- O36: a `tret` in the handler slot; the slot that it serves; a yield, a nap, a candidate that has reached its stall limit, a core that has quiesced.
def served : State := base.modGroup 0 (fun g =>
  { g with s0 := { g.s0 with status := .trapped, tok := 5, owed := 1 }, handler := { g.handler with slot := { status := .live, pc := 0x20400, mask := 1 }, tok := 5 } })
theorem witness_trapReturnAndSlotEvents :
    let a : Agent := .group 0 .pc0
    let parked (p : Park) : State := base.modSlot a (fun sl => { sl with park := p })
    let st : Stall := { since := 0, last := 0, delta := { cls := .memory, charge := 2 ^ 40 } }
    let stalled : State := { base.modSlot a (fun sl => { sl with stall := some st }) with now := 2 ^ 20, threads := [] }
    let g := theGroup served
    all [meets { illegal := fun i _ => !i.handler } 0x0D false {} { served with cur := .group 0 .handler },
      g.s0.status == .trapped && decide (g.s0.owed ≤ 1) && g.handler.tok == g.s0.tok && g.handler.eng == none && g.pending == [] && g.s0.before != .trapped &&
        g.s1.status != .trapped && g.s0.tlen != 0,
      isNext (.yieldExpiry a) (parked (.yield 7)), isNext (.napExpiry a) (parked (.nap 7)),
      (stalled.duskFails 0 1 st.delta).isSome && stalled.canIssue a && !stalled.chargedWork 0 && (stalled.core 0).lastCharged == 0 && isNext (.stallLimit a) stalled,
      stalled.candidates.map Prod.fst == [a] && stalled.ops == [] && (stalled.core 0).phase == .running && (stalled.core 0).lastIssue == 0 && isNext (.quiescence 0) stalled] = true := by
  decide +kernel

/-! Engines, waits, children -/

def teamOf (s : State) : Team := (s.team? 0).getD { ctx := 0, launch := 0, index := 0, pair := 0, core := 0 }
def three (a b c : W64) : State := withQs [(4, a), (5, b), (6, c)] base
-- O37: a copy of 8,192 bytes, one of 2^32, one out of the team's block; lanes that are reachable, misaligned, none; a good and a bad list.
theorem witness_copyIssueResults :
    let f : Ext := { u := true, a := 164, b := 165, c := 166 }
    let x (i : Iss) (s : State) : Nat := (i.vc s 0).toNat
    let cause (sp : Space) (i : Iss) (s : State) : Option Trap := firstCause [copyRange s i (teamOf s) sp (i.va s 0) (x i s) .engWrite,
      copyRange s i (teamOf s) .g (i.vb s 0) (x i s) .engRead]
    let good : Iss → State → Bool := fun i s => (s.team? i.team).isSome && decide (x i s < 2 ^ 32) && cause .g i s == none && i.d == none
    let big : Iss → State → Bool := fun i s => decide (2 ^ 32 ≤ x i s)
    let bad : Iss → State → Bool := fun i s => decide (x i s < 2 ^ 32) && (cause .l i s).isSome
    let y : Ext := { f with sub := 1, imm := 5 }
    let g : Ext := { d := 8, a := 164, b := 4, ty := 2 }
    let sc : Ext := { a := 164, b := 4, c := 5, ty := 2 }
    let fails (n : Nat) (i : Iss) (s : State) : Bool := !i.lanes.isEmpty && (gthFails (teamOf s) i.space 4 (i.eachLane (i.gthAddr s))).length == n
    all [meets cpyHooks 0x61 false f (three 0x30000 0x20000 8192) good, meets cpyHooks 0x61 false y (three 0x30000 0x20000 8192) good,
      meets cpyHooks 0x61 false f (three 0 0 0x100000000) big, meets cpyHooks 0x61 false y (three 0 0 0x100000000) big,
      meets cpyHooks 0x61 false { f with xs := 1 } (three 4090 0x20000 8) bad, meets cpyHooks 0x61 false { y with xs := 1 } (three 4090 0x20000 8) bad,
      meets (gthHooks false) 0x62 false g (oneAt 0x20100) (fails 0), meets (gthHooks true) 0x63 false sc (oneAt 0x20100) (fails 0),
      meets (gthHooks false) 0x62 false { g with pm := 1 } masked (fun i _ => i.lanes.isEmpty), meets (gthHooks true) 0x63 false { sc with pm := 1 } masked (fun i _ => i.lanes.isEmpty),
      meets (gthHooks false) 0x62 false g (oneAt 0x20101) (fails 1), meets (gthHooks true) 0x63 false sc (oneAt 0x20101) (fails 1),
      meets { hold := copyHold } 0x64 false { u := true, a := 164, b := 165 } (three 64 1 0) (fun i s => kickRefusal (teamOf s) (i.va s 0) (i.vb s 0) == none),
      meets { hold := copyHold } 0x64 false { u := true, a := 164, b := 165 } (three 16 1 0) (fun i s => (kickRefusal (teamOf s) (i.va s 0) (i.vb s 0)).isSome)] = true := by
  decide +kernel
-- O38: a piece, the end of a window row, a copy and an entry with all bytes, write-backs, a gather with its data, a scatter, faults, a saved core.
def gx : Xfer := { ssp := .g, src := 0x20100, dsp := .l, dst := 0, size := 100 }
def flyingAs (c : Counter) (k : OpKind) (s : State) : State :=
  { s with ops := [(1, { agent := .group 0 .pc0, core := 0, ctx := 1, cls := .memory, charge := 32, counter := c, kind := k })], nextId := 2 }
def winRow0 : W64 := 0xE000000400000
theorem witness_engineSteps :
    let s (k : OpKind) : State := flyingAs .copy k base
    let cp (x : Xfer) : State := s (.copy x none none)
    let wx : Xfer := { gx with dsp := .w, dst := winRow0, size := 64 }
    let stop (t : State) : Option EngStop := (match FMap.find t.ops 1 with | some o => (t.advance 1 o).2.2 | none => none)
    let moves (t : State) : Bool := (match FMap.find t.ops 1 with | some o => (t.advance 1 o).2.1.kind != o.kind | none => false)
    let ends (t : State) (x : Xfer) : Bool := (match FMap.find t.ops 1 with | some o => t.rowEnd (t.engOf o) x x.pieceLen | none => false)
    let saved : State := (cp { wx with dst := winRow0 + 0x2000000 }).modCtx 1 (fun c => { c with savedPairs := [1] })
    all [moves (cp gx) && !ends (cp gx) gx && isNext (.copyBytesLanded 1) (cp gx),
      moves (s (.entry 9 0 gx none false 0)) && isNext (.copyBytesLanded 1) (s (.entry 9 0 gx none false 0)),
      moves (cp wx) && ends (cp wx) wx && isNext (.windowWriteLand 1) (cp wx), isNext (.copyRetire 1) (cp { gx with landed := 100 }),
      isNext (.requestEntryComplete 1) (s (.entry 9 0 { gx with landed := 100 } none false 0)), isNext (.copyRetire 1) (s (.writeBack 0 0 [] 0)),
      moves (s (.writeBack 0 0 [(0, 0x20100, 3)] 2)) && isNext (.copyBytesLanded 1) (s (.writeBack 0 0 [(0, 0x20100, 3)] 2)),
      isNext (.gatherRetire 1) (flyingAs .gather (.gather .g .i32 (.vec 8 .word) [] [(0, 0x20100)] [(0, 5)]) base),
      stop (flyingAs .gather (.scatter .g .i32 [(0, 0x20100)] [(0, 5)] 0) base) == none && isNext (.gatherRetire 1) (flyingAs .gather (.scatter .g .i32 [(0, 0x20100)] [(0, 5)] 0) base),
      (match stop (cp { gx with src := 0x900000 }) with | some (.fail .owner _ _ _ _) => true | _ => false) && isNext (.engineFaultPark 1) (cp { gx with src := 0x900000 }),
      (match stop (cp { wx with dst := winRow0 + 0x10000 }) with | some (.fail .window _ _ _ _) => true | _ => false) &&
        isNext (.engineErrorRetire 1) (cp { wx with dst := winRow0 + 0x10000 }),
      stop saved == some .saved && isNext (.engineFaultPark 1) saved] = true := by decide +kernel
theorem witness_requestEntries :
    let s (w2 : W64) : State := flyingAs .copy (.kick 0 1 0) { base with clm := Mem.write64 (Mem.write64 [] 0 0x20100) 16 w2 }
    let read (w2 : W64) (c : ListEntry → Team → Bool) : Bool := match FMap.find (s w2).ops 1 with
      | some o => (s w2).serves 0 && decide ((s w2).entriesOf 1 < 8) && (match (s w2).nextEntry o with | .ok (_, _, x, t) => c x t | .error _ => false)
      | none => false
    all [read 0x100000001 (fun x t => (x.refusal t).isSome), read 0x100000000 (fun x t => x.refusal t == none && x.size == 0),
      read 0x100000040 (fun x t => x.refusal t == none && x.size == 64)] = true := by decide +kernel
-- O39: two copies of one group; a run within core-local memory.
theorem witness_copyMovesBytes :
    let o : Op := { agent := .group 0 .pc0, core := 0, ctx := 1, cls := .memory, charge := 32, counter := .copy, kind := .copy gx none none }
    let two : State := { base with ops := [(1, o), (2, { o with seq := 1 })] }
    let first : Option Nat := (two.ops.find? (fun (p : Nat × Op) => p.2.counter == .copy && p.2.agent.base == .group 0 .pc0)).map Prod.fst
    let x : Xfer := { ssp := .l, src := 0, dsp := .l, dst := 128, size := 64 }
    all [FMap.wf two.ops, first == some 1, two.ops.all (fun p => !p.2.finished && p.2.error == none), !x.overlaps, base.clm.wf,
      (teamOf base).resolve 0 x.src 64 == some (0, 0), (teamOf base).resolve 0 x.dst 64 == some (0, 128), base.clmGate 0 (teamOf base) 0 0 64 false == .ok,
      base.clmGate 0 (teamOf base) 0 128 64 true == .ok] = true := by decide +kernel
-- O40: a wait that its counter lets pass, `empty`, a `spawn` with a good and with a misaligned record, its two answers, a slot that yielded.
theorem witness_waitAndSpawnResults :
    let waits : Hooks :=
      { hold := fun i s => if i.seq then (match s.thread? i.gi with | some t => i.f.imm.toNat % 256 < t.matCount | none => false)
          else match s.group? i.gi with | some g => i.f.imm.toNat % 256 < g.counter (waitCounter i.f.sub.toNat) | none => false
        takes := fun i e => e.counter == i.f.sub.toNat && (match base.group? i.gi with
          | some g => decide (e.seq + i.f.imm.toNat % 256 < g.issuedIn (waitCounter i.f.sub.toNat)) | none => false) }
    let rows (f : Ext) (i : Iss) (s : State) : List Nat := match i.d with
      | some (.vec n part) => if viewKind ((s.decEnv i.agent).view f.vs.toNat) == 1 then (List.range 8).map (fun k => n + k) else rowsOf [.vec n part]
      | _ => []
    let hEmpty (f : Ext) : Hooks :=
      { hold := fun i s => match s.group? i.gi with | some g => (rows f i s).any (fun n => (g.row n).refilling) | none => false }
    let f : Ext := { u := true, d := 167, b := 165 }
    let units (n : Nat) : State := flying (.spawn 0 0x20100 (.q 7) 0) { base with launches := [(0, { ctx := 1, queue := 0, owner := 1, units := n, record := { desc := 0, args := 0, teams := 1, phase := 0 } })] }
    let yielded : State := base.modSlot (.group 0 .pc0) (fun sl => { sl with park := .cpyY 9 0 0x20100 })
    all [meets waits 0x65 false { imm := 0 } base, meets waits 0x65 false { u := true, sub := 3, imm := 0 } seqBase, meets (hEmpty { d := 8 }) 0x66 false { d := 8 } base,
      meets {} 0x67 false f (three 0 0x20100 0) (fun i s => (i.vb s 0).toNat % 32 == 0 && i.d == some (.q 7)),
      meets {} 0x67 false f ((units 2).modGroup 0 (fun _ => theGroup (three 0 0x20100 0))) (fun i s => (i.vb s 0).toNat % 32 == 0 && (FMap.find s.launches i.launch).any (fun (L : Launch) => 2 ≤ L.units) && isOk (s.translate i.core i.ctx (i.vb s 0) { r := true })),
      meets {} 0x67 false f (three 0 0x20110 0) (fun i s => (i.vb s 0).toNat % 32 != 0), isNext (.spawnEnqueue 1) (units 1),
      decide ((FMap.at {} (units 2).queues 0).ringCount + 0 < 2 ^ (FMap.at {} (units 2).queues 0).log2n) && isOk ((units 2).hubWords 1 0x20100 4) && isNext (.spawnEnqueue 1) (units 2),
      isNext (.cpyYReactivate (.group 0 .pc0)) yielded] = true := by decide +kernel

/-! The matrix side, the vacate instructions and the system -/

/-- The thread issues, with a map of 16-bit floats and one of scales, and both formats f16 (or a reserved sfmt). -/
def matBase (sfmt : W32 := 0x108) : State := seqBase.modThread 0 (fun t =>
  { t with sfmt, oms := [(1, 128 <<< 20 ||| 64 <<< 36 ||| 8 <<< 47), (2, 64 <<< 36 ||| 6 <<< 47)], xs := [(4, { val := 0 })] })
def theThread (s : State) : Thread := (s.thread? 0).getD { ctx := 0, team := 0, launch := 0 }
-- O41: each operation where its plan has no cause, and with a reserved sfmt; when `mma` and `mzero` may issue.
theorem witness_matrixIssueResults :
    let f : Ext := { u := true, d := 1, b := 4 }
    let p (plan : Iss → State → Thread → Team → Except Trap MatPlan) (c : Except Trap MatPlan → Bool) : Iss → State → Bool := fun i s => c (plan i s (theThread s) (teamOf s))
    let fine (e : Except Trap MatPlan) : Bool := match e with | .ok _ => true | .error _ => false
    let ready (plan : Iss → State → Thread → Team → Except Trap MatPlan) : Iss → State → Bool := fun i s => match plan i s (theThread s) (teamOf s) with
      | .ok pl => (match i.matLines s (teamOf s) pl.reads pl.writes.toList with | .ok s' => s' == s | .error _ => false) && s.lostMatBank i.core (teamOf s) pl.m == none
      | .error _ => false
    let both (op : Nat) (plan : Iss → State → Thread → Team → Except Trap MatPlan) (g : Ext) : Bool :=
      meets (matHooks plan) op false g matBase (ready plan) && meets (matHooks plan) op false g (matBase 0x20000) (p plan (fun e => !fine e))
    all [meets { illegal := setomIllegal } 0x68 false { u := true, d := 1, a := 4, ty := 8, lit := some 0x400080 } matBase, meets {} 0x6E false f matBase,
      meets {} 0x6F false f matBase, meets {} 0x70 false { u := true, b := 4 } matBase, both 0x69 planMldb { u := true, d := 0, b := 1 },
      both 0x6A planMma { u := true, d := 0, a := 0, b := 1, imm := 4 }, both 0x6B planMzero { u := true, d := 15 },
      both 0x6C planMdrain { u := true, d := 0, a := 4, c := 4, ty := 6 }, both 0x6D planMscale { u := true, d := 15, a := 2, b := 2 },
      (sfmtShape 0x108).isSome] = true := by decide +kernel
-- O42: the head of the queue of the thread whose turn it is; reads that end; an operation in its last stage.
theorem witness_matrixSteps :
    let m : MatOp := { opcode := 0x69, sfmt := 0x108, guarded := true }
    let o (m : MatOp) : Op := { agent := .thread 0, core := 0, ctx := 1, cls := .matrix, charge := 32, counter := .matrix, kind := .matrix m }
    let st (m : MatOp) : State := { matBase with ops := [(1, o m)], nextId := 2, now := 1000 }
    let r (m : MatOp) : State := (st m).matStages 0
    let starts (m : MatOp) (free : State → Nat → Bool) : Bool := (r m).matQueue 0 == [(1, m)] && (r m).matReady 1 (o m) m && free (r m) 0 &&
      isNext (.matrixOpStart 0) (st m)
    let asIs (m : MatOp) : Bool := match (r m).matOf 1 with | .ok m1 => m1 == m | .error _ => false
    let load : MatOp := { m with started := true, startAt := 900 }
    let zero : MatOp := { m with opcode := 0x6B, guarded := false, started := true, startAt := 900, nbanks := 1 }
    let mma : MatOp := { m with opcode := 0x6A, started := true, startAt := 999, rows := 8 }
    all [(base.core 0).lastMat == 3, !(st m).clockStopped 0, (sfmtShape m.sfmt).isSome, starts m State.loadingFree,
      starts { m with opcode := 0x6B, guarded := false, nbanks := 1 } State.combiningFree,
      asIs load && load.guarded && !load.readDone && load.readAt.any (fun c => decide (c ≤ 1000)),
      asIs zero && (r zero).matEnded 0 1 zero && !(r zero).drainHeld 1 0 (teamOf base) (sfmtShape 0x108) zero && answers (.matrixOpComplete 1) (st zero),
      mma.castAt == none && decide ((st mma).now < mma.startAt + 8), decide ((st mma).now < 1000 + mma.rows / 4 * mma.planes),
      isHalf 8 && !(sfmtShape 0x108).any (fun h => h.chain)] = true := by decide +kernel
-- O43: every class of probe, with room and without.
theorem witness_vacateInstructionResults :
    all [meets {} 0x71 false { u := true, d := 167, sub := 6 } base, meets {} 0x72 false { u := true, d := 167, sub := 1 } base, meets {} 0x73 false { d := 10, b := 4, sub := 9 } base,
      meets {} 0x74 false { u := true, d := 167, sub := 9 } base, meets {} 0x75 false { sub := 1 } base, probeOf 0 31 == -1, probeOf 0 32 == 0,
      (List.range 10).all (fun c => probeOf c (-1) == -1)] = true := by decide +kernel
-- O44
def bankState (b : CounterBank) : State := (withQs [(5, 0x20)] base).modCore 0 (fun c => { c with counters := [(1, b)] })
def stopSite : State := (base.modCtx 1 (fun c => { c with breaks := true })).modGroup 0 (fun g => { g with spt := 0x21000 })
theorem witness_systemResults :
    let here : Iss → State → Bool := fun i s => (s.ctx? i.ctx).isSome && (s.group? i.gi).isSome
    let inHandler : State := { withQs [(4, 0x40000), (5, 7)] served with cur := .group 0 .handler }
    let hMapf : Hooks :=
      { illegal := fun i s => !i.handler || bits (i.vb s 0) 3 61 != 0
        delta := fun i _ => if i.lanes.isEmpty then {} else { cls := .memory, charge := chargeOf 0 65536 } }
    let cnt (xs : BitVec 4) (b : CounterBank) (c : CounterBank → Bool := fun _ => true) : Bool :=
      meets {} 0x7E false { u := true, d := if xs < 4 then 167 else 0, b := if xs == 4 then 165 else 0, xs, imm := 1 } (bankState b)
        (fun i s => c (FMap.at {} (s.core i.core).counters 1))
    let stop : State := { stopSite with mem := Mem.write stopSite.mem 0x21000 1 }
    all [meets {} 0x7A false { u := true, d := 167, imm := 0 } base here, meets {} 0x7B false { u := true, b := 165 } base,
      meets { illegal := fun i _ => !i.handler } 0x7D false { u := true, d := 167, imm := 7 } inHandler here,
      meets hMapf 0x7C false { d := 167, a := 164, b := 165 } inHandler (fun i _ => i.lanes == [0] && i.d.isSome),
      meets hMapf 0x7C false { d := 167, a := 164, b := 165, pm := 1 } (inHandler.modGroup 0 (fun g => { g with ms := [(1, { val := 0 })] })) (fun i _ => i.lanes == []),
      cnt 0 {}, cnt 1 {}, cnt 2 {}, cnt 3 { hyper := true } (fun b => b.hyper), cnt 3 { holder := some 2 } (fun b => b.holder == some 2),
      cnt 3 { holder := some 1 } (fun b => b.holder == some 1), cnt 3 {} (fun b => b.holder == none), cnt 4 { holder := some 1 } (fun b => b.holder == some 1 && !b.hyper),
      cnt 4 {} (fun b => b.holder != some 1), cnt 5 { holder := some 1 } (fun b => b.holder == some 1), cnt 5 {} (fun b => b.holder != some 1),
      (base.agentState? base.cur).isSome, meets {} 0x7F false { imm := 3 } base, meets {} 0x7F false { xs := 1, s := true } base (fun i s => !i.breaks s),
      meets {} 0x7F false { xs := 1, s := true } stop (fun i s => i.breaks s), isNext (.mapfCompletion 1) (flying (.mapf 0x40000 7 (.q 7)) base),
      (base.ctx? 1).isSome && isNext (.breakArm 1 true) base] = true := by decide +kernel
-- The walk of `mapf` to a level-1 entry that is valid, and to one that is not, with and without a frame in the pool.
def walked (entry : W64) (pool : List Nat) : State :=
  let m := Mem.write64 (Mem.write64 (Mem.write64 (Mem.write64 base.mem 0x11000 0x12001) 0x12000 0x13001) 0x13000 entry) 0x14000 0
  { base.modCtx 1 (fun c => { c with pool }) with mem := m }
theorem witness_mapFrame :
    let read (s : State) (e : W64) : Bool := match s.mapWalk 1 0 3 0x10000 with
      | (s1, .ok a) => a == 0x13000 && (s1.walkerRead 1 a).2 == some e && (s1.walkerRead 1 a).1.mem.wf
      | _ => false
    all [read (walked 0x2001F []) 0x2001F, read (walked 0 []) 0, read (walked 0 [5]) 0,
      read ((walked 0 [5]).setFrameWord 1 0xA001) 0 && !((walked 0 [5]).setFrameWord 1 0xA001).homePasses 1 0x13000 true, decide ((0x13000 : Nat) + 8 ≤ 65536 * 5)] = true := by decide +kernel

/-! The fabric -/

def inGroup (s : State) : State := s.modCtx 1 (fun c => { c with fgrp := 0x12 })
-- O45: one lane with a peer and an aligned address; a good descriptor with a rank list of one rank; no lane.
theorem witness_remoteIssueResults :
    let s0 : State := inGroup (withRow 4 [3] (withQs [(4, 0x20100), (5, 0)] oneLane))
    let sc : State := inGroup (withRow 6 [0] (withRow 7 [0] (withRow 4 [0x20100] (withRow 5 [0] (withQs [(4, 0x20100), (5, 0)] oneLane)))))
    let none' (s : State) : State := s.modGroup 0 (fun g => { g with ms := [(1, { val := 0 })] })
    let hooks (f : Ext) : Hooks := { remoteHooks with sync := f.xs != 0 }
    let hooksA (f : Ext) : Hooks := { remoteHooks with sync := f.imm.toNat / 16 % 8 != 0 }
    let rld : Ext := { d := 8, a := 4, b := 164, ty := 2, xs := 1 }
    let rst : Ext := { a := 4, b := 164, c := 5, ty := 2, xs := 2 }
    let rat : Ext := { d := 8, a := 4, b := 164, c := 5, ty := 3, imm := 0x40 }
    let cl : Ext := { d := 8, a := 164, b := 4, c := 6 }
    let busy (n : W64) : Iss → State → Bool := fun i s => i.lanes == [0] && (s.group? i.gi).isSome && i.vb s 0 == n && (i.vb s 0).toNat % 4 == 0
    let idle : Iss → State → Bool := fun i _ => i.lanes == []
    let odd (s : State) : State := withQs [(4, 0x20101)] s
    let crooked (size : Nat) : Iss → State → Bool := fun i s => i.lanes.filter (fun l => ((i.vb s l) + (if i.op = 0x78 then 0 else i.f.imm.signExtend 64)).toNat % size != 0) == [0]
    all [meets (hooks rld) 0x76 false rld (odd s0) (crooked 4), meets (hooks rst) 0x77 false rst (odd s0) (crooked 4), meets (hooksA rat) 0x78 false rat (odd s0) (crooked 4),
      meets collHooks 0x79 false cl (withRow 4 [0x20101] sc) (fun i s => i.lanes == [0] && (i.vb s 0).toNat % 4 == 1 && collType (i.collW s) == 0),
      meets (hooks rld) 0x76 false rld s0 (busy 0x20100), meets (hooks rst) 0x77 false rst s0 (busy 0x20100), meets (hooksA rat) 0x78 false rat s0 (busy 0x20100),
      meets (hooks rld) 0x76 false { rld with pm := 1 } (none' s0) idle, meets (hooks rst) 0x77 false { rst with pm := 1 } (none' s0) idle,
      meets (hooksA rat) 0x78 false { rat with pm := 1 } (none' s0) idle, meets collHooks 0x79 false { cl with pm := 1 } (none' sc) idle,
      meets collHooks 0x79 false cl sc (fun i s => busy 0x20100 i s && i.d == some (.vec 8 .word) && (bits (i.vc s 0) 0 32).toNat % 4 == 0 && collRanks (i.collW s) == 1 &&
        isOk (s.rankList i.core i.ctx (i.va s 0) 1))] = true := by decide +kernel
-- O46: a request for this device, with and without a context of its group; a load, a store, one whose address fails, an atomic.
def request (k : RemoteKind) (va : W64) (op : Nat := 0) : RemoteReq :=
  { id := 5, kind := k, op, ty := .n32, fromDev := 1, fromGroup := 9, toDev := 0, fgrp := 0x12, lanes := [{ lane := 3, va, data := 7 }] }
def fabricState (parked : Option ParkInfo := none) : State :=
  let kind : OpKind := .remote 0 1 { request .rld 0x20100 with toDev := 3, fromDev := 0 } (some (.vec 8 .word)) 1 none none [] 0
  { base with nextId := 2, ops := [(1, { agent := .group 0 .pc0, core := 0, ctx := 1, cls := .fabric, charge := 2048, counter := .fabric, parked, kind })] }
def entryOf (seq : Nat) : LogEntry := { seq, va := 0x20100, ctx := 1, bmask := 0xF, data := List.replicate 64 7, sender := 1, senderGroup := 9, place := 0 }
theorem witness_remoteServingAndReplies :
    let s := inGroup base
    let addr (va : W64) (nd : Need) (c : State → Nat → Bool) : Bool := match s.remoteAddr 1 va 4 nd with | (s1, .ok pa) => c s1 pa | _ => false
    let full : State := s.modHub (fun h => { h with log := List.replicate 4096 (entryOf 1) })
    let logs (l : List LogEntry) : State := s.modHub (fun h => { h with log := l, logSeq := 3 })
    let late : State := { fabricState with now := 2 ^ 26 }
    let draining : State := { (fabricState.modCore 0 (fun c => { c with phase := .draining })) with now := 2 ^ 26 }
    let counted : State := base.modGroup 0 (fun g => { g with logged := 1, loggedAt := [(3, 1)], agent := { g.agent with uid := 9 } })
    let ports (n : Nat) : State := base.modHub (fun h => { h with portsUp := List.range n })
    all [base.ctxOfFgrp 0x12 == none && isNext (.remoteRequestReceive (request .rld 0x20100)) base,
      s.ctxOfFgrp 0x12 == some 1 && isNext (.remoteRequestReceive (request .rld 0x20100)) s,
      addr 0x20100 { r := true } (fun s1 pa => s1.homePasses 1 pa false && s1.poison == []), s.hub.log == [] && addr 0x20100 { w := true } (fun _ _ => true),
      !isOk (s.remoteAddr 1 0x900000 4 { w := true }) && isNext (.remoteRequestReceive (request .rst 0x900000)) s,
      !isOk (full.remoteAddr 1 0x900000 4 { w := true }) && full.hub.log.length == 4096,
      addr 0x20100 { r := true, w := true } (fun s1 pa => s1.homePasses 1 pa true),
      isNext (.remoteReply 1 (.done [(0, 5)] 0)) fabricState, isNext (.remoteReply 1 (.fault 3)) (fabricState (some { cause := .rfault, addr := 0, detail := 0, quiet := true })),
      decide (late.hub.ctimeout ≤ late.ticks) && isNext (.remoteTimeout 1) late, decide (2048 ≤ draining.ticks) && isNext (.drainChargeElapsed 1) draining,
      answers (.remoteReply 1 (.fault 3)) { base with nextId := 2 }, isNext (.replayNotice ⟨3, 9⟩ true) counted && isNext (.replayNotice ⟨3, 9⟩ false) counted,
      (counted.groupByUid 9).isSome && base.hub.devid == 0 && !base.nextOnPlanes (.request { request .rld 0x20100 with fromDev := 0 }),
      let l := inGroup (logs [entryOf 1])
      l.hub.log.any (fun e => e.sender == 1 && e.senderGroup == 9) && decide (l.hub.log.length < 4096) && isOk (l.remoteAddr 1 0x20100 4 { w := true }) &&
        isNext (.remoteRequestReceive (request .rst 0x20100)) l,
      isNext (.logBufferReplay 1 true) (logs [entryOf 1, entryOf 2]) && isNext (.logBufferReplay 1 false) (logs [entryOf 1, entryOf 2]) &&
        (match s.translate hubCore 1 0x20100 { w := true } with | (s1, .ok pa) => s1.homePasses 1 pa true | _ => false),
      answers (.flitCrcError 15) (ports 16) && isNext (.portDown 15) (ports 16), isNext (.portRetrain 15) (ports 15)] = true := by decide +kernel
-- O47: a bucket not at its rank, without a fabric group, with no step left, with one; a step that completes; headers that differ; the switches.
theorem witness_collectiveSteps :
    let h : CollHeader := { tag := 7, ordinal := 0, kind := 1, op := 0, typ := 0, bytes := 4, ranks := [0] }
    let b : Bucket := { lane := 0, header := h, rank := 0, peerRank := 0, innet := false, va := 0x20100, steps := [] }
    let st : CollStep := { sendTo := some 0, sends := [(0, 1)], recvFrom := some 0, recvs := [(0, 1)] }
    let s (fg : BitVec 16) (b : Bucket) : State := { base.modCtx 1 (fun c => { c with fgrp := fg }) with nextId := 2, now := 1000, ops := [(1,
      { agent := .group 0 .pc0, core := 0, ctx := 1, cls := .fabric, charge := 2048, counter := .fabric, kind := .coll 0 (.vec 8 .word) b })] }
    let o (b : Bucket) : Op := { agent := .group 0 .pc0, core := 0, ctx := 1, cls := .fabric, charge := 2048, counter := .fabric, kind := .coll 0 (.vec 8 .word) b }
    let started : Bucket := { b with started := true, steps := [st] }
    let comb : Bucket := { started with steps := [{ st with combine := true }] }
    let net : Bucket := { b with innet := true, rank := 1, header := { h with ranks := [0, 0] }, steps := [st] }
    let takes (b : Bucket) (st : CollStep) : Bool := match (s 0x12 b).collTake 1 (o b) 0 (.vec 8 .word) st b [(0, [1, 2, 3, 4])] with | (_, _, none) => true | _ => false
    let sixteen (t : State) : State := t.modHub (fun h => { h with portsUp := List.range 16 })
    let reads (b : Bucket) (st : CollStep) : Bool := match (sixteen (s 0x12 b)).collRead ((s 0x12 b).engOf (o b)) b.va (rangeBytes b.header.typ st.sends) 5 0 4 with | (_, _, none) => true | _ => false
    all [(s 0x12 { b with header := { h with ranks := [5] } }).headOfTag 1 (o b) b && isNext (.collStepStart ⟨1, false⟩) (s 0x12 { b with header := { h with ranks := [5] } }),
      b.dev b.rank == some 0 && isNext (.collStepStart ⟨1, false⟩) (s 0 b), isNext (.collStepStart ⟨1, true⟩) (s 0x12 b), reads { b with steps := [st] } st,
      isNext (.collStepStart ⟨1, true⟩) (s 0x12 { b with steps := [{ st with sends := [], sendTo := none }] }), isNext (.collStepStart ⟨1, false⟩) (s 0x12 { b with steps := [st] }),
      isNext (.collStepComplete 1 .lost []) (s 0x12 started), isNext (.collStepComplete 1 .mismatch []) (s 0x12 started),
      isNext (.collStepComplete 1 (.header { h with tag := 8 }) []) (s 0x12 started),
      isNext (.collStepComplete 1 (.header h) []) { s 0x12 started with now := 2 ^ 26 }, !(s 0x12 started).reducing 1 && started.kept == none,
      decide ((s 0x12 started).ticks ≤ started.since + (s 0x12 started).hub.ctimeout) && comb.wholeWords { st with combine := true } 0 4,
      (match (s 0x12 started).translate 0 1 0x20100 { w := true } with | (s1, .ok pa) => s1.homePasses 1 pa true && s1.partials == [] | _ => false),
      takes started st && isNext (.collStepComplete 1 (.header h) [1, 2, 3, 4]) (s 0x12 started),
      isNext (.collStepComplete 1 (.header h) [1, 2, 3, 4]) (s 0x12 { started with steps := [st, st] }),
      takes comb { st with combine := true } && comb.missing { st with combine := true } == [(0, 4)] && isNext (.receiveReduce 1 h 0 [1, 2, 3, 4]) (s 0x12 comb),
      isNext (.receiveReduce 0 h 2 []) ((s 0x12 comb).modHub (fun hb => { hb with reducers := [(2, [{ op := 1, off := 0, data := [1, 2, 3, 4] }])] })), isNext (.collTimeout 1) { s 0x12 started with now := 2 ^ 26 },
      isNext (.innetRequest 1 false) (s 0x12 net), isNext (.innetRequest 1 true) (sixteen (s 0x12 net))] = true := by decide +kernel

/-! Launches, contexts, the platform -/

/-- A descriptor at 0x20200 (its shape and resource words) and a launch in the admission slot of a context with a bound. -/
def launching (shape res teams : W64) (desc : W64 := 0x20200) (bound : Nat := 32000) : State :=
  let mem := Mem.write64 (Mem.write64 (Mem.write64 base.mem 0x20200 0x20000) 0x20210 shape) 0x20218 res
  { base.modCtx 1 (fun c => { c with slot := some 0, bound }) with
    mem, launches := [(0, { ctx := 1, queue := 0, owner := 1, record := { desc, args := 0, teams, phase := 0 } })] }
def smallRes : W64 := 8 ||| 4096 <<< 16
def launchOf (s : State) : Launch := (FMap.find s.launches 0).getD { ctx := 1, queue := 0, owner := 1, record := { desc := 0, args := 0, teams := 0, phase := 0 } }
-- O48: a group and a team that can be placed, one with a sequencer thread.
theorem witness_groupsStart :
    let d : Descriptor := { entry := 0x20000, sentry := 0x20040, shape := 0x400, res := smallRes }
    let s := launching 0x400 smallRes 1
    all [(s.placeGroup (launchOf s) 0 0 d 0 0 0).isSome, (s.placeShell (launchOf s) 0 7 d 0 0).isSome, s.clm.wf, !d.span, d.seq] = true := by decide +kernel
-- O49: an unaligned descriptor, a team count of 0; strongly parallel: placed, and too large for the bound; independent; weakly parallel: further
-- members, none that fit, the first of a team.
theorem witness_admission :
    let ready (s : State) : Bool := (match s.ctx? 1 with | some c => c.slot == some 0 && c.state == .resident && c.pairs == [0] && s.pairRuns 0 | none => false) &&
      decide (6 ≤ s.hub.dawn) && (launchOf s).desc == none && (launchOf s).nextTeam == 0
    let d (shape res : W64) : Descriptor := { entry := 0x20000, shape, res }
    let reads (s : State) (c : State → Descriptor → Bool) : Bool := ready s && (match s.readDescriptor 1 (launchOf s).record.desc with | (s1, .ok d) => c s1 d | _ => false)
    let s2 (s : State) (d : Descriptor) : State := (s.modLaunch 0 (fun x => { x with desc := some d })).dropIcaches [0]
    let L (s : State) (d : Descriptor) : Launch := { launchOf s with desc := some d }
    let part : State := (launching 0x1010 smallRes 1).modTeam 0 (fun t => { t with ngroups := 2 })
    all [ready (launching 0 smallRes 1 0x20210) && (match (launching 0 smallRes 1 0x20210).readDescriptor 1 0x20210 with | (_, .error c) => c == .align | _ => false),
      reads (launching 0 smallRes 0) (fun _ d => d.refusal 0 == some 6),
      reads (launching 0 smallRes 1) (fun s1 x => x == d 0 smallRes && x.refusal 1 == none && ((s2 s1 x).placeLaunch (L s1 x) 0 x [0] 1 0).isSome),
      reads (launching 0 smallRes 1 0x20200 0) (fun s1 x => x.refusal 1 == none && ((s2 s1 x).placeLaunch (L s1 x) 0 x [0] 1 0).isNone &&
        (((s2 s1 x).emptied [0]).placeLaunch (L s1 x) 0 x [0] 1 0).isNone),
      reads (launching 0x800 smallRes 1) (fun s1 x => x.prog == 1 && ((s2 s1 x).placeTeam (L s1 x) 0 x 0 [0]).isSome),
      reads part (fun s1 x => x.prog == 2 && (match (s2 s1 x).partialTeam 0 with
        | some (tid, tm) => ((s2 s1 x).placeSome (L s1 x) 0 tid x tm.index tm.core ((List.range x.ngroups).filter (fun g => !tm.started.contains g))).2 != 0 && (s2 s1 x).pairRuns tm.pair | none => false)),
      reads (launching 0x1000 smallRes 1 0x20200 0) (fun s1 x => x.prog == 2 && ((s2 s1 x).partialTeam 0).isNone && (((s2 s1 x).emptied [0]).placeTeam (L s1 x) 0 x 0 [0]).isNone),
      reads (launching 0x1000 smallRes 1) (fun s1 x => x.prog == 2 && ((s2 s1 x).partialTeam 0).isNone && (((s2 s1 x).emptied [0]).placeTeam (L s1 x) 0 x 0 [0]).isSome &&
        ((s2 s1 x).startWeak (L s1 x) 0 x 0 [0]).isSome)] = true := by decide +kernel
-- O50: a group without lanes and counts, a visit to an owner without and with a request, held pairs, a block that can be moved and one that is.
theorem witness_launchEvents :
    let ended : State := base.modGroup 0 (fun g => { g with s0 := {} })
    let queue (tail : BitVec 16) : Queue := { qcfg := 1 <<< 63 ||| 1 <<< 40 ||| 1 <<< 32 ||| 4 <<< 24, qbase := 0x20400, qtail := tail }
    let visits (tail : BitVec 16) : State := { base with owners := [(1, { configured := true, word := 5 })], queues := [(0, queue tail)] }
    let weighted (s : State) (x : Nat) : Bool := (FMap.at {} s.owners x).configured && s.weightOf x != 0
    let big : Launch := { ctx := 1, queue := 0, owner := 1, desc := some { shape := 0x800, res := 262144 <<< 16 }, record := { desc := 0, args := 0, teams := 1, phase := 0 } }
    let wanting : State := { base.modCtx 1 (fun c => { c with slot := some 0 }) with launches := [(0, big)] }
    let due (n : W64) : State := { base with owners := [(1, { configured := true, usage := [(0, n)] })] }
    let moving : State := { base with compactions := [{ team := 0, core := 0, target := 65536 }] }
    let t := teamOf base
    all [(theGroup ended).empty && (theGroup ended).quiet, nextOwner (weighted (visits 0)) 0 == some 1 && (visits 0).ownerHead 1 == none,
      (nextOwner (fun x => (FMap.at {} (visits 0).owners x).configured && (visits 0).weightOf x == 0) 0).isNone && isNext .dispatcherVisit (visits 0),
      (visits 1).ownerHead 1 == some 0 && nextOwner (weighted (visits 1)) 0 == some 1, isNext (.ownerDeficitDebit 1) (due 2000) && answers (.ownerDeficitDebit 1) (due 1999),
      !t.cfix && !t.span && wanting.compactions == [] && wanting.clmWanted 0 && wanting.clm.wf && (allocClm (wanting.clmUsed t.core) 8 t.clmSize).isSome,
      moving.clm.wf && !moving.clmBusy 0 t && (moving.compactions.filter (fun x => x.team == 0)).map (fun x => x.core) == [t.core]] = true := by decide +kernel
-- O51: contexts that are absent, configured, resident, saved and zeroing; an image with each of its three answers; frames and pairs.
def ctxIs (st : CtxState) : State := base.modCtx 1 (fun c => { c with state := st })
theorem witness_contextCommands :
    all [(base.ctx? 5).isNone, (base.ctx? 1).isSome, base.hub.restores == [] && base.hub.vacates == [] && decide (6 ≤ base.hub.dawn), (ctxIs .zeroing).ctx? 1 != none, (ctxIs .configured).ctx? 1 != none, (ctxIs .saved).ctx? 1 != none,
      isNext (.release 1) (ctxIs .configured), isNext (.exportImage 1) (ctxIs .saved), base.frameWord 0x7FFEFF == 0, base.frameWord 5 != 0x8000,
      (base.setFrameWord 5 0x8000).frameWord 5 == 0x8000, (List.replicate 32 (7 : Byte)).length == 32, base.mem.wf,
      -- register writes: words that are open and shut, a slice word of a held pair, a lent suspect one, queues with EN 1 and 0, the L2's mode
      bits (FMap.at 0 ({ base.hub with slices := [(0, 1 <<< 40)] } : Hub).slices 0) 40 12 != 0, (FMap.at {} base.queues 0).qcfg.getLsbD 63 == false,
      ({ qcfg := 1 <<< 63 } : Queue).qcfg.getLsbD 63, base.hub.l2mode == .shared && base.hub.l2want == none,
      (let s : State := { base.modHub (fun h => { h with l2want := some .shared }) with ctxs := [] }; isNext .l2WritebackComplete s)] = true := by decide +kernel
theorem witness_imageImport :
    let im : NativeImage := { key := base.imageKey, ctx := 5, context := { owner := 3 }, launches := [], nextId := 0, frames := [(7, 0x8005, List.replicate 65536 1)], hash := [] }
    (0 :: im.key ≠ base.imageKey) ∧ (0 :: sha512 im.bytes ≠ sha512 im.bytes) ∧ im.key = base.imageKey ∧ base.ctx? im.ctx = none ∧ 0 < im.ctx ∧ im.ctx < 4096 ∧
      (∀ f ∈ im.frames, f.1 < 0x7FFF00 ∧ base.frameWord f.1 < 0x8000) := by
  refine ⟨List.cons_ne_self _ _, List.cons_ne_self _ _, rfl, by decide +kernel, by decide, by decide, fun f hf => ?_⟩
  simp only [List.mem_singleton] at hf
  subst hf
  decide +kernel
-- O52: a zeroing context, one of whose frames fails; frames of a share group.
theorem witness_framesZeroed :
    all [(ctxIs .zeroing).mem.wf, (base.framesWith (fun e => decide (0x8000 ≤ e))).all (fun f => decide (f < 0x7FFF00)), base.framesOf 1 == [1, 2],
      (FMap.wf base.ctxs)] = true := by decide +kernel
-- O53: a resident context and its pairs, a lent pair, a core that drains, one that saves (with and without a lost row), a commit.
def vacating (ph : CorePhase) : State :=
  let v : Vacate := { ctx := 1, pairs := [0], since := 0, cores := [0, 1], commands := [0] }
  let s := base.modHub (fun h => { h with slices := [(0, 1 <<< 63 ||| 1 <<< 40)], vacates := [v], commands := [{ name := 3, ctx := 1 }] })
  (s.modCore 0 (fun c => { c with phase := ph })).modCore 1 (fun c => { c with phase := ph })
theorem witness_vacateResults :
    let lent (w : W64) : State := base.modHub (fun h => { h with slices := [(0, w)] })
    let backed : State := (vacating .saving).modGroup 0 (fun g => g.setRow 3 { backed := true })
    all [isNext (.vacate 5 []) base && isNext (.vacate 1 [9]) base, isNext (.vacate 1 [0]) base && (match base.ctx? 1 with | some c => c.state == .resident && c.pairs == [0] | none => false),
      isNext (.recallPair 0) (lent (1 <<< 63 ||| 1 <<< 40)), isNext (.recallPair 0) (lent (1 <<< 40)), isNext (.recallPair 5) (base.modHub (fun h => { h with slices := [(5, 1 <<< 40)] })), base.hub.vacates == [] && base.ops == [],
      (vacating .draining).hub.vacates.length == 1 && isNext (.drainComplete 0) (vacating .draining), isNext (.saveComplete 1 []) (vacating .saving),
      (theGroup backed).pns == [] && ((theGroup backed).row 3).backed && isNext (.saveComplete 0 [.row 0 3]) backed,
      (vacating .saved).hub.restores == [] && (vacating .saved).hub.tripped == [] && isNext (.vacateCommit 1) (vacating .saved)] = true := by decide +kernel
-- O54: a core whose maps are in order.
theorem witness_saveRestore :
    all [FMap.wf base.groups, FMap.wf base.threads, FMap.wf base.teams, FMap.wf base.banks, FMap.wf base.macros, FMap.wf base.shadow, FMap.wf base.ops, FMap.wf base.marks, base.partials == [], base.clm.wf,
      base.lost == [], (theGroup base).pns == []] = true := by decide +kernel
-- O55: every answer of ASSIGN has its turn; a restore; a resume after a break.
theorem witness_assignResults :
    let cfg (f : Context → Context) : State := ((ctxIs .configured).modCtx 1 (fun c => f { c with pairs := [], dirlog2 := 10 })).modHub (fun h => { h with portsUp := [] })
    let lent (s : State) : State := s.modHub (fun h => { h with slices := [(0, 1 <<< 63 ||| 100)] })
    let held (s : State) : State := s.modHub (fun h => { h with slices := [(0, 2 <<< 40)] })
    let status (i : Instr) (s : State) : Option (BitVec 16) := (after i s).bind (fun t => (t.hub.commands.getLast?).bind (fun (c : Command) => c.status))
    let restoring : State := (ctxIs .saved).modHub (fun h => { h with restores := [{ ctx := 1, pairs := [0] }] })
    let broken (saved : List Nat) : State := (base.modCtx 1 (fun c => { c with savedPairs := saved })).modHub (fun h => { h with broken := [(1, 5, .group 0 .pc0)] })
    all [status (.assign 9 [0] false) base == some 1, status (.assign 1 [] false) (cfg id) == some 1, status (.assign 1 [0] false) (cfg (fun c => { c with savedPairs := [1] })) == some 10,
      status (.assign 1 [0] false) (cfg (fun c => { c with bound := 31999 })) == some 2, status (.assign 1 [0] false) (cfg (fun c => { c with dirlog2 := 9 })) == some 8,
      status (.assign 1 [] false) (cfg (fun c => { c with savedPairs := [1] })) == some 10, status (.assign 1 [80] false) (cfg id) == some 1,
      status (.assign 1 [0] false) (cfg (fun c => { c with savedPairs := [0], bound := 32000, image := [{ core := 0, ops := [(1,
        { agent := .group 0 .pc0, core := 0, ctx := 1, resv := [(0, 40000)], kind := .copy gx none none })] }] })) == some 5,
      status (.assign 1 [0] false) (lent (cfg id)) == some 3, status (.assign 1 [0] true) (held (cfg id)) == some 4, status (.assign 1 [0] false) (held (cfg id)) == none && isNext (.assign 1 [0] false) (held (cfg id)),
      status (.assign 1 [0] false) (cfg id) == some 0, isNext (.assign 1 [0] false) (cfg (fun c => { c with savedPairs := [0] })), isNext (.restoreComplete 1) restoring,
      isNext (.debugResume 1) (broken []) && isNext (.debugResume 1) (broken [1]), (theGroup served).s0.status == .trapped && (theGroup served).s1.status == .free] = true := by decide +kernel

-- O56: records of each kind, of a live, a saved and an ended agent; a group stopped on a trap, a parked operation, a nested trap.
theorem witness_driverAnswers :
    let rec' (who : RecordOwner) : Posted := { record := {}, who }
    let posted (who : RecordOwner) (s : State) : State := s.modCtx 1 (fun c => { c with faults := [rec' who] })
    let saved : State := (posted (.slot 3 5) base).modCtx 1 (fun c => { c with image := [{ core := 0, groups := [(3, theGroup served)] }] })
    let parked : State := { served with ops := [(1, { agent := .group 0 .pc0, core := 0, ctx := 1, parked := some { cause := .owner, addr := 0, detail := 0, quiet := false }, kind := .copy gx none none })] }
    let stoppedTh : State := base.modThread 0 (fun t => { t with slot := { t.slot with status := .trapped } })
    let nested : State := base.modGroup 0 (fun g => { g with handler := { g.handler with stopped := true, slot := { status := .trapped, pc := 0x20400 } } })
    let under : State := served.modGroup 0 (fun g => { g with handler := { g.handler with stopped := true, tok := 5, slot := { status := .trapped } } })
    all [(posted (.slot 0 5) served).ownerWhere 1 (.slot 0 5) == .live && isNext (.driverReplay 1 none) (posted (.slot 0 5) served) && isNext (.driverCancel 1 (some 0)) (posted (.slot 0 5) served),
      (posted (.slot 3 5) base).ownerWhere 1 (.slot 3 5) == .gone && isNext (.driverReplay 1 none) (posted (.slot 3 5) base),
      saved.ownerWhere 1 (.slot 3 5) == .saved && isNext (.driverCancel 1 none) saved, answers (.driverReplay 1 none) base, isNext (.driverCancel 1 none) (posted .refused base),
      isNext (.driverReplay 1 none) (posted (.homeReturn 1 0 0) base), isNext (.driverReplay 1 none) (posted (.thread 0) stoppedTh),
      (theGroup served).s0.status == .trapped && (theGroup served).s0.tok == 5 && decide ((theGroup served).s0.owed ≤ 1) && !served.stoppedOn 0 (.slot 0 5),
      !parked.stoppedOn 0 (.engine 0 5 1) && isNext (.driverReplay 1 none) (posted (.engine 0 5 1) parked) && isNext (.driverCancel 1 none) (posted (.engine 0 5 1) parked),
      isNext (.driverReplay 1 none) (posted (.nested 0) nested), under.stoppedOn 0 (.slot 0 5) && (theGroup under).pending == []] = true := by decide +kernel
-- O57: arming, the three actions of a trigger, an event that no unit waits for, units and banks that are taken, a ring that wraps.
theorem witness_traceUnits :
    let u (a : Nat) : TraceUnit := { ctx := 1, base := 0x20000, k := 6, source0 := 2, action0 := a, value0 := 9 }
    let unit (x : TraceUnit) : State := base.modHub (fun h => { h with traces := [(7, x)] })
    all [isNext (.traceUnitArm 7 { k := 6 }) base && isNext (.traceUnitArm 0 { k := 20 }) (unit { u 0 with hyper := true }),
      (FMap.at {} (unit { u 0 with hyper := true }).hub.traces 7).hyper && { u 1 with mask := 16 }.mask.testBit 4, (u 0).source0 == 2 && (u 0).source1 != 2 && !(u 0).mask.testBit 4 && !(u 0).frozen,
      isNext (.triggerFire 2 9) (unit (u 0)) && isNext (.triggerFire 2 9) (unit { u 1 with enabled := true }) && isNext (.triggerFire 2 9) (unit (u 2)), (u 0).value0 != 8 && answers (.triggerFire 2 8) (unit (u 0)),
      isNext (.hvResourceTake (.unit 7)) (unit (u 0)) && isNext (.hvResourceFree (.unit 7)) (unit { u 0 with hyper := true }),
      isNext (.hvResourceTake (.bank 159 3)) base && answers (.hvResourceFree (.bank 159 3)) base, ({ u 0 with hyper := true }.hyper), !(u 0).hyper && decide (2 ^ (u 0).k ≤ 64)] = true := by
  decide +kernel
-- O58: a frame that passes every check, and one that fails each of them and passes those before it.
def tenantKey : List Byte := List.replicate 64 0x0B
/-- A payload: version, entry and queue in word 0, then the sequence number, DESC, ARGS and TEAMS, and a tag. -/
def payload (w0 seq teams : W64) (tag : Nat) : List Byte := [w0, seq, 0x20200, 0, teams].flatMap (fun w => leBytes 8 w.toNat) ++ leBytes 32 tag
def frameState (f : Tenant → Tenant) : State :=
  let t : Tenant := { w0 := 1 <<< 63 ||| 1 <<< 16 ||| 2, lastSeq := 4, pfx0 := 1 <<< 127, plens := 1, key := tenantKey }
  { base.modHub (fun h => { h with dawn := 6, tenants := [(7, f t)] }) with
    now := 2400000, queues := [(2, { qcfg := 1 <<< 63 ||| 1 <<< 40 ||| 1 <<< 32 ||| 4 <<< 24, qbase := 0x20400 })], owners := [(1, { configured := true })] }
theorem witness_launchFrameResults :
    let w0 : W64 := 1 <<< 48 ||| 7 <<< 32 ||| 2
    let src : BitVec 128 := 1 <<< 127
    let s := frameState id
    -- the tags of three payloads, computed outside with HMAC-SHA-512
    let tag51 : Nat := 0x1D759F8878B0BFB9E1D80049ED78CD00B0867CC2643775973CC56E082A86BCC6
    let tag41 : Nat := 0xF240C5F1CA31214BB5B99EBB6252ED232DADD37C94671D54985FFC8933EADCFD
    let tag50 : Nat := 0x50EF7A888833851E76FC0A5D6CDBC3CE72F62248C1D8A1B530E4C15A7F4AFB32
    let good := payload w0 5 1 tag51
    let fullRing : State := s.modQueue 2 (fun q => { q with qtail := 15 })
    all [decide (6 ≤ s.hub.dawn) && s.hub.lfport == 19513 && good.length == 72, s.frameReason src good == none, s.frameReason src (payload 7 5 1 0) == some 1,
      (frameState (fun t => { t with w0 := 2 })).frameReason src good == some 2, s.frameReason 0 good == some 3, s.frameReason src (payload (w0 + 1) 5 1 0) == some 4,
      s.frameReason src (payload w0 5 1 0) == some 5, s.frameReason src (payload w0 4 1 tag41) == some 6,
      (frameState (fun t => { t with count := 4000000, window := s.ticks })).frameReason src good == some 7, s.frameReason src (payload w0 5 0 tag50) == some 8,
      fullRing.frameReason src good == some 9] = true := by decide +kernel
-- SHA-512 of "abc" (FIPS 180-4); the tags above test HMAC-SHA-512.
theorem test_sha512 : (sha512 [0x61, 0x62, 0x63]).take 8 = [0xDD, 0xAF, 0x35, 0xA1, 0x93, 0x61, 0x7A, 0xBA] := by decide +kernel
-- O59: flash that is good, and one that a recovery image was being written to.
theorem witness_resetsAndRecovery :
    let bad : State := base.modHub (fun h => { h with recovery := true, flashWriting := some [1, 2, 3] })
    all [base.hub.flashWriting == none && !base.hub.flashBad, bad.hub.recovery && bad.hub.flashWriting == some [1, 2, 3], answers (.coldReset true 511 1) base, answers (.coldReset true 0 0) bad,
      answers (.warmReset true 511 1) base, bad.hub.flashWriting != none && answers (.recoveryImage [1]) (base.modHub (fun h => { h with recovery := true })), isNext (.powerLoss 2) bad] = true := by decide +kernel
-- O60: readings at and above each point, a die that stops and one that restarts, the three kinds of memory error.
theorem witness_thermalAndMemoryErrors :
    let rd (n : Nat) (deg : Int) : Reading := { sensor := n, temp := 16 * deg }
    let idle : State := { base with ctxs := [], groups := [], threads := [] }
    let cold : State := { base.modHub (fun h => { h with stopped := [0], coolSince := [(0, 0)] }) with now := 2400000000 }
    let lone : State := { base with threads := [] }
    all [decide ((rd 0 95).temp ≤ 16 * 95) && isNext (.thermalSample [rd 0 95]) base, decide ((16 : Int) * 95 < (rd 0 96).temp) && isNext (.thermalSample [rd 0 96]) base,
      isNext (.thermalSample [rd 9 86]) base, base.hub.tripped == [] && isNext (.thermalSample [rd 0 106]) idle, base.ctxs.length == 1 && isNext (.thermalSample [rd 1 106]) base,
      isNext (.thermalSample [rd 0 106]) base, lone.groups.length == 1 && !(theGroup lone).fatal && (theGroup lone).ctx == 1 && isNext (.thermalSample [rd 0 116]) lone,
      cold.hub.stopped.contains 0 && isNext (.dieRestart 0) cold, base.hub.eccAt == [] && isNext (.eccError (.corrected 0x20000)) base,
      isNext (.eccError (.uncorrectable 0x20000)) base, isNext (.eccError (.cleanLine 0 .ls 0x20000)) base,
      isNext (.eccError (.cleanL2 0x20000)) { base with l2 := [(0x800, { dirty := false })] }] = true := by decide +kernel


/-! Further witnesses, for clauses that the ones above do not reach -/

/-- The page at 0x20000 as its cached translation says that the context may use it, whatever frame it is in. -/
def cachedPage (frame : Nat) (s : State) : State :=
  { s with tlb := [{ core := 0, ctx := 1, va := 0x20000, size := 0x10000, pa := 65536 * frame, r := true, w := true, x := true, frames := [(frame, 0x8001)] }] }
/-- A state with lanes 0 and 1 live. -/
def twoAt (a : W64) : State := (oneAt a).modSlot (.group 0 .pc0) (fun sl => { sl with mask := 3 })
-- O24: stores that their home refuses. O25: bytes of a store inside one line of a region.
theorem witness_storeRefused :
    let refused (las : Iss → State → FMap W64) (i : Iss) (s : State) : Bool := i.lanes == [0] &&
      (match s.translateLanes i.core i.ctx { w := true } .store (las i s) 4 with | (s1, .ok pas) => !s1.homePasses i.ctx (FMap.at 0 pas 0) true | _ => false)
    let flat (i : Iss) (s : State) : FMap W64 := i.lanes.map (fun l => (l, i.addr s l))
    let tile (i : Iss) (s : State) : FMap W64 := i.lanes.map (fun l => (l, i.tileAddr s l))
    let s0 := cachedPage 5 (oneAt 0x20100)
    let region : State := base.modTeam 0 (fun t => { t with regions := [(1, { someRegion with state := [(1, 0xF)] })] })
    all [meets ackHooks 0x4B false { c := 4, a := 164, xs := 8 } s0 (refused flat), meets ackHooks 0x4B true (shortExt false 0x4B { d := 4, a := 52 }) s0 (refused flat),
      meets ackHooks 0x51 false { c := 4, a := 164, b := 4, imm := 16 } s0 (refused tile), (teamOf region).regionAt 0 260 == some (1, { someRegion with state := [(1, 0xF)] }),
      decide ((260 : Nat) % 64 + 4 ≤ 64), region.clm.wf] = true := by decide +kernel
-- O26: a lane whose line is being written back.
theorem witness_clmHeld :
    let busy (a : W64) : State := { oneAt a with ops := [(1, { agent := .group 0 .pc0, core := 0, ctx := 1, kind := .writeBack 0 0 [(256, 0x20140, 0xF)] 0 })], nextId := 2 }
    let held (store : Bool) (i : Iss) (s : State) : Bool := (match s.team? i.team with
      | some t => i.lanes == [0] && (s.untouchedLines i.team t 4 (resolveLanes t i.core 4 [(0, i.addr s 0)]).1).isEmpty &&
        (resolveLanes t i.core 4 [(0, i.addr s 0)]).1.any (fun a => s.clmGate i.team t a.core a.o 4 store == .wait)
      | none => false)
    all [meets {} 0x4C false { d := 8, a := 164, xs := 8 } (busy 256) (held false), meets {} 0x4C true (shortExt false 0x4C { d := 8, a := 52 }) (busy 256) (held false),
      meets stlHooks 0x4D false { c := 4, a := 164, xs := 8 } (busy 256) (held true), meets stlHooks 0x4D true (shortExt false 0x4D { d := 4, a := 52 }) (busy 256) (held true)] =
      true := by decide +kernel
-- O29: two lanes in global memory and in core-local memory; a `red` of core-local memory; a partial that another agent meets.
theorem witness_atomicLanes :
    let clm : W64 := 0xFFF0000000000040
    let s0 := cachedPage 2 (twoAt 0x20100)
    let fine (i : Iss) (s : State) : Bool := (s.team? i.team).isSome && i.lanes == [0, 1] && i.lanes.all (fun l => (i.va s l).toNat % 4 == 0 && clmTag (i.va s l) == none &&
      (match s.translate i.core i.ctx (i.va s l) { r := true, w := true } with | (s', .ok pa) => s' == s && s.homePasses i.ctx pa true && s.poison == [] | _ => false))
    let inClm (i : Iss) (s : State) : Bool := (match s.team? i.team with
      | some t => i.lanes == [0, 1] && i.lanes.all (fun l => (match clmTag (i.va s l) with
        | some o => (match t.resolve i.core o 4 with | some (c, x) => s.clmGate i.team t c x 4 true == .ok && s.lostLine t c x 4 == none | none => false)
        | none => false))
      | none => false)
    let red : Ext := { a := 164, b := 165, ty := 2 }
    all [meets (atomHooks false) 0x53 false { d := 8, a := 164, b := 165, ty := 2 } s0 fine, meets ackHooks 0x54 false red s0 fine,
      meets (atomHooks false) 0x53 false { d := 8, a := 164, b := 165, ty := 2 } (twoAt clm) inClm,
      meets ackHooks 0x54 false red (twoAt clm) (fun i s => i.lanes == [0, 1] && i.lanes.all (fun l => (i.va s l).toNat % 4 == 0 && (clmTag (i.va s l)).isSome)),
      base.partials == [] && !base.homePasses 1 0x50000 true && (FMap.find ({ base with poison := [(0x804, false)] } : State).poison (0x20100 / 64)).isSome] = true := by
  decide +kernel
-- O33: a CAM that holds a name once, with a count.
theorem witness_camRemove : all [((pinned base).core 0).pins.length == 1, (pinned base).camCount 0 1 0x77 == 1, (pinned base).camCount 0 1 0x78 == 0] = true := by
  decide +kernel
-- O49: a launch whose descriptor is known: an independent one, its second team; a weakly parallel one with further members, with none left, with the next team.
theorem witness_laterAdmission :
    let d (shape : W64) : Descriptor := { entry := 0x20000, shape, res := smallRes }
    let later (shape teams : W64) (k : Nat) (bound : Nat := 32000) : State :=
      (launching shape smallRes teams 0x20200 bound).modLaunch 0 (fun L => { L with desc := some (d shape), nextTeam := k })
    let ready (s : State) : Bool := (match s.ctx? 1 with | some c => c.slot == some 0 && c.state == .resident && c.pairs == [0] && s.pairRuns 0 && !c.partialSaved 0 | none => false) &&
      decide (6 ≤ s.hub.dawn)
    let part : State := (later 0x1010 2 1).modTeam 0 (fun t => { t with ngroups := 2 })
    let none' (s : State) : State := { s with teams := [] }
    all [ready (later 0x800 2 1) && (d 0x800).prog == 1 && ((later 0x800 2 1).placeTeam (launchOf (later 0x800 2 1)) 0 (d 0x800) 1 [0]).isSome,
      ready (later 0x800 2 1 0) && ((later 0x800 2 1 0).placeTeam (launchOf (later 0x800 2 1 0)) 0 (d 0x800) 1 [0]).isNone,
      ready part && (d 0x1010).prog == 2 && (match part.partialTeam 0 with
        | some (tid, tm) => (part.placeSome (launchOf part) 0 tid (d 0x1010) tm.index tm.core ((List.range (d 0x1010).ngroups).filter (fun g => !tm.started.contains g))).2 != 0 &&
          part.pairRuns tm.pair
        | none => false),
      ready (none' (later 0x1000 2 2)) && ((none' (later 0x1000 2 2)).partialTeam 0).isNone && (d 0x1000).prog == 2,
      ready (none' (later 0x1000 2 1)) && (((none' (later 0x1000 2 1)).emptied [0]).placeTeam (launchOf (later 0x1000 2 1)) 0 (d 0x1000) 1 [0]).isSome &&
        ((none' (later 0x1000 2 1)).startWeak (launchOf (later 0x1000 2 1)) 0 (d 0x1000) 1 [0]).isSome,
      ready (later 0x1000 2 1 0) && (((later 0x1000 2 1 0).emptied [0]).placeTeam (launchOf (later 0x1000 2 1 0)) 0 (d 0x1000) 1 [0]).isNone] = true := by decide +kernel
-- O55: saved pairs with an image for each core, at the bound and above it; a restore of both; a break on a pair that is being vacated.
theorem witness_severalImages :
    let im (core resv : Nat) : CoreImage := { core, ops := [(core + 1,
      { agent := .group (64 * core) .pc0, core, ctx := 1, resv := [(core, resv)], kind := .copy gx none none })] }
    let saved (a b : Nat) : State := ((ctxIs .saved).modCtx 1 (fun c => { c with pairs := [], savedPairs := [0], dirlog2 := 10, image := [im 0 a, im 1 b] })).modHub (fun h =>
      { h with portsUp := [] })
    let status (s : State) : Option (BitVec 16) := (after (.assign 1 [0] false) s).bind (fun t => (t.hub.commands.getLast?).bind (fun (c : Command) => c.status))
    let restoring : State := (saved 0 0).modHub (fun h => { h with restores := [{ ctx := 1, pairs := [0], held := true }] })
    let broken (vs : List Vacate) : State := base.modHub (fun h => { h with broken := [(1, 5, .group 0 .pc0), (1, 6, .group 128 .pc0)], vacates := vs })
    let v : Vacate := { ctx := 1, pairs := [1], since := 0, cores := [2, 3] }
    all [isNext (.assign 1 [0] false) (saved 0 0) && status (saved 0 0) == none, status (saved 0 40000) == some 5, status (saved 40000 0) == some 5,
      isNext (.restoreComplete 1) restoring && restoring.hub.tripped == [], isNext (.debugResume 1) (broken [v]) && (broken [v]).hub.broken.length == 2] = true := by decide +kernel
-- O56: a saved group whose handler has trapped: its two records are answered as one.
theorem witness_partnerRecord :
    let gr : Group := { theGroup served with handler := { (theGroup served).handler with stopped := true, tok := 5 } }
    let s : State := base.modCtx 1 (fun c => { c with
      image := [{ core := 0, groups := [(3, gr)] }], faults := [{ record := {}, who := .slot 3 5 }, { record := {}, who := .nested 3 }] })
    all [s.ownerWhere 1 (.nested 3) == .saved, s.partnerRecord 1 (.nested 3) == some (.slot 3 5), s.partnerRecord 1 (.slot 3 5) == some (.nested 3),
      isNext (.driverReplay 1 (some 1)) s] = true := by decide +kernel
-- O57: a unit that the hypervisor has taken and armed for itself, and what it set aside.
theorem witness_unitTaken :
    let u : TraceUnit := { ctx := 1, base := 0x20000, k := 6, mask := 2, enabled := true, source0 := 2, value0 := 9 }
    let s : State := base.modHub (fun h => { h with traces := [(7, u)] })
    let taken (c : State → Bool) : Bool := match after (.hvResourceTake (.unit 7)) s with | some t => c t | none => false
    all [(FMap.at {} s.hub.traces 7).hyper == false && FMap.wf s.hub.traces && FMap.wf s.hub.suspended,
      taken (fun t => (FMap.at {} t.hub.traces 7).hyper && FMap.find t.hub.suspended 7 == some u),
      taken (fun t => isNext (.traceUnitArm 7 { k := 6, base := 0x21000, hyper := true }) t && isNext (.traceUnitArm 7 { k := 6 }) t),
      ((s.setBank 0 1 { hyper := true }).bank 0 1).hyper && isNext (.hvResourceFree (.bank 0 1)) (s.setBank 0 1 { hyper := true })] = true := by decide +kernel
-- O60: a die on which a context is being restored; a saved image of a context that a hard stop loses; a clean line of the L2 whose owner is counted.
theorem witness_restoredOnDie :
    let rd (deg : Int) : Reading := { sensor := 0, temp := 16 * deg }
    let restoring : State := (base.modCtx 1 (fun c => { c with pairs := [], savedPairs := [0] })).modHub (fun h => { h with restores := [{ ctx := 1, pairs := [0], held := true }] })
    let lost : State := { base.modCtx 1 (fun c => { c with image := [{ core := 4, groups := [(256, theGroup base)] }] }) with threads := [] }
    let clean : State := { base.modCtx 1 (fun c => { c with owner := 1 }) with l2 := [(l2Key 0 0x800, { dirty := false, ctx := 1 })], owners := [(1, { configured := true })] }
    all [restoring.hub.tripped == [] && isNext (.thermalSample [rd 106]) restoring, lost.ops == [] && lost.groups.length == 1 && isNext (.thermalSample [rd 116]) lost,
      clean.ownerOf 1 == 1 && (clean.l2.find? (fun y => y.1 % 2 ^ 60 == 0x800 && !y.2.dirty)).isSome && isNext (.eccError (.cleanL2 0x20000)) clean] = true := by decide +kernel

end Sys2Proof.Tests
end

section
/-! PROOFS. O23: the address of a lane, and an access of one element at its home. -/
namespace Sys2Proof.Machine

open Sys2Proof

/-! What the L2, the race check and the path caches leave alone: the bytes of HBM -/

@[simp] theorem State.unstamp_mem (s : State) (line : Nat) : (s.unstamp line).mem = s.mem := by
  unfold State.unstamp
  split <;> rfl

@[simp] theorem State.l2Evict_mem (s : State) (key : Nat) : (s.l2Evict key).mem = s.mem := by
  unfold State.l2Evict
  dsimp only
  rw [apply_ite State.mem, State.unstamp_mem, ite_self]
  split
  · split
    · rw [State.addUsage_mem]
    · rfl
  · rfl

theorem State.foldl_l2Evict_mem (s : State) (keys : List Nat) : (keys.foldl State.l2Evict s).mem = s.mem := by
  induction keys generalizing s with
  | nil => rfl
  | cons key keys ih => exact (ih (s.l2Evict key)).trans (s.l2Evict_mem key)

@[simp] theorem State.l2EvictLine_mem (s : State) (line : Nat) : (s.l2EvictLine line).mem = s.mem := by
  unfold State.l2EvictLine
  rw [State.unstamp_mem, State.foldl_l2Evict_mem]

@[simp] theorem State.l2Touch_mem (s : State) (ctx pa : Nat) (write : Bool) : (s.l2Touch ctx pa write).mem = s.mem := by
  unfold State.l2Touch
  dsimp only
  split
  · split <;> rfl
  · rw [State.addUsage_mem]
    dsimp only
    split
    · rfl
    · exact State.l2Evict_mem ..

@[simp] theorem State.raceCheck_mem (s : State) (me : Nat) (mine : AgentState) (line : Nat) (mask : W64) :
    (s.raceCheck me mine line mask).1.mem = s.mem := by
  unfold State.raceCheck
  split
  · rfl
  · dsimp only
    split
    · rw [State.l2EvictLine_mem, State.drawBit_mem]
    · rfl

@[simp] theorem State.allocLine_mem (s : State) (l : CacheLine) (hint : Nat) : (s.allocLine l hint).mem = s.mem := rfl

@[simp] theorem State.dropLines_mem (s : State) (f : CacheLine → Bool) : (s.dropLines f).mem = s.mem := rfl

@[simp] theorem State.unpoison_mem (s : State) (line : Nat) : (s.unpoison line).mem = s.mem := rfl

@[simp] theorem State.ownerEvent_mem (s : State) (ctx pa : Nat) : (s.ownerEvent ctx pa).mem = s.mem := State.midnight_mem ..

/-- Where no core holds an update-only line, no recall changes anything. -/
theorem State.recall_of_no_partials {s : State} (h : s.partials = []) (line : Nat) : s.recall line = s := by
  simp [State.recall, h]

/-! Reads and writes at the home (R277) -/

theorem State.homeRead_passes {s : State} {ctx pa : Nat} (n : Nat) (hpart : s.partials = [])
    (hclean : FMap.find s.poison (pa / 64) = none) (h : s.homePasses ctx pa false = true) :
    s.homeRead ctx pa n = (s.l2Touch ctx pa false, .ok (Mem.readNat s.mem pa n)) := by
  simp [State.homeRead, h, State.recall_of_no_partials hpart, hclean]

theorem State.homeRead_refused {s : State} {ctx pa : Nat} (n : Nat) (h : s.homePasses ctx pa false = false) :
    s.homeRead ctx pa n = (s.ownerEvent ctx pa, .error (.owner, 2)) := by
  simp [State.homeRead, h]

theorem State.homeWrite_passes {s : State} {ctx pa : Nat} (bs : List Byte) (h : s.homePasses ctx pa true = true) :
    s.homeWrite ctx pa bs = ((s.homeWriteBytes pa bs).l2Touch ctx pa true, .ok ()) := by
  simp [State.homeWrite, h]

theorem State.homeWrite_refused {s : State} {ctx pa : Nat} (bs : List Byte) (h : s.homePasses ctx pa true = false) :
    s.homeWrite ctx pa bs = (s.ownerEvent ctx pa, .error (.owner, 2)) := by
  simp [State.homeWrite, h]

theorem State.homeWriteBytes_mem {s : State} (pa : Nat) (bs : List Byte) (hpart : s.partials = []) :
    (s.homeWriteBytes pa bs).mem = Mem.writeBytes s.mem pa bs := by
  unfold State.homeWriteBytes
  rw [State.recall_of_no_partials hpart]
  dsimp only
  split <;> rfl

/-! One element through a path (R76, R194) -/

section
variable {s : State} {core ctx pa : Nat} {path : Path} (me : Nat) (ag : AgentState)

/-- The search for a line in a path's cache misses where no line of that core, path and number is held. -/
theorem CacheLine.find_isAt_eq_none {caches : List CacheLine} {line : Nat}
    (h : ∀ c ∈ caches, ¬ (c.core = core ∧ c.path = path ∧ c.line = line)) :
    caches.find? (fun l => l.isAt core path line) = none := by
  rw [List.find?_eq_none]
  intro c hc hat
  simp only [CacheLine.isAt, Bool.and_eq_true, beq_iff_eq] at hat
  obtain ⟨⟨hcore, hpath⟩, hline⟩ := hat
  exact h c hc ⟨hcore, hpath, hline⟩

/-- A read that misses its path's cache takes the bytes of HBM where the ownership check passes, and changes none. -/
theorem State.pathRead_miss_passes (n hint : Nat) (hpart : s.partials = [])
    (hmiss : s.caches.find? (fun l => l.isAt core path (pa / 64)) = none) (hclean : FMap.find s.poison (pa / 64) = none)
    (h : s.homePasses ctx pa false = true) :
    (s.pathRead core path ctx me ag pa n hint).2.1 = .ok (Mem.readNat s.mem pa n) ∧
    (s.pathRead core path ctx me ag pa n hint).1.mem = s.mem := by
  simp only [State.pathRead, hmiss, State.recall_of_no_partials hpart, State.homeRead_passes n hpart hclean h, true_and]
  split <;> simp

theorem State.pathRead_miss_refused (n hint : Nat) (hpart : s.partials = [])
    (hmiss : s.caches.find? (fun l => l.isAt core path (pa / 64)) = none) (h : s.homePasses ctx pa false = false) :
    s.pathRead core path ctx me ag pa n hint = (s.ownerEvent ctx pa, .error (.owner, 2), none) := by
  simp only [State.pathRead, hmiss, State.recall_of_no_partials hpart, State.homeRead_refused n h]

/-- A write that the ownership check lets pass leaves its bytes in HBM. -/
theorem State.pathWrite_passes (bs : List Byte) (hpart : s.partials = []) (h : s.homePasses ctx pa true = true) :
    (s.pathWrite core path ctx me ag pa bs).2 = .ok () ∧
    (s.pathWrite core path ctx me ag pa bs).1.mem = Mem.writeBytes s.mem pa bs := by
  simp only [State.pathWrite, State.homeWrite_passes bs h, State.l2Touch_mem, State.homeWriteBytes_mem pa bs hpart, and_self]

theorem State.pathWrite_refused (bs : List Byte) (h : s.homePasses ctx pa true = false) :
    s.pathWrite core path ctx me ag pa bs = (s.ownerEvent ctx pa, .error (.owner, 2)) := by
  simp only [State.pathWrite, State.homeWrite_refused bs h]

end

/-! The address of a lane (R191, R197) -/

theorem toNat_bits_zero {w : Nat} (x : BitVec w) (n : Nat) : (bits x 0 n).toNat = x.toNat % 2 ^ n := by
  simp [bits, BitVec.extractLsb'_toNat]

/-- The top bit of four is clear where the number is below 8. -/
theorem getLsbD_three_eq_false_iff (x : BitVec 4) : x.getLsbD 3 = false ↔ x.toNat < 8 := by
  revert x
  decide

theorem shiftLeft_eq_mul_ofNat {w : Nat} (x : BitVec w) (k : Nat) : x <<< k = x * BitVec.ofNat w (2 ^ k) := by
  have power : BitVec.twoPow w k = BitVec.ofNat w (2 ^ k) :=
    BitVec.eq_of_toNat_eq (by rw [BitVec.toNat_twoPow, BitVec.toNat_ofNat])
  rw [BitVec.shiftLeft_eq_mul_twoPow, power]

/-- The address of a lane in the words of R191: the index is scaled by XS[2:0], and is left out where XS[3] is 1. -/
theorem Iss.addr_eq (i : Iss) (s : State) (l : Nat) :
    i.addr s l = i.va s l + (if i.f.xs.toNat < 8 then (bits (i.vb s l) 0 32).signExtend 64 else 0) *
      BitVec.ofNat 64 (2 ^ (i.f.xs.toNat % 8)) + i.f.imm.signExtend 64 := by
  have noIndex : i.f.xs.getLsbD 3 = true ↔ ¬ i.f.xs.toNat < 8 := by
    rw [← getLsbD_three_eq_false_iff, Bool.not_eq_false]
  have scale : (bits i.f.xs 0 3).toNat = i.f.xs.toNat % 8 := toNat_bits_zero i.f.xs 3
  have low : (i.vb s l).setWidth 32 = bits (i.vb s l) 0 32 := BitVec.setWidth_eq_extractLsb' (by decide)
  simp only [Iss.addr, noIndex, ite_not, scale, low, shiftLeft_eq_mul_ofNat]

/-- The address of an element in the words of R197: its tile of 512 bytes, its row of 64, its chunk of 16 exchanged by row. -/
theorem Iss.tileAddr_eq (i : Iss) (s : State) (l : Nat) :
    let size := tyBits i.f.ty.toNat / 8
    let row := (bits (i.vb s l) 0 32).toNat
    let byte := (bits (i.read s i.bRun.head? l) 0 32).toNat * size
    let tile := row / 8 * i.f.imm.toNat + byte / 64
    i.tileAddr s l =
      i.va s l + BitVec.ofNat 64 (512 * tile + 64 * (row % 8) + 16 * ((byte / 16 % 4) ^^^ (row % 4)) + byte % 16) := by
  unfold Iss.tileAddr tySize Iss.ty
  simp only [toNat_bits_zero, Nat.mul_comm]

end Sys2Proof.Machine

namespace Sys2Proof.Proofs

open Sys2Proof Sys2Proof.Machine

/-- Settles O23: the addresses by what the instruction computes, the accesses by the ownership check at the home. -/
theorem addressesAndHome : Obligations.AddressesAndHome := by
  refine ⟨fun i s l => ⟨i.addr_eq s l, i.tileAddr_eq s l⟩, ?_⟩
  intro s core path ctx me ag pa n hint bs hpart hwf line r w habsent hclean
  have hmiss := CacheLine.find_isAt_eq_none habsent
  refine ⟨State.pathRead_miss_passes me ag n hint hpart hmiss hclean, fun h => ?_, fun h => ?_, fun h => ?_⟩
  · have hr : r = _ := State.pathRead_miss_refused me ag n hint hpart hmiss h
    exact ⟨by rw [hr], by rw [hr, State.ownerEvent_mem]⟩
  · obtain ⟨hok, hmem⟩ := State.pathWrite_passes (core := core) (path := path) me ag bs hpart h
    refine ⟨hok, ?_, fun a ha => ?_⟩
    · rw [hmem, Mem.readBytes_writeBytes pa bs hwf]
    · rw [hmem, Mem.read_writeBytes_other s.mem pa bs ha]
  · have hw : w = _ := State.pathWrite_refused me ag bs h
    exact ⟨by rw [hw], by rw [hw, State.ownerEvent_mem]⟩

end Sys2Proof.Proofs
end

section
/-! PROOFS. O6: what a reset leaves. -/
namespace Sys2Proof.Machine

open Sys2Proof

/-- A row that a reset leaves is unbacked and full, and reads as zero in every lane. -/
theorem Row.default_reads : ({} : Row).backed = false ∧ ({} : Row).full = true ∧ ∀ l, ({} : Row).lane l = 0 := ⟨rfl, rfl, fun _ => rfl⟩

/-- Empty memory reads as zero at every address. -/
theorem Mem.read_nil (a : Nat) : Mem.read [] a = 0 := rfl

end Sys2Proof.Machine

namespace Sys2Proof.Proofs

open Sys2Proof Sys2Proof.Machine

/-- Settles O6: every field by its value in the initial state, the rows and memory by what an empty map reads. -/
theorem resetValues : Obligations.ResetValues := by
  have cell : ({} : Cell64).val = 0 ∧ ({} : Cell64).full = true := ⟨rfl, rfl⟩
  have queue : ({} : Queue).qcfg = 0 ∧ ({} : Queue).qbase = 0 ∧ ({} : Queue).qtail = 0 ∧ ({} : Queue).qhead = 0 ∧
      ({} : Queue).qphase = 0 ∧ ({} : Queue).qpcnt = 0 ∧ State.reset.queues = [] := ⟨rfl, rfl, rfl, rfl, rfl, rfl, rfl⟩
  have owner : ({} : Owner).word = 0 ∧ ({} : Owner).deficit = 0 ∧ ({} : Owner).usage = [] ∧ State.reset.owners = [] := ⟨rfl, rfl, rfl, rfl⟩
  exact ⟨Row.default_reads, cell, queue, owner, rfl, rfl, rfl, rfl, rfl, rfl, rfl, rfl, rfl, rfl, Mem.read_nil⟩

end Sys2Proof.Proofs
end

section
/-! PROOFS. O48: what a group and a sequencer thread hold when they start. -/
namespace Sys2Proof.Machine

open Sys2Proof

/-! Cleared memory (R69) -/

theorem FMap.find_filter_of_dropped {α : Type} (m : FMap α) (p : Nat × α → Bool) {k : Nat} (h : ∀ v, p (k, v) = false) :
    FMap.find (m.filter p) k = none := by
  induction m with
  | nil => rfl
  | cons x t ih =>
    obtain ⟨j, w⟩ := x
    cases hp : p (j, w) with
    | false => rw [List.filter_cons_of_neg (by simp [hp]), ih]
    | true =>
      have hkj : k ≠ j := fun e => by rw [← e, h w] at hp; cases hp
      rw [List.filter_cons_of_pos hp]
      simp [FMap.find, hkj, ih]

/-- A cleared byte reads as zero. -/
theorem Mem.read_clear (m : Mem) {a n k : Nat} (hlo : a ≤ k) (hhi : k < a + n) : Mem.read (Mem.clear m a n) k = 0 := by
  have dropped : FMap.find (Mem.clear m a n) k = none := FMap.find_filter_of_dropped m _ (fun v => by simp [hlo, hhi])
  simp [Mem.read, FMap.at, dropped, Mem.blank]

/-! A fresh epoch (R347) changes no memory -/

@[simp] theorem State.epoch_clm (s : State) : s.epoch.2.clm = s.clm := rfl

/-! A starting group (R10, R20, R23) -/

/-- The registers at a start: the four that hold something, and every other one zero and full. -/
theorem startQs_other (args : W64) (team gidx teams : Nat) {n : Nat} (h : 4 ≤ n) : FMap.at {} (startQs args team gidx teams) n = {} := by
  have h0 : n ≠ 0 := by omega
  have h1 : n ≠ 1 := by omega
  have h2 : n ≠ 2 := by omega
  have h3 : n ≠ 3 := by omega
  simp [FMap.at, startQs, FMap.find, h0, h1, h2, h3]

theorem startQs_full (args : W64) (team gidx teams n : Nat) : (FMap.at {} (startQs args team gidx teams) n).full = true := by
  match n with
  | 0 | 1 | 2 | 3 => rfl
  | n + 4 => rw [startQs_other _ _ _ _ (by omega)]

/-- The quarter that takes a group is one of the four of the core. -/
theorem State.pickQuarter_lt {s : State} {core floor q : Nat} (h : s.pickQuarter core floor = some q) : q < 4 := by
  obtain ⟨best, hbest, rfl⟩ := Option.map_eq_some_iff.1 h
  clear h
  revert best
  refine List.foldlRecOn (motive := fun (best : Option (Nat × Nat)) => ∀ b, best = some b → b.1 < 4) _ _ ?_ ?_
  · intro b hb
    cases hb
  · intro best ih x hx b hb
    have hx4 : x < 4 := List.mem_range.1 (List.mem_filter.1 hx).1
    dsimp only at hb
    split at hb
    · split at hb
      · cases hb; exact hx4
      · exact ih b hb
    · cases hb; exact hx4

/-- The group that `placeGroup` puts into its place. -/
def startingGroup (L : Launch) (lid tid : Nat) (d : Descriptor) (team idx now : Nat) (half : Bool) (agent : AgentState) : Group :=
  { ctx := L.ctx, team := tid, launch := lid, index := idx, width := d.width, half, floor := d.floor,
    strict := d.shape.getLsbD 14, vpol := d.shape.getLsbD 13, vw1 := d.vw1, vw2 := d.vw2, vw3 := d.vw3, entry := d.entry,
    spt := d.spt, qs := startQs L.record.args team idx (bits L.record.teams 0 33).toNat,
    s0 := { status := .live, pc := d.entry, mask := allLanes d.width, fmt := bits d.fmt 0 32, notBefore := now }, agent }

/-- A group that is placed takes a free place of its core; nothing changes but that place, the last epoch and the next agent number. -/
theorem State.placeGroup_some {s t : State} {L : Launch} {lid tid team idx core : Nat} {d : Descriptor}
    (h : s.placeGroup L lid tid d team idx core = some t) :
    ∃ place half, place / 64 = core ∧ s.group? place = none ∧
      t = { s.epoch.2 with nextId := s.nextId + 1 }.setGroup place
        (startingGroup L lid tid d team idx s.now half { uid := s.nextId + 1, start := s.now, horizon := s.epoch.1 }) := by
  unfold State.placeGroup at h
  split at h
  · cases h
  · next q hq =>
    dsimp only at h
    split at h
    · cases h
    · next k hk =>
      have hq4 := State.pickQuarter_lt hq
      have hk16 : k < 16 := List.mem_range.1 (List.mem_of_find?_eq_some hk)
      have hfree : s.group? (64 * core + 16 * q + k) = none := by simpa using List.find?_some hk
      injection h with h
      exact ⟨64 * core + 16 * q + k, _, by omega, hfree, h.symm⟩

/-! A starting team and sequencer thread (R23, R41, R44, R69) -/

/-- The sequencer thread that `placeShell` puts into its place. -/
def startingThread (L : Launch) (lid tid : Nat) (d : Descriptor) (team now : Nat) (agent : AgentState) : Thread :=
  { ctx := L.ctx, team := tid, launch := lid, entry := d.entry, spt := d.spt, agent,
    slot := { status := .live, pc := d.sentry, mask := 1, notBefore := now },
    xs := [(0, { val := L.record.args }), (1, { val := BitVec.ofNat 64 team })] }

/-- The registers of a starting thread beside x0 and x1 are zero and full. -/
theorem startingThread_x_other (L : Launch) (lid tid : Nat) (d : Descriptor) (team now : Nat) (agent : AgentState) {n : Nat} (h : 2 ≤ n) :
    (startingThread L lid tid d team now agent).x n = {} := by
  have h0 : n ≠ 0 := by omega
  have h1 : n ≠ 1 := by omega
  simp [startingThread, Thread.x, FMap.at, FMap.find, h0, h1]

/-- The record of a team on one core, with its block, its banks and its thread. -/
def startingTeam (L : Launch) (lid : Nat) (d : Descriptor) (team core base other bank th : Nat) : Team :=
  { ctx := L.ctx, launch := lid, index := team, pair := core / 2, core, span := d.span, cfix := d.shape.getLsbD 15,
    ngroups := d.ngroups, clmSize := clmBlock d.clm, clmBase0 := base, clmBase1 := other, bank0 := bank, nbanks := d.nbanks,
    thread := if d.seq then some (4 * core + th) else none, threadEnded := !d.seq }

/-- A team of one core that is placed has its block cleared, and a thread of its core where it wants one. -/
theorem State.placeShell_some {s t : State} {L : Launch} {lid tid team core : Nat} {d : Descriptor} (hspan : d.span = false)
    (h : s.placeShell L lid tid d team core = some t) :
    ∃ base other bank th, t.team? tid = some (startingTeam L lid d team core base other bank th) ∧
      t.clm = Mem.clear s.clm (clmBytes * core + base) (clmBlock d.clm) ∧
      (d.seq = true → th < 4 ∧ ∃ agent, t.thread? (4 * core + th) = some (startingThread L lid tid d team s.now agent)) := by
  unfold State.placeShell at h
  dsimp only at h
  split at h
  · next base other bank th hbase hother hbank hth =>
    simp only [hspan, Bool.false_eq_true, if_false, Option.some.injEq] at h
    refine ⟨base, other, bank, th, ?_, ?_, fun hseq => ?_⟩
    · subst h
      rw [apply_ite (State.team? · tid)]
      simp [State.team?, State.setThread, State.epoch, FMap.find_put_same, startingTeam, hspan]
    · subst h
      rw [apply_ite State.clm]
      simp
    · have hth4 : th < 4 := by
        rw [if_pos hseq] at hth
        exact List.mem_range.1 (List.mem_of_find?_eq_some hth)
      rw [if_pos hseq] at h
      subst h
      exact ⟨hth4, _, by rw [State.thread?_setThread, if_pos rfl]; rfl⟩
  · cases h

/-- The block of a team on one core is the range of core-local memory that its start clears. -/
theorem startingTeam_key (L : Launch) (lid : Nat) (d : Descriptor) (team core base other bank th o : Nat) (hspan : d.span = false) :
    (startingTeam L lid d team core base other bank th).key core o = clmBytes * core + base + o := by
  simp [Team.key, Team.baseOn, startingTeam, hspan]

end Sys2Proof.Machine

namespace Sys2Proof.Proofs

open Sys2Proof Sys2Proof.Machine

/-- Settles O48: by the group, team and thread that the placement puts into their places. -/
theorem groupsStart : Obligations.GroupsStart := by
  intro s t L lid tid team idx core d
  refine ⟨fun h => ?_, fun h _ hspan => ?_⟩
  · obtain ⟨place, half, hcore, hfree, rfl⟩ := State.placeGroup_some h
    refine ⟨place, startingGroup L lid tid d team idx s.now half _, by rw [State.group?_setGroup, if_pos rfl], hfree, hcore,
      rfl, rfl, rfl, rfl, rfl, rfl, rfl, BitVec.ofNat_toNat .., fun n => startQs_other _ _ _ _, startQs_full _ _ _ _,
      fun _ => rfl, fun _ => ⟨rfl, rfl⟩, rfl, rfl, rfl, rfl, rfl, rfl, rfl, rfl, rfl, rfl, rfl, rfl, rfl, rfl, rfl, rfl,
      fun k hk => ?_, rfl, rfl⟩
    rw [State.group?_setGroup, if_neg hk]
    rfl
  · obtain ⟨base, other, bank, th, hteam, hclm, hthread⟩ := State.placeShell_some hspan h
    refine ⟨_, hteam, rfl, rfl, rfl, rfl, rfl, fun k hk => ?_, fun hseq => ?_⟩
    · rw [startingTeam_key _ _ _ _ _ _ _ _ _ _ hspan, hclm]
      exact Mem.read_clear _ (by omega) (Nat.add_lt_add_left hk _)
    · obtain ⟨hth4, agent, hth⟩ := hthread hseq
      exact ⟨4 * core + th, _, if_pos hseq, by omega, hth, rfl, rfl, rfl, rfl, fun k => startingThread_x_other L lid tid d team s.now agent,
        rfl, rfl, rfl, rfl, rfl⟩

end Sys2Proof.Proofs
end

section
/-! PROOFS. O31: barrier objects, and the instructions that use them. -/
namespace Sys2Proof.Machine

open Sys2Proof

/-! The fields of an object (R207, R208) -/

namespace BarObj

/-- Whether the phase of an object is complete: all arrivals are there and no bytes are expected. -/
def isComplete (b : BarObj) : Bool := decide (b.arrived = b.expect) && decide (b.bytes = 0)

theorem flip_eq (b : BarObj) :
    b.flip = { b with arrived := if b.isComplete then 0 else b.arrived, phase := if b.isComplete then !b.phase else b.phase } := by
  unfold flip isComplete
  split <;> rfl

theorem init_eq (b : BarObj) (n : Nat) :
    b.init n = { b with expect := if n % 65536 = 0 then 1 else n % 65536, arrived := 0, bytes := 0, err := false } := by
  have count : max 1 (n % 65536) = if n % 65536 = 0 then 1 else n % 65536 := by split <;> omega
  rw [init, count]

/-- Each field and each run of reserved bits stands in its place of the 128 bits (R207). -/
theorem toNat_fields {b : BarObj} {old : Nat} (he : b.expect < 65536) (ha : b.arrived < 65536) :
    b.toNat old % 65536 = b.expect ∧ b.toNat old / 65536 % 65536 = b.arrived ∧ b.toNat old / 2 ^ 32 % 2 = b.phase.toNat ∧
    b.toNat old / 2 ^ 33 % 2 = b.err.toNat ∧ b.toNat old / 2 ^ 34 % 2 ^ 30 = old / 2 ^ 34 % 2 ^ 30 ∧
    b.toNat old / 2 ^ 64 % 2 ^ 40 = b.bytes.toNat ∧ b.toNat old / 2 ^ 104 = old / 2 ^ 104 % 2 ^ 24 := by
  have hphase := b.phase.toNat_lt
  have herr := b.err.toNat_lt
  have hbytes := b.bytes.isLt
  have sum : b.toNat old = b.expect + 65536 * b.arrived + 2 ^ 32 * b.phase.toNat + 2 ^ 33 * b.err.toNat +
      2 ^ 34 * (old / 2 ^ 34 % 2 ^ 30) + 2 ^ 64 * b.bytes.toNat + 2 ^ 104 * (old / 2 ^ 104 % 2 ^ 24) := by
    rw [toNat, Nat.mod_eq_of_lt he, Nat.mod_eq_of_lt ha]
    cases b.phase <;> cases b.err <;> rfl
  rw [sum]
  refine ⟨?_, ?_, ?_, ?_, ?_, ?_, ?_⟩ <;> omega

theorem ofNat_toNat {b : BarObj} {old : Nat} (he : b.expect < 65536) (ha : b.arrived < 65536) : ofNat (b.toNat old) = b := by
  obtain ⟨hexpect, harrived, hphase, herr, -, hbytes, -⟩ := toNat_fields (old := old) he ha
  have bytes : BitVec.ofNat 40 (b.toNat old / 2 ^ 64) = b.bytes := BitVec.eq_of_toNat_eq (by rw [BitVec.toNat_ofNat, hbytes])
  obtain ⟨expect, arrived, phase, err, _⟩ := b
  simp only [ofNat, hexpect, harrived, hphase, herr, bytes]
  cases phase <;> cases err <;> rfl

theorem toNat_lt {b : BarObj} {old : Nat} (he : b.expect < 65536) (ha : b.arrived < 65536) : b.toNat old < 2 ^ 128 := by
  obtain ⟨-, -, -, -, -, -, htop⟩ := toNat_fields (b := b) (old := old) he ha
  omega

end BarObj

/-! What an instruction meets at its object -/

theorem State.clmGate_ok {s : State} {tid core o n : Nat} {t : Team} {store : Bool} (h : s.clmGate tid t core o n store = .ok) :
    (linesOf o n).findSome? (t.untouched core) = none ∧ (store && t.readOnlyAt core o n) = false := by
  unfold State.clmGate at h
  dsimp only at h
  split at h
  · cases h
  · split at h
    · cases h
    · next hnone =>
      split at h
      · cases h
      · next hstore => exact ⟨hnone, Bool.eq_false_iff.2 hstore⟩

/-- One access whose gate is open and whose lines are not lost goes on, and leaves the state as it was. -/
theorem Iss.clmReady_ok (i : Iss) {s : State} {t : Team} {store : Bool} (kind : AccKind) {n : Nat} (perLane : Bool) {acc : ClmAcc}
    (hgate : s.clmGate i.team t acc.core acc.o n store = .ok) (hlost : s.lostLine t acc.core acc.o n = none) :
    i.clmReady s t store kind n perLane [acc] [] = .ok s := by
  obtain ⟨huntouched, hro⟩ := State.clmGate_ok hgate
  have lines : s.untouchedLines i.team t n [acc] = [] := by
    rw [List.findSome?_eq_none_iff] at huntouched
    simp only [State.untouchedLines, List.flatMap_cons, List.flatMap_nil, List.append_nil, List.filterMap_eq_nil_iff]
    intro l hl
    split
    · rfl
    · rw [huntouched l hl]; rfl
  have bad : (if store then s.readOnlyLanes i.team t n [acc] else []) = [] := by
    cases store with
    | false => rfl
    | true =>
      have hro' : t.readOnlyAt acc.core acc.o n = false := hro
      simp [State.readOnlyLanes, hro']
  have fills : s.fillFails t [] = (s, []) := rfl
  have noCause : kindTrap 0 (byLane []) = none := rfl
  simp only [Iss.clmReady, lines, fills, bad, List.map_nil, List.append_nil, noCause]
  simp [hgate, hlost]

/-- An atomic change of an object that the instruction may reach is made, and nothing else happens. -/
theorem objStore_ok {i : Iss} {s : State} {t : Team} {core o : Nat} (f : BarObj → BarObj) (hobj : i.object s true = .ok (t, core, o))
    (hgate : s.clmGate i.team t core o 16 true = .ok) (hlost : s.lostLine t core o 16 = none) :
    objStore i s f = .ok (s.modBar i.team core o f, t.lineKey core o) := by
  have ready := i.clmReady_ok .store false (acc := { lane := 0, off := i.objAddr s, core, o }) hgate hlost
  simp only [objStore, hobj, bind, Except.bind, ready, pure, Except.pure]

theorem arriveBody_ok {i : Iss} {s : State} {t : Team} {core o : Nat} (bytes : Iss → State → BitVec 40)
    (hobj : i.object s true = .ok (t, core, o)) (hgate : s.clmGate i.team t core o 16 true = .ok) (hlost : s.lostLine t core o 16 = none) :
    arriveBody bytes i s =
      .ok ((s.modBar i.team core o (fun b => b.arrive (bytes i s))).arrived i.agent (t.lineKey core o)) := by
  simp only [arriveBody, objStore_ok _ hobj hgate hlost, bind, Except.bind, pure, Except.pure]

/-! Slots and registers across changes of an agent's slot and counts -/

theorem Group.slotOf_setSlot_same (g : Group) (j : SlotId) (v : Slot) : (g.setSlot j v).slotOf j = v := by cases j <;> rfl

theorem Group.slotOf_agent (g : Group) (j : SlotId) (ag : AgentState) : ({ g with agent := ag } : Group).slotOf j = g.slotOf j := by
  cases j <;> rfl

theorem State.slot?_modSlot_same (s : State) (a : Agent) (f : Slot → Slot) : (s.modSlot a f).slot? a = (s.slot? a).map f := by
  cases a with
  | group g j =>
    simp only [State.modSlot, State.slot?, State.group?_modGroup, if_true, Option.map_map]
    congr 1
    funext gr
    exact gr.slotOf_setSlot_same j _
  | thread n =>
    simp only [State.modSlot, State.slot?, State.thread?_modThread, if_true, Option.map_map]
    rfl

/-- A change of an agent's counts changes no group but in its counts. -/
theorem State.group?_modAgent (s : State) (a : Agent) (f : AgentState → AgentState) (k : Nat) :
    ∃ h : Group → AgentState, (s.modAgent a f).group? k = (s.group? k).map (fun gr => { gr with agent := h gr }) := by
  have same : s.group? k = (s.group? k).map (fun gr => { gr with agent := gr.agent }) := by rw [Option.map_id']
  cases a with
  | group g j =>
    simp only [State.modAgent, State.group?_modGroup]
    split
    · exact ⟨_, rfl⟩
    · exact ⟨Group.agent, same⟩
  | thread n => exact ⟨Group.agent, same⟩

/-- A change of an agent's counts changes no thread but in its counts. -/
theorem State.thread?_modAgent (s : State) (a : Agent) (f : AgentState → AgentState) (k : Nat) :
    ∃ h : Thread → AgentState, (s.modAgent a f).thread? k = (s.thread? k).map (fun th => { th with agent := h th }) := by
  have same : s.thread? k = (s.thread? k).map (fun th => { th with agent := th.agent }) := by rw [Option.map_id']
  cases a with
  | group g j => exact ⟨Thread.agent, same⟩
  | thread n =>
    simp only [State.modAgent, State.thread?_modThread]
    split
    · exact ⟨_, rfl⟩
    · exact ⟨Thread.agent, same⟩

@[simp] theorem State.slot?_modAgent (s : State) (a b : Agent) (f : AgentState → AgentState) : (s.modAgent a f).slot? b = s.slot? b := by
  cases b with
  | group k j =>
    obtain ⟨h, hgroup⟩ := s.group?_modAgent a f k
    rw [State.slot?, hgroup, Option.map_map]
    exact congrArg (Option.map · (s.group? k)) (funext fun gr => gr.slotOf_agent j (h gr))
  | thread k =>
    obtain ⟨h, hthread⟩ := s.thread?_modAgent a f k
    rw [State.slot?, hthread, Option.map_map]
    rfl

@[simp] theorem State.slot?_epoch (s : State) (a : Agent) : s.epoch.2.slot? a = s.slot? a := by cases a <;> rfl

@[simp] theorem State.slot?_closeRegion (s : State) (a b : Agent) : (s.closeRegion a).2.slot? b = s.slot? b := by
  simp [State.closeRegion]

@[simp] theorem State.slot?_acquireAt (s : State) (a b : Agent) (line : Nat) (own : Option Nat) :
    (s.acquireAt a line own).slot? b = s.slot? b := by
  unfold State.acquireAt
  dsimp only
  split
  · rfl
  · exact State.slot?_modAgent ..

@[simp] theorem State.slot?_waitbDone (s : State) (a b : Agent) (line : Nat) : (s.waitbDone a line).slot? b = s.slot? b := by
  simp [State.waitbDone]

@[simp] theorem State.slot?_addUsage (s : State) (owner idx n : Nat) (b : Agent) : (s.addUsage owner idx n).slot? b = s.slot? b := by
  cases b <;> rfl

@[simp] theorem State.closeRegion_mem (s : State) (a : Agent) : (s.closeRegion a).2.mem = s.mem := State.modAgent_mem ..

@[simp] theorem State.acquireAt_mem (s : State) (a : Agent) (line : Nat) (own : Option Nat) : (s.acquireAt a line own).mem = s.mem := by
  unfold State.acquireAt
  dsimp only
  split
  · rfl
  · exact State.modAgent_mem ..

@[simp] theorem State.waitbDone_mem (s : State) (a : Agent) (line : Nat) : (s.waitbDone a line).mem = s.mem := by
  simp [State.waitbDone]

/-- What a group reads from a register does not depend on its counts. -/
theorem State.readGroupReg_agent (s : State) (a : Agent) (f : AgentState → AgentState) (gi : Nat) (g : Group) (ag : AgentState) (m : W64)
    (r : Reg) (l : Nat) : (s.modAgent a f).readGroupReg gi { g with agent := ag } m r l = s.readGroupReg gi g m r l := by
  cases a <;> rfl

/-- The operands of an instruction do not depend on the counts of any agent. -/
theorem Iss.read_modAgent (i : Iss) (s : State) (a : Agent) (f : AgentState → AgentState) (r : Option Reg) (l : Nat) :
    i.read (s.modAgent a f) r l = i.read s r l := by
  cases r with
  | none => rfl
  | some r =>
    cases hseq : i.seq with
    | true =>
      obtain ⟨h, hthread⟩ := s.thread?_modAgent a f i.gi
      simp only [Iss.read, hseq, if_true, hthread]
      cases s.thread? i.gi with
      | none => rfl
      | some th => cases r <;> rfl
    | false =>
      obtain ⟨h, hgroup⟩ := s.group?_modAgent a f i.gi
      simp only [Iss.read, hseq, Bool.false_eq_true, if_false, hgroup]
      cases s.group? i.gi with
      | none => rfl
      | some gr => exact s.readGroupReg_agent a f i.gi gr (h gr) i.smask r l

/-! What `waitb` and its wake-up leave (R13) -/

/-- A body that waits: the state that it leaves is kept, and the instruction is tried again. -/
theorem runIss_waits {h : Hooks} {op : Nat} {short ctl : Bool} {f : Ext} {body : Iss → State → Res State} {s s' : State} {i : Iss} {p : Prep}
    (hp : Passes h op short f s i p) (hb : body i s = .error (.wait s')) : runIss h op short ctl f body s = .next (i.waited s') := by
  have acts : (f.u && i.eff == 0 && !ctl && i.desc.pred) = false := by
    have := hp.acts
    cases hu : f.u <;> simp_all
  unfold runIss
  rw [hp.operands]
  simp only [hp.checks, hp.whole, acts, Iss.effect_of_held hp.held, bind, Except.bind, hb, Iss.finish]
  rfl

/-- A `waitb` whose object is no longer in the phase of its parity completes as an acquire. -/
theorem exec_waitb_flipped {f : Ext} {s : State} {i : Iss} {p : Prep} {t : Team} {core o : Nat} (hp : Passes { sync := true } 0x5C false f s i p)
    (hobj : i.object s false = .ok (t, core, o)) (hgate : s.clmGate i.team t core o 16 false = .ok)
    (hlost : s.lostLine t core o 16 = none) (hphase : (s.barObj t core o).phase ≠ (i.vb s 0).getLsbD 0) :
    exec (.waitb f) s = .next (i.complete p (s.waitbDone i.agent (t.lineKey core o))) := by
  have ready := i.clmReady_ok .load false (acc := { lane := 0, off := i.objAddr s, core, o }) hgate hlost
  have flipped : ((s.barObj t core o).phase != (i.vb s 0).getLsbD 0) = true := bne_iff_ne.2 hphase
  refine runIss_passes hp ?_
  simp only [hobj, bind, Except.bind, ready, flipped, if_true, pure, Except.pure]

/-- A `waitb` whose object is in the phase of its parity, and that is no stop site, parks its slot. -/
theorem exec_waitb_parks {f : Ext} {s : State} {i : Iss} {p : Prep} {t : Team} {core o : Nat} (hp : Passes { sync := true } 0x5C false f s i p)
    (hobj : i.object s false = .ok (t, core, o)) (hgate : s.clmGate i.team t core o 16 false = .ok)
    (hlost : s.lostLine t core o 16 = none) (hstop : f.s = false) (hphase : (s.barObj t core o).phase = (i.vb s 0).getLsbD 0) :
    exec (.waitb f) s = .next (i.waited ((s.modAgent i.agent (fun ag => { ag with ord := ag.ord })).modSlot i.agent
      (fun sl => { sl with park := .waitb (i.va s 0 + f.imm.signExtend 64) ((i.vb s 0).getLsbD 0) i.words, stall := none }))) := by
  obtain ⟨hf, -, -, -⟩ := mkIss_fields hp.operands
  have ready := i.clmReady_ok .load false (acc := { lane := 0, off := i.objAddr s, core, o }) hgate hlost
  refine runIss_waits hp ?_
  have address : i.objAddr (s.modAgent i.agent (fun ag => { ag with ord := ag.ord })) = i.va s 0 + f.imm.signExtend 64 := by
    rw [Iss.objAddr, Iss.va, Iss.read_modAgent, hf, Iss.va]
  simp only [hobj, bind, Except.bind, ready, hphase, bne_self_eq_false, Bool.false_eq_true, if_false, hf, hstop, Option.getD_none, address]

/-- The attempt of an instruction that waits leaves its slot's park and PC. -/
theorem Iss.waited_park_pc (i : Iss) (s : State) :
    ((i.waited s).slot? i.agent).map (fun (sl : Slot) => (sl.park, sl.pc)) = (s.slot? i.agent).map (fun (sl : Slot) => (sl.park, sl.pc)) := by
  rw [Iss.waited, State.slot?_modSlot_same, Option.map_map]
  rfl

/-- What a wake-up leaves: the `waitb` is done and counted, and the slot goes on after it. -/
def State.wokenOn (s : State) (a : Agent) (line words : Nat) : State :=
  let s := s.waitbDone a line
  let s := (s.modAgent a (fun ag => { ag with icnt := ag.icnt + 1 })).addUsage (s.ownerOf (s.ctxOf a)) 13 1
  s.modSlot a (fun sl => { sl with park := .none, pc := sl.pc + BitVec.ofNat 64 (4 * words), lastIssue := s.now })

theorem State.wokenOn_mem (s : State) (a : Agent) (line words : Nat) : (s.wokenOn a line words).mem = s.mem := by
  simp [State.wokenOn]

theorem State.wokenOn_park_pc (s : State) (a : Agent) (line words : Nat) :
    ((s.wokenOn a line words).slot? a).map (fun (sl : Slot) => (sl.park, sl.pc)) =
      (s.slot? a).map (fun (sl : Slot) => (Park.none, sl.pc + BitVec.ofNat 64 (4 * words))) := by
  simp only [State.wokenOn, State.slot?_modSlot_same, State.slot?_addUsage, State.slot?_modAgent, State.slot?_waitbDone, Option.map_map]
  rfl

theorem exec_waitbWake_group {s : State} {g core o : Nat} {j : SlotId} {gr : Group} {t : Team} {obj : W64} {par : Bool} {words : Nat}
    (hgr : s.group? g = some gr) (hteam : s.team? gr.team = some t) (hres : t.resolve (g / 64) obj 16 = some (core, o))
    (hpark : (gr.slotOf j).park = .woken obj words ∨ (gr.slotOf j).park = .waitb obj par words ∧ (s.barObj t core o).phase ≠ par) :
    exec (.waitbWake (.group g j)) s = .next (s.wokenOn (.group g j) (t.lineKey core o) words) := by
  have slot : s.slot? (.group g j) = some (gr.slotOf j) := by simp [State.slot?, hgr]
  show execWaitbWake (.group g j) s = _
  simp only [execWaitbWake, slot, getSome, hgr, Option.map_some, Option.bind_some, hteam, Agent.core, bind, Except.bind, pure, Except.pure]
  rcases hpark with hwoken | ⟨hwaits, hphase⟩
  · simp only [hwoken, hres, need, if_true, State.wokenOn, stepOut_ok]
  · have flipped : ((s.barObj t core o).phase != par) = true := bne_iff_ne.2 hphase
    simp only [hwaits, hres, need, flipped, if_true, State.wokenOn, stepOut_ok]

end Sys2Proof.Machine

namespace Sys2Proof.Proofs

open Sys2Proof Sys2Proof.Machine

/-- Settles O31: the fields by arithmetic on the object's 128 bits, the instructions by what each leaves where its object can be reached. -/
theorem barrierResults : Obligations.BarrierResults := by
  refine ⟨fun b n v e a old => ⟨b.init_eq n, BarObj.flip_eq _, BarObj.flip_eq _, fun he ha hold => ?_⟩, fun f s t core o => ?_⟩
  · obtain ⟨-, -, -, -, hlow, -, hhigh⟩ := BarObj.toNat_fields (b := b) (old := old) he ha
    exact ⟨BarObj.ofNat_toNat he ha, BarObj.toNat_lt he ha, hlow, by omega⟩
  · refine ⟨?_, ?_, ?_, ?_, ?_, ?_⟩
    · refine effect_of rfl fun i _ _ _ ⟨hobj, hgate, hlost⟩ => ?_
      rw [objStore_ok _ hobj hgate hlost]
      rfl
    · refine effect_of rfl fun i hf _ _ ⟨hobj, hgate, hlost⟩ => ?_
      have low : (i.vb s 0).setWidth 40 = bits (i.vb s 0) 0 40 := BitVec.setWidth_eq_extractLsb' (by decide)
      rw [arriveBody_ok _ hobj hgate hlost, low, hf]
      rfl
    · exact effect_of rfl fun i _ _ _ ⟨hobj, hgate, hlost⟩ => arriveBody_ok _ hobj hgate hlost
    · intro i p hp ⟨⟨hobj, hgate, hlost⟩, hphase⟩
      exact exec_waitb_flipped hp hobj hgate hlost hphase
    · intro i p hp ⟨hobj, hgate, hlost⟩ hstop hphase _
      refine ⟨_, exec_waitb_parks hp hobj hgate hlost hstop hphase, ?_, ?_, ?_⟩
      · simp [Iss.waited]
      · simp [Iss.waited]
      · rw [Iss.waited_park_pc, State.slot?_modSlot_same, State.slot?_modAgent, Option.map_map]
        rfl
    · intro a sl obj par words g gr j ha hgr hslot hteam hres hpark
      subst ha hslot
      refine ⟨_, exec_waitbWake_group hgr hteam hres hpark, State.wokenOn_mem .., ?_⟩
      rw [State.wokenOn_park_pc, State.slot?, hgr]
      rfl

end Sys2Proof.Proofs
end

section
/-! PROOFS. O20: a rounding gives no NaN and keeps a value of the format, and floats are ordered by their keys. -/
namespace Sys2Proof.Machine

open Sys2Proof

/-! Patterns of a format: a sign over a magnitude (R56) -/

theorem Fmt.signBit_pos (f : Fmt) : 0 < f.signBit := Nat.two_pow_pos _

theorem Fmt.two_pow_width (f : Fmt) : 2 ^ f.width = f.signBit * 2 := by rw [width, signBit, Nat.pow_succ]

/-- A finite magnitude lies below +Inf exactly where its exponent field is not all ones. -/
theorem Fmt.lt_inf_iff (f : Fmt) {ex fr : Nat} (hfr : fr < 2 ^ f.mb) : ex * 2 ^ f.mb + fr < f.inf ↔ ex < 2 ^ f.eb - 1 := by
  rw [inf, ← Nat.div_lt_iff_lt_mul (Nat.two_pow_pos _), Nat.mul_comm, Nat.mul_add_div (Nat.two_pow_pos _), Nat.div_eq_of_lt hfr, Nat.add_zero]

theorem Fmt.inf_lt_signBit (f : Fmt) : f.inf < f.signBit := by
  rw [inf, signBit, Nat.pow_add]
  exact Nat.mul_lt_mul_of_pos_right (Nat.sub_lt (Nat.two_pow_pos _) Nat.one_pos) (Nat.two_pow_pos _)

theorem Fmt.magnitude_eq (f : Fmt) (b : Nat) : b % f.signBit = b / 2 ^ f.mb % 2 ^ f.eb * 2 ^ f.mb + b % 2 ^ f.mb := by
  rw [signBit, Nat.add_comm f.eb, Nat.pow_add, Nat.mod_mul, Nat.mul_comm, Nat.add_comm]

theorem Fmt.signed_mod_signBit (f : Fmt) (neg : Bool) {b : Nat} (h : b < f.signBit) : f.signed neg b % f.signBit = b := by
  cases neg with
  | false => exact Nat.mod_eq_of_lt h
  | true => rw [signed, if_pos rfl, Nat.add_mod_right, Nat.mod_eq_of_lt h]

/-- A pattern is its sign bit over its magnitude. -/
theorem Fmt.signed_magnitude (f : Fmt) {b : Nat} (h : b < 2 ^ f.width) : f.signed (b / f.signBit % 2 == 1) (b % f.signBit) = b := by
  have sign : b / f.signBit < 2 := Nat.div_lt_of_lt_mul (f.two_pow_width ▸ h)
  have parts := Nat.div_add_mod b f.signBit
  obtain hs | hs := Nat.le_one_iff_eq_zero_or_eq_one.1 (Nat.le_of_lt_succ sign)
  · rw [hs, Nat.mul_zero, Nat.zero_add] at parts
    rw [hs, parts]
    rfl
  · rw [hs, Nat.mul_one, Nat.add_comm] at parts
    rw [hs]
    exact parts

theorem isNaN_mod_width (f : Fmt) (b : Nat) : isNaN f (b % 2 ^ f.width) = isNaN f b := by
  rw [isNaN, f.two_pow_width, Nat.mod_mul_right_mod, isNaN]

theorem isNaN_signed (f : Fmt) (neg : Bool) {b : Nat} (h : b ≤ f.inf) : isNaN f (f.signed neg b) = false := by
  rw [isNaN, f.signed_mod_signBit neg (Nat.lt_of_le_of_lt h f.inf_lt_signBit)]
  exact decide_eq_false (Nat.not_lt.2 h)

/-- A finite value is a significand of at most MB + 1 bits at a whole distance k above the least exponent; the magnitude of its pattern is
the significand with k added to the exponent field, for a subnormal as for a normal value. -/
theorem unpack_fin {f : Fmt} {b : Nat} {neg : Bool} {m : Nat} {e : Int} (h : unpack f b = .fin neg m e) :
    ∃ k : Nat, neg = (b / f.signBit % 2 == 1) ∧ e = f.qmin + k ∧ b % f.signBit = k * 2 ^ f.mb + m ∧ b % f.signBit < f.inf ∧
      m < 2 ^ (f.mb + 1) ∧ (k = 0 ∨ 2 ^ f.mb ≤ m) := by
  have hfr : b % 2 ^ f.mb < 2 ^ f.mb := Nat.mod_lt _ (Nat.two_pow_pos _)
  have hex : b / 2 ^ f.mb % 2 ^ f.eb < 2 ^ f.eb := Nat.mod_lt _ (Nat.two_pow_pos _)
  have hfin : b / 2 ^ f.mb % 2 ^ f.eb < 2 ^ f.eb - 1 → b % f.signBit < f.inf := by
    rw [f.magnitude_eq, f.lt_inf_iff hfr]
    exact id
  unfold unpack at h
  rw [f.magnitude_eq] at hfin ⊢
  generalize b / 2 ^ f.mb % 2 ^ f.eb = ex at *
  generalize b % 2 ^ f.mb = fr at *
  dsimp only at h
  split at h
  · split at h <;> cases h
  next hmax =>
    have hlt := hfin (by omega)
    split at h
    · next hsub =>
      cases h
      subst hsub
      exact ⟨0, rfl, (Int.add_zero _).symm, rfl, hlt, Nat.lt_trans hfr (Nat.pow_lt_pow_succ Nat.one_lt_two), .inl rfl⟩
    · next hnormal =>
      cases h
      obtain ⟨k, rfl⟩ := Nat.exists_eq_succ_of_ne_zero hnormal
      refine ⟨k, rfl, by push_cast; omega, by rw [Nat.succ_mul, Nat.add_assoc, Nat.add_comm fr], hlt, by rw [Nat.pow_succ]; omega,
        .inr (Nat.le_add_left _ _)⟩

theorem isNaN_of_unpack_fin {f : Fmt} {b : Nat} {neg : Bool} {m : Nat} {e : Int} (h : unpack f b = .fin neg m e) : isNaN f b = false := by
  obtain ⟨-, -, -, -, hinf, -⟩ := unpack_fin h
  exact decide_eq_false (Nat.lt_asymm hinf)

/-! Rounding (R58) -/

/-- A rounded magnitude, with an overflow to +Inf or to the greatest finite value, is no NaN under any sign. -/
theorem isNaN_overflow (f : Fmt) (neg toInf : Bool) (b : Nat) :
    isNaN f (if f.inf ≤ b then f.signed neg (if toInf then f.inf else f.inf - 1) else f.signed neg b) = false := by
  split
  · cases toInf with
    | true => exact isNaN_signed f neg (Nat.le_refl _)
    | false => exact isNaN_signed f neg (Nat.sub_le _ _)
  · next hlt => exact isNaN_signed f neg (Nat.le_of_lt (Nat.not_le.1 hlt))

theorem isNaN_roundTo (f : Fmt) (rm : RM) (neg : Bool) (m : Nat) (e : Int) (sticky : Bool) :
    isNaN f (roundTo f rm neg m e sticky) = false := by
  unfold roundTo
  split
  · exact isNaN_signed f neg (Nat.zero_le _)
  · exact isNaN_overflow f neg _ _

/-- The exponent to which a significand of the format is rounded is its own: nothing is dropped. -/
theorem max_exponent_eq {mb m k : Nat} {q : Int} (hm : m ≠ 0) (hlt : m < 2 ^ (mb + 1)) (hk : k = 0 ∨ 2 ^ mb ≤ m) :
    max (q + k + ((Nat.log2 m : Int) + 1) - (mb + 1)) q = q + k := by
  have hlog : Nat.log2 m < mb + 1 := (Nat.log2_lt hm).2 hlt
  obtain rfl | hnormal := hk
  · omega
  · have := (Nat.le_log2 hm).2 hnormal
    omega

/-- A significand that the format holds is kept by every rounding. -/
theorem roundTo_exact (f : Fmt) (rm : RM) (neg : Bool) {m k : Nat} (hlt : m < 2 ^ (f.mb + 1)) (hk : k = 0 ∨ 2 ^ f.mb ≤ m)
    (hinf : k * 2 ^ f.mb + m < f.inf) : roundTo f rm neg m (f.qmin + k) = f.signed neg (k * 2 ^ f.mb + m) := by
  obtain rfl | hm := Nat.eq_zero_or_pos m
  · obtain rfl | h := hk
    · rw [Nat.zero_mul]
      rfl
    · exact absurd h (Nat.not_le.2 (Nat.two_pow_pos _))
  · have hexp := max_exponent_eq (q := f.qmin) (Nat.ne_of_gt hm) hlt hk
    have hdist : (f.qmin + k - f.qmin).toNat = k := by omega
    simp only [roundTo, hexp, hdist]
    cases rm <;> simp [Nat.ne_of_gt hm, Nat.not_le.2 hinf]

theorem roundTo_unpack {f : Fmt} (rm : RM) {b : Nat} {neg : Bool} {m : Nat} {e : Int} (hb : b < 2 ^ f.width)
    (h : unpack f b = .fin neg m e) : roundTo f rm neg m e = b := by
  obtain ⟨k, rfl, rfl, hmag, hinf, hlt, hk⟩ := unpack_fin h
  rw [roundTo_exact f rm _ hlt hk (hmag ▸ hinf), ← hmag, f.signed_magnitude hb]

/-! Results that are a NaN only as the default NaN (R58, R172) -/

/-- A result of a format that, if it is a NaN at all, is the default NaN. -/
def DefaultNaNOnly (f : Fmt) (r : Nat) : Prop := isNaN f r = false ∨ r = f.nan

section
variable {f : Fmt}

theorem DefaultNaNOnly.eq_nan {r : Nat} (h : DefaultNaNOnly f r) (hr : isNaN f r = true) : r = f.nan :=
  h.resolve_left (ne_true_of_eq_false · hr)

theorem defaultNaNOnly_nan : DefaultNaNOnly f f.nan := .inr rfl

theorem defaultNaNOnly_signed_zero (neg : Bool) : DefaultNaNOnly f (f.signed neg 0) := .inl (isNaN_signed f neg (Nat.zero_le _))

theorem defaultNaNOnly_signed_inf (neg : Bool) : DefaultNaNOnly f (f.signed neg f.inf) := .inl (isNaN_signed f neg (Nat.le_refl _))

theorem defaultNaNOnly_roundTo (rm : RM) (neg : Bool) (m : Nat) (e : Int) (sticky : Bool) : DefaultNaNOnly f (roundTo f rm neg m e sticky) :=
  .inl (isNaN_roundTo f rm neg m e sticky)

theorem defaultNaNOnly_roundSum (rm : RM) (xs : List (Bool × Nat × Int)) : DefaultNaNOnly f (roundSum f rm xs) := by
  unfold roundSum
  dsimp only
  split
  · exact defaultNaNOnly_signed_zero _
  · exact defaultNaNOnly_roundTo ..

theorem defaultNaNOnly_addVals (rm : RM) (xs : List (Option FVal)) : DefaultNaNOnly f (addVals f rm xs) := by
  unfold addVals
  dsimp only
  split
  · exact defaultNaNOnly_nan
  · split
    · exact defaultNaNOnly_nan
    · split
      · exact defaultNaNOnly_signed_inf false
      · split
        · exact defaultNaNOnly_signed_inf true
        · exact defaultNaNOnly_roundSum ..

theorem defaultNaNOnly_packVal (rm : RM) (v : FVal) : DefaultNaNOnly f (packVal f rm v) := by
  cases v with
  | nan _ => exact defaultNaNOnly_nan
  | inf s => exact defaultNaNOnly_signed_inf s
  | fin s m e => exact defaultNaNOnly_roundTo ..

theorem defaultNaNOnly_fpMul (rm : RM) (a b : Nat) : DefaultNaNOnly f (fpMul f rm a b) := by
  unfold fpMul
  split
  · exact defaultNaNOnly_packVal ..
  · exact defaultNaNOnly_nan

theorem defaultNaNOnly_fpDiv (rm : RM) (a b : Nat) : DefaultNaNOnly f (fpDiv f rm a b) := by
  unfold fpDiv
  split
  · exact defaultNaNOnly_nan
  · exact defaultNaNOnly_nan
  · exact defaultNaNOnly_nan
  · exact defaultNaNOnly_signed_inf _
  · exact defaultNaNOnly_signed_zero _
  · split
    · split
      · exact defaultNaNOnly_nan
      · exact defaultNaNOnly_signed_inf _
    · split
      · exact defaultNaNOnly_signed_zero _
      · exact defaultNaNOnly_roundTo ..

theorem defaultNaNOnly_fpSqrt (rm : RM) (b : Nat) : DefaultNaNOnly f (fpSqrt f rm b) := by
  unfold fpSqrt
  split
  · exact defaultNaNOnly_nan
  · split
    · exact defaultNaNOnly_nan
    · exact defaultNaNOnly_signed_inf false
  · split
    · exact defaultNaNOnly_signed_zero _
    · split
      · exact defaultNaNOnly_nan
      · exact defaultNaNOnly_roundTo ..

theorem defaultNaNOnly_fpRnd (rm : RM) (b : Nat) : DefaultNaNOnly f (fpRnd f rm b) := by
  unfold fpRnd
  split
  · exact defaultNaNOnly_nan
  · exact defaultNaNOnly_signed_inf _
  · next hfin =>
    split
    · exact .inl (by rw [isNaN_mod_width, isNaN_of_unpack_fin hfin])
    · exact defaultNaNOnly_roundTo ..

theorem defaultNaNOnly_fpScl (rm : RM) (a : Nat) (k : Int) : DefaultNaNOnly f (fpScl f rm a k) := by
  unfold fpScl
  split
  · exact defaultNaNOnly_nan
  · exact defaultNaNOnly_signed_inf _
  · split
    · exact defaultNaNOnly_signed_zero _
    · exact defaultNaNOnly_roundTo ..

end

/-! The smaller and the greater of two patterns (R176) -/

section
variable (f : Fmt) (isMax : Bool) {x y : Nat} (hx : x < 2 ^ f.width) (hy : y < 2 ^ f.width)

theorem fpMinMax_nan (hnx : isNaN f x = true) (hny : isNaN f y = true) : fpMinMax f isMax x y = f.nan := by
  simp only [fpMinMax, isNaN_mod_width, hnx, hny]

include hx in
theorem fpMinMax_nan_right (hnx : isNaN f x = false) (hny : isNaN f y = true) : fpMinMax f isMax x y = x := by
  simp only [fpMinMax, isNaN_mod_width, hnx, hny, Nat.mod_eq_of_lt hx]

include hy in
theorem fpMinMax_nan_left (hnx : isNaN f x = true) (hny : isNaN f y = false) : fpMinMax f isMax x y = y := by
  simp only [fpMinMax, isNaN_mod_width, hnx, hny, Nat.mod_eq_of_lt hy]

include hx hy in
theorem fpMinMax_number (hnx : isNaN f x = false) (hny : isNaN f y = false) :
    fpMinMax f isMax x y =
      if isMax then (if fpKey f x < fpKey f y then y else x) else (if fpKey f y < fpKey f x then y else x) := by
  simp only [fpMinMax, hnx, hny, Nat.mod_eq_of_lt hx, Nat.mod_eq_of_lt hy]

include hx hy in
theorem fpMinMax_operand (h : isNaN f x = false ∨ isNaN f y = false) : fpMinMax f isMax x y = x ∨ fpMinMax f isMax x y = y := by
  cases hnx : isNaN f x with
  | true => exact .inr (fpMinMax_nan_left f isMax hy hnx (h.resolve_left (ne_false_of_eq_true hnx)))
  | false =>
    cases hny : isNaN f y with
    | true => exact .inl (fpMinMax_nan_right f isMax hx hnx hny)
    | false =>
      rw [fpMinMax_number f isMax hx hy hnx hny]
      split <;> split <;> simp

end

/-- `fmin` and `fmax` of any two patterns, of any width: higher bits are ignored, so that two numbers give one of them cut to the format. -/
theorem defaultNaNOnly_fpMinMax (f : Fmt) (isMax : Bool) (x y : Nat) : DefaultNaNOnly f (fpMinMax f isMax x y) := by
  have cut : fpMinMax f isMax x y = fpMinMax f isMax (x % 2 ^ f.width) (y % 2 ^ f.width) := by
    simp only [fpMinMax, Nat.mod_mod]
  have hx : x % 2 ^ f.width < 2 ^ f.width := Nat.mod_lt _ (Nat.two_pow_pos _)
  have hy : y % 2 ^ f.width < 2 ^ f.width := Nat.mod_lt _ (Nat.two_pow_pos _)
  rw [cut]
  cases hnx : isNaN f (x % 2 ^ f.width) with
  | true =>
    cases hny : isNaN f (y % 2 ^ f.width) with
    | true => rw [fpMinMax_nan f isMax hnx hny]; exact defaultNaNOnly_nan
    | false => rw [fpMinMax_nan_left f isMax hy hnx hny]; exact .inl hny
  | false =>
    cases hny : isNaN f (y % 2 ^ f.width) with
    | true => rw [fpMinMax_nan_right f isMax hx hnx hny]; exact .inl hnx
    | false =>
      obtain h | h := fpMinMax_operand f isMax hx hy (.inl hnx) <;> rw [h]
      · exact .inl hnx
      · exact .inl hny

/-! Comparisons (R177) -/

theorem decide_le_eq_or (a b : Int) : decide (a ≤ b) = (decide (a < b) || a == b) := by
  rw [Bool.eq_iff_iff, Bool.or_eq_true, decide_eq_true_eq, decide_eq_true_eq, beq_iff_eq, Int.le_iff_lt_or_eq]

/-- The key by which `fcmp` orders numbers: as `fpKey`, with one key for both zeros. -/
def cmpKey (f : Fmt) (x : Nat) : Int :=
  let b := x % 2 ^ f.width
  if b % f.signBit = 0 then 0 else fpKey f b + (if b / f.signBit % 2 = 1 then 1 else 0)

section
variable (f : Fmt) (x y : Nat)

theorem fpCmp_unord : fpCmp f 7 x y = (isNaN f x || isNaN f y) := by
  simp only [fpCmp, isNaN_mod_width]

theorem fpCmp_ord : fpCmp f 6 x y = !fpCmp f 7 x y := rfl

theorem fpCmp_ne : fpCmp f 1 x y = (fpCmp f 7 x y || cmpKey f x != cmpKey f y) := rfl

/-- A condition other than ne holds of ordered patterns alone, and there by their keys. -/
theorem fpCmp_ordered {sub : Nat} (h : sub = 0 ∨ sub = 2 ∨ sub = 3 ∨ sub = 4 ∨ sub = 5) :
    fpCmp f sub x y = (!fpCmp f 7 x y && condOf sub (cmpKey f x) (cmpKey f y)) := by
  obtain rfl | rfl | rfl | rfl | rfl := h <;> rfl

theorem fpCmp_eq : fpCmp f 0 x y = (!fpCmp f 7 x y && cmpKey f x == cmpKey f y) := fpCmp_ordered f x y (by decide)

theorem fpCmp_lt : fpCmp f 2 x y = (!fpCmp f 7 x y && decide (cmpKey f x < cmpKey f y)) := fpCmp_ordered f x y (by decide)

theorem fpCmp_le : fpCmp f 3 x y = (!fpCmp f 7 x y && decide (cmpKey f x ≤ cmpKey f y)) := fpCmp_ordered f x y (by decide)

theorem fpCmp_gt : fpCmp f 4 x y = (!fpCmp f 7 x y && decide (cmpKey f y < cmpKey f x)) := fpCmp_ordered f x y (by decide)

theorem fpCmp_ge : fpCmp f 5 x y = (!fpCmp f 7 x y && decide (cmpKey f y ≤ cmpKey f x)) := fpCmp_ordered f x y (by decide)

theorem fpCmp_ne_eq_not_eq : fpCmp f 1 x y = !fpCmp f 0 x y := by
  rw [fpCmp_ne, fpCmp_eq, Bool.not_and, Bool.not_not]
  rfl

theorem fpCmp_le_eq_or : fpCmp f 3 x y = (fpCmp f 2 x y || fpCmp f 0 x y) := by
  rw [fpCmp_le, fpCmp_lt, fpCmp_eq, ← Bool.and_or_distrib_left, decide_le_eq_or]

theorem fpCmp_ge_eq_or : fpCmp f 5 x y = (fpCmp f 4 x y || fpCmp f 0 x y) := by
  rw [fpCmp_ge, fpCmp_gt, fpCmp_eq, ← Bool.and_or_distrib_left, decide_le_eq_or, BEq.comm]

/-- Exactly one of lt, eq, gt and unord holds: the keys of ordered patterns are integers. -/
theorem fpCmp_count_one : [fpCmp f 2 x y, fpCmp f 0 x y, fpCmp f 4 x y, fpCmp f 7 x y].count true = 1 := by
  rw [fpCmp_lt, fpCmp_eq, fpCmp_gt]
  cases fpCmp f 7 x y with
  | true => rfl
  | false =>
    obtain h | h | h := Int.lt_trichotomy (cmpKey f x) (cmpKey f y)
    · rw [decide_eq_true h, beq_eq_false_iff_ne.2 (Int.ne_of_lt h), decide_eq_false (Int.lt_asymm h)]
      rfl
    · rw [h, decide_eq_false (Int.lt_irrefl _), beq_self_eq_true]
      rfl
    · rw [decide_eq_false (Int.lt_asymm h), beq_eq_false_iff_ne.2 (Int.ne_of_gt h), decide_eq_true h]
      rfl

end

end Sys2Proof.Machine

namespace Sys2Proof.Proofs

open Sys2Proof Sys2Proof.Machine

/-- Settles O20. Every operation ends in a rounding, a signed zero or infinity, a number it was given, or the default NaN; a finite pattern
is its own rounding; comparisons are those of integer keys. Nothing is special to the four formats but that they are formats. -/
theorem floatProperties : Obligations.FloatProperties := by
  refine ⟨fun t rm x y z k _ => ?_, fun t rm b neg m e _ hb h => roundTo_unpack rm hb h, fun t x y _ hx hy => ?_⟩
  · simp only [List.forall_mem_cons, List.not_mem_nil, false_imp_iff, implies_true, and_true]
    exact ⟨(defaultNaNOnly_addVals ..).eq_nan, (defaultNaNOnly_addVals ..).eq_nan, (defaultNaNOnly_fpMul ..).eq_nan,
      (defaultNaNOnly_addVals ..).eq_nan, (defaultNaNOnly_fpDiv ..).eq_nan, (defaultNaNOnly_fpSqrt ..).eq_nan,
      (defaultNaNOnly_fpRnd ..).eq_nan, (defaultNaNOnly_fpScl ..).eq_nan, (defaultNaNOnly_fpMinMax ..).eq_nan,
      (defaultNaNOnly_fpMinMax ..).eq_nan⟩
  · refine ⟨fun h m => fpMinMax_operand t m hx hy h, fun hnx hny m => ⟨fpMinMax_nan_right t m hx hnx hny, fpMinMax_nan_left t m hx hny hnx⟩,
      fpCmp_count_one t x y, fpCmp_ord t x y, fpCmp_ne_eq_not_eq t x y, ?_, fpCmp_le_eq_or t x y, fpCmp_ge_eq_or t x y⟩
    rw [fpCmp_unord, Bool.or_eq_true]

end Sys2Proof.Proofs
end

section
/-! PROOFS. O22: residues convert back, and the planes of an element make its value. -/
namespace Sys2Proof.Machine

open Sys2Proof

/-! Residues (R64) -/

section
variable {fmt : Nat} (hfmt : fmt = 14 ∨ fmt = 15)

include hfmt

theorem rnsMod_pos (c : Nat) : 0 < rnsMod fmt c := by
  obtain rfl | rfl := hfmt <;> simp only [rnsMod] <;> split <;> split <;> decide

theorem rnsM_pos_even : 0 < rnsM fmt ∧ rnsM fmt % 2 = 0 := by
  obtain rfl | rfl := hfmt <;> decide

theorem rnsMod_dvd_rnsM : ∀ c < 3, rnsMod fmt c ∣ rnsM fmt := by
  obtain rfl | rfl := hfmt <;> decide

theorem rnsM_eq_mul : rnsM fmt = rnsMod fmt 0 * rnsMod fmt 1 * rnsMod fmt 2 := by
  obtain rfl | rfl := hfmt <;> rfl

/-- The moduli of a format are coprime. -/
theorem rnsMod_coprime : (rnsMod fmt 0).Coprime (rnsMod fmt 1) ∧ (rnsMod fmt 0 * rnsMod fmt 1).Coprime (rnsMod fmt 2) := by
  obtain rfl | rfl := hfmt <;> decide

/-- `RnsOut` gives a value of the centred range, as M is even. -/
theorem rnsOut_range (ch : Nat → Nat) : -(rnsM fmt / 2 : Int) ≤ rnsOut fmt ch ∧ rnsOut fmt ch < (rnsM fmt / 2 : Int) := by
  obtain ⟨hpos, heven⟩ := rnsM_pos_even hfmt
  have hlt := Nat.mod_lt (ch 0 * rnsWeight fmt 0 + ch 1 * rnsWeight fmt 1 + ch 2 * rnsWeight fmt 2) hpos
  simp only [rnsOut]
  split <;> omega

/-- Modulo each modulus, which divides M, `RnsOut` is its weighted sum. -/
theorem rnsOut_mod_eq_sum (ch : Nat → Nat) {c : Nat} (hc : c < 3) :
    rnsOut fmt ch % (rnsMod fmt c : Nat) =
      (ch 0 * rnsWeight fmt 0 + ch 1 * rnsWeight fmt 1 + ch 2 * rnsWeight fmt 2 : Nat) % (rnsMod fmt c : Nat) := by
  have hdvd : (rnsMod fmt c : Int) ∣ rnsM fmt := Int.natCast_dvd_natCast.2 (rnsMod_dvd_rnsM hfmt c hc)
  simp only [rnsOut]
  split
  · rw [Int.sub_emod, Int.emod_eq_zero_of_dvd hdvd, Int.sub_zero, Int.emod_emod, Int.natCast_emod, Int.emod_emod_of_dvd _ hdvd]
  · rw [Int.natCast_emod, Int.emod_emod_of_dvd _ hdvd]

/-- Weight c is 1 modulo modulus c and 0 modulo the others, so that `RnsOut` has the channels as its remainders. -/
theorem rnsOut_mod {ch : Nat → Nat} (hch : ∀ c < 3, ch c < rnsMod fmt c) : ∀ c < 3, rnsOut fmt ch % (rnsMod fmt c : Nat) = ch c := by
  intro c hc
  have hlt := hch c hc
  rw [rnsOut_mod_eq_sum hfmt ch hc]
  obtain rfl | rfl | rfl : c = 0 ∨ c = 1 ∨ c = 2 := by omega
  all_goals obtain rfl | rfl := hfmt <;> simp only [rnsMod, rnsWeight, if_true, reduceIte, Nat.reduceEqDiff] at hlt ⊢ <;> omega

/-- Two values of the centred range with the same remainders are equal: the moduli are coprime, and M is their product. -/
theorem rns_eq_of_mod_eq {x y : Int} (hx : -(rnsM fmt / 2 : Int) ≤ x ∧ x < (rnsM fmt / 2 : Int))
    (hy : -(rnsM fmt / 2 : Int) ≤ y ∧ y < (rnsM fmt / 2 : Int)) (h : ∀ c < 3, x % (rnsMod fmt c : Nat) = y % (rnsMod fmt c : Nat)) :
    x = y := by
  have dvd (c : Nat) (hc : c < 3) : rnsMod fmt c ∣ (x - y).natAbs :=
    Int.ofNat_dvd_left.1 (Int.dvd_of_emod_eq_zero (Int.emod_eq_emod_iff_emod_sub_eq_zero.1 (h c hc)))
  obtain ⟨h01, h012⟩ := rnsMod_coprime hfmt
  have hdvd : rnsM fmt ∣ (x - y).natAbs := by
    rw [rnsM_eq_mul hfmt]
    exact h012.mul_dvd_of_dvd_of_dvd (h01.mul_dvd_of_dvd_of_dvd (dvd 0 (by decide)) (dvd 1 (by decide))) (dvd 2 (by decide))
  have hlt : (x - y).natAbs < rnsM fmt := by omega
  exact Int.sub_eq_zero.1 (Int.natAbs_eq_zero.1 (Nat.eq_zero_of_dvd_of_lt hdvd hlt))

/-- Each channel of the word of three values is that value's remainder. -/
theorem rnsChannel_rnsWord (ch : Nat → Int) {c : Nat} (hc : c < 3) :
    (rnsChannel fmt c (rnsWord fmt ch) : Int) = ch c % (rnsMod fmt c : Nat) := by
  obtain rfl | rfl | rfl : c = 0 ∨ c = 1 ∨ c = 2 := by omega
  all_goals obtain rfl | rfl := hfmt <;> simp [rnsChannel, rnsWord, rnsBits, rnsMod, List.range_succ] <;> omega

theorem rnsChannel_lt (c w : Nat) : rnsChannel fmt c w < rnsMod fmt c := Nat.mod_lt _ (rnsMod_pos hfmt c)

/-- `RnsOut` of what `RnsIn` made is the value clamped to the centred range. -/
theorem rnsOut_rnsIn (x : Int) :
    rnsOut fmt (fun c => rnsChannel fmt c (rnsIn fmt x)) = max (-(rnsM fmt / 2 : Int)) (min ((rnsM fmt / 2 : Int) - 1) x) := by
  refine rns_eq_of_mod_eq hfmt (rnsOut_range hfmt _) ?_ fun c hc => ?_
  · obtain ⟨hpos, heven⟩ := rnsM_pos_even hfmt
    omega
  · rw [rnsOut_mod hfmt (fun c _ => rnsChannel_lt hfmt c _) c hc]
    exact rnsChannel_rnsWord hfmt _ hc

end

/-! Planes (R62, R63) -/

/-- The value, without a sign, that the planes from `lo` up make of the planes below `n`. -/
def planeSum (n lo : Nat) (bitAt : Nat → Bool) : Int :=
  ((List.range n).filter (fun p => lo ≤ p && bitAt p)).foldl (fun v p => v + 2 ^ p) 0

theorem planeSum_succ (n lo : Nat) (bitAt : Nat → Bool) :
    planeSum (n + 1) lo bitAt = planeSum n lo bitAt + if lo ≤ n ∧ bitAt n = true then 2 ^ n else 0 := by
  unfold planeSum
  rw [List.range_succ, List.filter_append, List.foldl_append]
  cases hbit : bitAt n <;> by_cases hle : lo ≤ n <;> simp [hbit, hle]

/-- The planes of a word from `lo` up make its low n bits without the lowest `lo` of them. -/
theorem planeSum_testBit (w n lo : Nat) : planeSum n lo w.testBit = ((w % 2 ^ n : Nat) : Int) - (w % 2 ^ min lo n : Nat) := by
  induction n with
  | zero => simp [planeSum]
  | succ n ih =>
    have top : ((w % 2 ^ (n + 1) : Nat) : Int) = (w % 2 ^ n : Nat) + if w.testBit n = true then 2 ^ n else 0 := by
      rw [Nat.mod_pow_succ, ← Nat.toNat_testBit]
      cases w.testBit n <;> simp
    rw [planeSum_succ, ih]
    by_cases hle : lo ≤ n
    · rw [Nat.min_eq_left hle, Nat.min_eq_left (Nat.le_trans hle n.le_succ), top]
      simp only [hle, true_and]
      split <;> omega
    · have hlo : n + 1 ≤ lo := by omega
      simp [hle, Nat.min_eq_right hlo, Nat.min_eq_right (Nat.le_trans n.le_succ hlo)]

/-- The value of an n-bit pattern, in two's complement where the type has a sign. -/
def planeVal (fmt n : Nat) (u : Int) : Int := if fmt ≠ 18 ∧ 2 ^ (n - 1) ≤ u then u - 2 ^ n else u

theorem two_pow_dvd_two_pow {d n : Nat} (h : d ≤ n) : (2 : Int) ^ d ∣ 2 ^ n := by
  exact_mod_cast Nat.pow_dvd_pow 2 h

/-- Clearing the lowest d bits of a pattern, short of its sign, clears them in its value. -/
theorem planeVal_sub_mod (fmt : Nat) {n d : Nat} (u : Int) (hd : d < n) :
    planeVal fmt n (u - u % 2 ^ d) = planeVal fmt n u - planeVal fmt n u % 2 ^ d := by
  have sign : 2 ^ (n - 1) ≤ u - u % 2 ^ d ↔ 2 ^ (n - 1) ≤ u := by
    obtain ⟨j, hj⟩ : (2 : Int) ^ d ∣ 2 ^ (n - 1) := two_pow_dvd_two_pow (by omega)
    have hpos : (0 : Int) < 2 ^ d := Int.pow_pos (by decide)
    have cleared : u - u % 2 ^ d = 2 ^ d * (u / 2 ^ d) := by rw [Int.emod_def]; omega
    rw [cleared, hj, Int.mul_le_mul_left hpos, Int.le_ediv_iff_mul_le hpos, Int.mul_comm]
  obtain ⟨j, hj⟩ : (2 : Int) ^ d ∣ 2 ^ n := two_pow_dvd_two_pow (Nat.le_of_lt hd)
  simp only [planeVal, sign]
  split
  · rw [hj, Int.sub_mul_emod_self_left]
    omega
  · rfl

theorem planeInt_eq (fmt k : Nat) (bitAt : Nat → Bool) :
    planeInt fmt k bitAt = planeVal fmt (tyPlanes fmt) (planeSum (tyPlanes fmt) (tyPlanes fmt - k) bitAt) := by
  unfold planeInt planeVal
  exact ite_congr (by rw [Bool.and_eq_true, decide_eq_true_eq, decide_eq_true_eq]; rfl) (fun _ => rfl) (fun _ => rfl)

theorem planeBit_eq_testBit {fmt : Nat} (h : isRns fmt = false) (w : Nat) : planeBit fmt w = w.testBit := by
  funext p
  rw [planeBit, h]
  rfl

/-- The top k planes of an element make its value with the lower planes cleared. -/
theorem planeInt_planeBit {fmt k : Nat} (w : Nat) (h : isRns fmt = false) (hk : 1 ≤ k) (hn : k ≤ tyPlanes fmt) :
    let v := planeVal fmt (tyPlanes fmt) (w % 2 ^ tyPlanes fmt : Nat)
    planeInt fmt k (planeBit fmt w) = v - v % 2 ^ (tyPlanes fmt - k) := by
  have low : ((w % 2 ^ (tyPlanes fmt - k) : Nat) : Int) = (w % 2 ^ tyPlanes fmt : Nat) % 2 ^ (tyPlanes fmt - k) := by
    rw [← Nat.mod_mod_of_dvd w (Nat.pow_dvd_pow 2 (Nat.sub_le (tyPlanes fmt) k))]
    push_cast
    rfl
  rw [planeInt_eq, planeBit_eq_testBit h, planeSum_testBit, Nat.min_eq_left (Nat.sub_le _ _), low, planeVal_sub_mod]
  omega

end Sys2Proof.Machine

namespace Sys2Proof.Proofs

open Sys2Proof Sys2Proof.Machine

/-- Settles O22: the remainders determine a value of the centred range; the planes of an element are the binary digits of its pattern. -/
theorem residueAndPlaneProperties : Obligations.ResidueAndPlaneProperties := by
  refine ⟨fun fmt x ch hfmt => ⟨fun hch => ?_, rnsOut_rnsIn hfmt x⟩, fun fmt w k hfmt hk hn => ?_⟩
  · exact ⟨(rnsOut_range hfmt ch).1, (rnsOut_range hfmt ch).2, rnsOut_mod hfmt hch⟩
  · have hrns : isRns fmt = false := by obtain rfl | rfl | rfl := hfmt <;> rfl
    intro n v
    have hv : v = planeVal fmt n (w % 2 ^ n : Nat) := by
      simp only [v, planeVal]
      norm_cast
    rw [hv]
    refine ⟨?_, planeInt_planeBit w hrns hk hn⟩
    rw [planeInt_planeBit w hrns (Nat.le_trans hk hn) (Nat.le_refl _), Nat.sub_self, Int.pow_zero, Int.emod_one, Int.sub_zero]

end Sys2Proof.Proofs
end

section
/-! PROOFS. O2, O3, O4, O5: decoding and encoding are inverse to each other, and words that fail a check are refused with its code. -/
namespace Sys2Proof.Machine

open Sys2Proof

/-- The words of a literal, low half first (R114). -/
def litWords : Option W64 → List W32
  | some l => [bits l 0 32, bits l 32 32]
  | none => []

theorem litWords_litOf (lo hi : W32) : litWords (some (litOf lo hi)) = [lo, hi] := by
  rw [litWords, litOf, bits_append_low hi lo 0 32 (by decide), bits_append_high hi lo 32 32 (by decide), bits_self, bits_self]

/-! What a form, with its opcode and fields, stands for: the two forms as one -/

namespace Enc

/-- The opcode of an encoded instruction. -/
def opcode : Enc → Nat
  | .short op _ => op
  | .ext op _ => op

/-- The first check of R131 that an encoded instruction fails. -/
def failing (env : DecEnv) : Enc → Option Nat
  | .short op f => checkFields env op true (shortExt env.seq op f)
  | .ext op f => checkFields env op false f

/-- The instruction that an opcode names in its form (R128). -/
def instr : Enc → Option Instr
  | .short op f => ofShort op f
  | .ext op f => ofExt op f

/-- The words of an encoded instruction (R117, R119, R121). -/
def toWords : Enc → List W32
  | .short op f => shortWords (BitVec.ofNat 7 op) f
  | .ext op f => extWords (BitVec.ofNat 7 op) f

theorem length_toWords (e : Enc) : e.toWords.length = e.words := by
  obtain ⟨op, f⟩ | ⟨op, f⟩ := e <;> obtain h | ⟨l, h⟩ := Option.eq_none_or_eq_some f.lit <;>
    simp [toWords, words, shortWords, extWords, h]

/-- The words of an opcode of seven bits are read as its form, opcode and fields, whatever follows them (R115). -/
theorem encIn_toWords {e : Enc} (h : e.opcode < 2 ^ 7) (rest : List W32) : encIn (e.toWords ++ rest) = some e := by
  cases e with
  | short op f => rw [toWords, encIn_shortWords, BitVec.toNat_ofNat, Nat.mod_eq_of_lt (a := op) h]
  | ext op f => rw [toWords, encIn_extWords, BitVec.toNat_ofNat, Nat.mod_eq_of_lt (a := op) h]

theorem toWords_short {w0 : W32} {lit : Option W64} (hshort : isShort w0 = true) (hlit : hasLit w0 = lit.isSome) :
    (short (opOf w0) (shortFields w0 lit)).toWords = w0 :: litWords lit := by
  rw [toWords, opOf, BitVec.ofNat_toNat, BitVec.setWidth_eq, shortWords_fields w0 lit hshort hlit]
  cases lit <;> rfl

theorem toWords_ext {w0 w1 w2 : W32} {lit : Option W64} (hshort : isShort w0 = false) (hlit : hasLit w0 = lit.isSome) :
    (ext (opOf w0) (extFields w0 w1 w2 lit)).toWords = w0 :: w1 :: w2 :: litWords lit := by
  rw [toWords, opOf, BitVec.ofNat_toNat, BitVec.setWidth_eq, extWords_fields w0 w1 w2 lit hshort hlit]
  cases lit <;> rfl

/-- The words in which a form is read are the words of that form: no bit is dropped (R115). -/
theorem toWords_of_encIn {ws : List W32} {e : Enc} (h : encIn ws = some e) : e.toWords = ws.take e.words := by
  unfold encIn at h
  split at h
  · cases h
  · next w0 rest =>
    split at h <;> cases h
    · next hshort hlit => exact toWords_short hshort hlit
    · next l0 l1 _ hshort hlit => rw [toWords_short (lit := some _) hshort hlit, litWords_litOf]; rfl
    · next w1 w2 _ hshort hlit => exact toWords_ext hshort hlit
    · next w1 w2 l0 l1 _ hshort hlit => rw [toWords_ext (lit := some _) hshort hlit, litWords_litOf]; rfl

end Enc

/-! The opcode map (R128) -/

theorem ofShort_some {op : Nat} {f : Short} {i : Instr} (h : ofShort op f = some i) : op < 2 ^ 7 ∧ encOf i = some (.short op f) := by
  unfold ofShort at h
  split at h
  case h_26 => cases h -- no short form has this opcode
  all_goals cases h; exact ⟨by decide, rfl⟩

/-- Opcode 0x61 alone names two instructions, the yield form of `cpy` by its SUB (R215). -/
theorem ofExt_some {op : Nat} {f : Ext} {i : Instr} (h : ofExt op f = some i) : op < 2 ^ 7 ∧ encOf i = some (.ext op f) := by
  unfold ofExt at h
  split at h
  case h_98 => -- opcode 0x61
    cases h
    exact ⟨by decide, by split <;> rfl⟩
  case h_129 => cases h -- above 0x7F
  all_goals cases h; exact ⟨by decide, rfl⟩

/-- An opcode names in its form an instruction of that form and opcode. -/
theorem Enc.instr_some {e : Enc} {i : Instr} (h : e.instr = some i) : e.opcode < 2 ^ 7 ∧ encOf i = some e := by
  cases e with
  | short op f => exact ofShort_some h
  | ext op f => exact ofExt_some h

theorem encode_of_encOf {i : Instr} {e : Enc} (h : encOf i = some e) : encode i = e.toWords := by
  cases e <;> simp only [encode, h, Enc.toWords]

/-- The words of an instruction that its opcode names are read as its form, opcode and fields, whatever follows them. -/
theorem encIn_encode {i : Instr} {e : Enc} (h : e.instr = some i) (rest : List W32) : encIn (encode i ++ rest) = some e := by
  obtain ⟨hop, henc⟩ := Enc.instr_some h
  rw [encode_of_encOf henc, Enc.encIn_toWords hop]

/-! Decoding (R131) -/

section
variable {env : DecEnv} {ws : List W32} {e : Enc}

theorem decode_of_failing {c : Nat} (h : encIn ws = some e) (hc : e.failing env = some c) : decode env ws = .illegal c := by
  cases e <;> simp only [Enc.failing] at hc <;> simp only [decode, h, hc]

theorem decode_of_passing {i : Instr} (h : encIn ws = some e) (hc : e.failing env = none) (hi : e.instr = some i) :
    decode env ws = .ok i e.words := by
  cases e <;> simp only [Enc.failing, Enc.instr] at hc hi <;> simp only [decode, h, hc, hi]

theorem decode_of_unnamed (h : encIn ws = some e) (hc : e.failing env = none) (hi : e.instr = none) : decode env ws = .illegal 1 := by
  cases e <;> simp only [Enc.failing, Enc.instr] at hc hi <;> simp only [decode, h, hc, hi]

/-- Everything that words which decode to an instruction have passed. -/
theorem decode_ok {i : Instr} {n : Nat} (h : decode env ws = .ok i n) :
    ∃ e, encIn ws = some e ∧ e.failing env = none ∧ e.instr = some i ∧ e.words = n := by
  cases henc : encIn ws with
  | none => simp [decode, henc] at h
  | some e =>
    cases hc : e.failing env with
    | some c => cases (decode_of_failing henc hc).symm.trans h
    | none =>
      cases hi : e.instr with
      | none => cases (decode_of_unnamed henc hc hi).symm.trans h
      | some j =>
        cases (decode_of_passing henc hc hi).symm.trans h
        exact ⟨e, rfl, hc, hi, rfl⟩

end

theorem instr_wf_iff {env : DecEnv} {i : Instr} :
    i.wf env = true ↔ ∃ e, encOf i = some e ∧ e.instr = some i ∧ e.failing env = none := by
  unfold Instr.wf
  cases henc : encOf i with
  | none => simp
  | some e => cases e <;> simp [Enc.instr, Enc.failing]

/-! An issue whose words decode to nothing (R115, R330) -/

/-- An agent whose turn it is to issue tries to. -/
theorem step_of_chosen {s : State} {a : Agent} {rest : List Move} (hagenda : s.agenda = .issue a :: rest)
    (hchoose : s.choose.map (fun x => x.2) = some a) : step s = ({ s with agenda := rest } : State).issue a :=
  step_issue (by simp only [State.turn, hagenda, hchoose, if_true])

/-- Words at a PC that decode to nothing, with the length that word 0 gives. -/
theorem State.decodeAt_illegal {s s1 s2 : State} {a : Agent} {pc : W64} {w0 : W32} {ws : List W32} {c : Nat}
    (hfirst : s.fetchWord a.core (s.ctxOf a) pc = (s1, .ok w0))
    (hrest : s1.fetchWords a.core (s.ctxOf a) (pc + 4) (lengthOf w0 - 1) = (s2, .ok ws))
    (hdecode : decode (s2.decEnv a) (w0 :: ws) = .illegal c) : s.decodeAt a pc = (s2, lengthOf w0, .error (Trap.illegal c)) := by
  simp only [State.decodeAt, hfirst, hrest, hdecode]

/-- An agent whose words do not decode ends its attempt with the trap of decoding. -/
theorem State.issue_of_decodeAt_error {s s2 : State} {a : Agent} {sl : Slot} {n : Nat} {t : Trap} (hcan : s.canIssue a = true)
    (hslot : s.slot? a = some sl)
    (hdecode : ({ s.elapse (max s.now sl.notBefore) with cur := a } : State).decodeAt a sl.pc = (s2, n, .error t)) :
    s.issue a = s2.tries.fetchTrap a n t := by
  simp only [State.issue, State.fetch, hcan, hslot, hdecode]

end Sys2Proof.Machine

namespace Sys2Proof.Proofs

open Sys2Proof Sys2Proof.Machine

/-- Settles O4: an instruction is read back from its words as its form, opcode and fields, which pass every check and name it. -/
theorem decodeOfEncode : Obligations.DecodeOfEncode := by
  intro env i rest hwf
  obtain ⟨e, henc, hinstr, hpass⟩ := instr_wf_iff.1 hwf
  rw [decode_of_passing (encIn_encode hinstr rest) hpass hinstr, encode_of_encOf henc, Enc.length_toWords]

/-- Settles O5: words are read as a form whose words they are, and the opcode map names an instruction of that form. -/
theorem encodeOfDecode : Obligations.EncodeOfDecode := by
  intro env ws i n h
  obtain ⟨e, hread, hpass, hinstr, rfl⟩ := decode_ok h
  obtain ⟨-, henc⟩ := Enc.instr_some hinstr
  exact ⟨(encode_of_encOf henc).trans (Enc.toWords_of_encIn hread), instr_wf_iff.2 ⟨e, henc, hinstr, hpass⟩⟩

/-- Settles O2: the attempt to issue ends with the trap of decoding; the words of an instruction are read as the form whose checks fail. -/
theorem illegalAtDecode : Obligations.IllegalAtDecode := by
  refine ⟨?_, ?_⟩
  · intro s a sl w0 ws s1 s2 c rest r r0 hagenda hchoose hcan hslot hfirst hrest hdecode
    rw [step_of_chosen hagenda hchoose, State.issue_of_decodeAt_error hcan hslot (State.decodeAt_illegal hfirst hrest hdecode)]
    rfl
  · rintro env i rest c (⟨f, op, -, hinstr, hfail⟩ | ⟨f, op, -, hinstr, hfail⟩)
    · exact decode_of_failing (encIn_encode (e := .ext op f) hinstr rest) hfail
    · exact decode_of_failing (encIn_encode (e := .short op f) hinstr rest) hfail

/-- Settles O3: each list of words by running the decoder on it. -/
theorem workedEncodings : Obligations.WorkedEncodings := by
  unfold Obligations.WorkedEncodings
  decide +kernel

end Sys2Proof.Proofs
end

section
/-! PROOFS. O27: what `smp` samples, and the traps of its descriptor and texels. -/
namespace Sys2Proof.Machine

open Sys2Proof

/-! The filter (R196) -/

namespace Sampler

theorem filter_not_finite (p : Sampler) {x y : Nat} (tex : Int × Int → Nat) (h : notFinite32 x = true ∨ notFinite32 y = true) :
    p.filter x y tex = Fmt.f32.nan := by
  rw [filter, if_pos (by simpa using h)]

section
variable (p : Sampler) {x y : Nat} (tex : Int × Int → Nat) (hx : notFinite32 x = false) (hy : notFinite32 y = false)
include hx hy

theorem filter_nearest (hfilt : p.d.getLsbD 58 = false) : p.filter x y tex = tex (floor32 x, floor32 y) := by
  rw [filter, if_neg (by simp [hx, hy]), hfilt]
  rfl

theorem filter_linear (hfilt : p.d.getLsbD 58 = true) :
    p.filter x y tex =
      rneAdd
        (rneMul (rneAdd (rneMul (tex ((bilinear x).1, (bilinear y).1)) (bilinear x).2.2)
          (rneMul (tex ((bilinear x).1 + 1, (bilinear y).1)) (bilinear x).2.1)) (bilinear y).2.2)
        (rneMul (rneAdd (rneMul (tex ((bilinear x).1, (bilinear y).1 + 1)) (bilinear x).2.2)
          (rneMul (tex ((bilinear x).1 + 1, (bilinear y).1 + 1)) (bilinear x).2.1)) (bilinear y).2.1) := by
  rw [filter, if_neg (by simp [hx, hy]), hfilt]
  rfl

end

/-- The filtered value depends on the texels that are read alone. -/
theorem filter_congr {p : Sampler} {x y : Nat} {tex tex' : Int × Int → Nat} (h : ∀ c ∈ p.texels x y, tex c = tex' c) :
    p.filter x y tex = p.filter x y tex' := by
  by_cases hfin : notFinite32 x = true ∨ notFinite32 y = true
  · rw [p.filter_not_finite tex hfin, p.filter_not_finite tex' hfin]
  · obtain ⟨hx, hy⟩ : notFinite32 x = false ∧ notFinite32 y = false := by simpa using hfin
    rw [texels, if_neg (by simp [hx, hy])] at h
    cases hfilt : p.d.getLsbD 58 with
    | false =>
      rw [p.filter_nearest tex hx hy hfilt, p.filter_nearest tex' hx hy hfilt]
      exact h _ (by simp only [hfilt, Bool.not_false, if_true, List.mem_singleton])
    | true =>
      simp only [hfilt, Bool.not_true, Bool.false_eq_true, if_false, List.forall_mem_cons] at h
      obtain ⟨h00, h10, h01, h11, -⟩ := h
      rw [p.filter_linear tex hx hy hfilt, p.filter_linear tex' hx hy hfilt, h00, h10, h01, h11]

theorem texel_eq_zero {p : Sampler} {c : Int × Int} (vals : List (W64 × Nat)) (h : p.texAddr c = none) : p.texel vals c = 0 := by
  rw [texel, h]

end Sampler

/-! The texels of the lanes -/

theorem Iss.eachLane_congr (i : Iss) {v w : Nat → W64} (h : ∀ l ∈ i.lanes, v l = w l) : i.eachLane v = i.eachLane w :=
  List.map_congr_left (fun l hl => by rw [h l hl])

theorem Iss.point_eq (i : Iss) (s : State) (l : Nat) :
    i.point s l = ((bits (i.vb s l) 0 32).toNat, (bits (i.read s i.bRun.head? l) 0 32).toNat) := by
  rw [Iss.point, toNat_bits_zero, toNat_bits_zero]

/-- Where the lanes read no texel inside the texture, every texel of a lane is outside it. -/
theorem Iss.texAddr_of_no_texels {i : Iss} {s : State} (h : i.texelAddrs s = []) {l : Nat} (hl : l ∈ i.lanes) :
    ∀ c ∈ (i.sampler s).texels (i.point s l).1 (i.point s l).2, (i.sampler s).texAddr c = none := by
  intro c hc
  rw [Iss.texelAddrs, List.flatMap_eq_nil_iff] at h
  simpa using List.filterMap_eq_nil_iff.1 (h l hl) c hc

/-- A lane that reads no texel inside the texture filters zeros. -/
theorem Iss.sampled_of_no_texels {i : Iss} {s : State} (h : i.texelAddrs s = []) {l : Nat} (hl : l ∈ i.lanes) :
    i.sampled s [] [] l =
      BitVec.ofNat 64 (flushIf .f32 i.ftz ((i.sampler s).filter (i.point s l).1 (i.point s l).2 (fun _ => 0))) := by
  have zeros := Sampler.filter_congr (p := i.sampler s) (tex := (i.sampler s).texel []) (tex' := fun _ => 0)
    (fun c hc => Sampler.texel_eq_zero [] (i.texAddr_of_no_texels h hl c hc))
  rw [Iss.sampled, zeros]
  rfl

/-! The body of `smp` -/

/-- A descriptor whose base or pitch is not a multiple of the element size (R196). -/
abbrev Sampler.crooked (p : Sampler) : Prop := p.base.toNat % p.e ≠ 0 ∨ p.pitch % p.e ≠ 0

section
variable {i : Iss} {s s1 : State} {pas : List (W64 × Nat)}

theorem smpBody_no_lanes (h : i.lanes = []) : smpBody i s = .ok s := by
  simp [smpBody, h]

variable (hl : i.lanes ≠ [])
include hl

theorem smpBody_crooked (hd : (i.sampler s).crooked) :
    smpBody i s = .error (.trap (Trap.mem .align (i.sampler s).base (maskOf i.lanes) .load 0)) := by
  rw [smpBody, if_neg (by simpa using hl), if_pos hd]

variable (hd : ¬ (i.sampler s).crooked)
include hd

/-- A texel that is not translated: the trap is taken on the state that the translations leave. -/
theorem smpBody_untranslated {bad : List LaneFail} {t : Trap} (hp : i.texelPages s (i.texelAddrs s) = (s1, pas, bad))
    (ht : laneTrap .load 0 bad = some t) : smpBody i s = .error (.trapAt s1 t) := by
  rw [smpBody, if_neg (by simpa using hl), if_neg hd]
  simp only [hp, ht]

theorem smpBody_translated (hp : i.texelPages s (i.texelAddrs s) = (s1, pas, [])) :
    let r := i.texelReads s1 (i.sampler s).e pas (i.texelAddrs s)
    smpBody i s = .ok (i.startLoad r.1 (i.eachLane (i.sampled s r.2.1 r.2.2)) none (i.late .load i.dstNames r.2.2)) := by
  rw [smpBody, if_neg (by simpa using hl), if_neg hd]
  simp only [hp]
  rfl

/-- With no texel inside the texture there is no access. -/
theorem smpBody_no_texels (ha : i.texelAddrs s = []) :
    smpBody i s = .ok (i.startLoad s (i.eachLane (fun l =>
      BitVec.ofNat 64 (flushIf .f32 i.ftz ((i.sampler s).filter (i.point s l).1 (i.point s l).2 (fun _ => 0))))) none none) := by
  have body := smpBody_translated hl hd (s1 := s) (pas := []) (by rw [ha]; rfl)
  rw [ha] at body
  rw [← i.eachLane_congr (fun l hl => i.sampled_of_no_texels ha hl)]
  exact body

end

/-- A body that stops, with a trap, a wait or a fault: the instruction ends with it. -/
theorem runIss_stops {h : Hooks} {op : Nat} {short ctl : Bool} {f : Ext} {body : Iss → State → Res State} {s : State} {i : Iss} {p : Prep}
    {x : Stop} (hp : Passes h op short f s i p) (hb : body i s = .error x) :
    runIss h op short ctl f body s = i.finish s (.error x) := by
  have acts : (f.u && i.eff == 0 && !ctl && i.desc.pred) = false := by
    have := hp.acts
    cases hu : f.u <;> simp_all
  unfold runIss
  rw [hp.operands]
  simp only [hp.checks, hp.whole, acts, Iss.effect_of_held hp.held, bind, Except.bind, hb]
  rfl

end Sys2Proof.Machine

namespace Sys2Proof.Proofs

open Sys2Proof Sys2Proof.Machine

/-- Settles O27: the body of `smp` by its descriptor and its texels, each lane's value by the filter. -/
theorem samplerResults : Obligations.SamplerResults := by
  intro f s s1 pas tr h x y crooked las
  have texels (i : Iss) : las i = i.texelAddrs s := by simp only [las, x, y, Iss.texelAddrs, Iss.point_eq]
  have run : exec (.smp f) s = runIss h 0x4F false false f smpBody s := rfl
  refine ⟨fun i p hp hl => ?_, fun i p hp hl hd ha => ?_, fun i p hp hl hd hpages => ?_, fun i p hp hl hd => ?_,
    fun i p bad hp hl hd hpages ht => ?_, fun d u v tex => ⟨d.filter_not_finite tex, d.filter_nearest tex, fun hu hv hfilt => ?_⟩⟩
  · rw [run, runIss_passes hp (smpBody_no_lanes hl)]
    rfl
  · rw [texels] at ha
    rw [run, runIss_passes hp (smpBody_no_texels hl hd ha)]
    simp only [Iss.point_eq]
    rfl
  · rw [texels] at hpages ⊢
    intro r tex value
    rw [run, runIss_passes hp (smpBody_translated hl hd hpages)]
    obtain ⟨hf, -, -, -⟩ := mkIss_fields hp.operands
    have sampled : i.sampled s r.2.1 r.2.2 = value := by
      funext l
      have texel : (i.sampler s).texel r.2.1 = tex := by
        funext c
        simp only [Sampler.texel, tex, ← hf]
        cases (i.sampler s).texAddr c <;> rfl
      simp only [Iss.sampled, texel, Iss.point_eq]
      rfl
    rw [sampled]
    rfl
  · rw [run, runIss_stops hp (smpBody_crooked hl hd)]
    rfl
  · rw [texels] at hpages
    rw [run, runIss_stops hp (smpBody_untranslated hl hd hpages ht)]
    rfl
  · exact ⟨_, _, _, _, _, _, rfl, rfl, d.filter_linear tex hu hv hfilt⟩

end Sys2Proof.Proofs
end

section
/-! PROOFS. O13: branches, calls, waits, fmt, traps by number, and special-register reads. -/
namespace Sys2Proof.Machine

open Sys2Proof

/-! Branches (R126, R136, R139) -/

theorem Iss.target_eq (i : Iss) : i.target = i.pc + i.f.imm.signExtend 64 * 4 := by
  rw [Iss.target, Iss.immOff, shiftLeft_eq_mul_ofNat]
  rfl

theorem braTaken_always {i : Iss} (s : State) (h : i.f.sub.toNat = 0) : braTaken i s = true := by
  simp [braTaken, BitVec.toNat_eq, h]

theorem braTaken_thread {i : Iss} (s : State) (h : i.f.sub.toNat ≠ 0) (hseq : i.seq = true) :
    braTaken i s = if i.f.sub.toNat = 3 then i.va s 0 == 0 else i.va s 0 != 0 := by
  simp [braTaken, BitVec.toNat_eq, h, hseq]

theorem braTaken_group {i : Iss} (s : State) (h : i.f.sub.toNat ≠ 0) (hseq : i.seq = false) :
    braTaken i s =
      if i.f.sub.toNat = 1 then i.va s 0 &&& i.smask != 0
      else if i.f.sub.toNat = 2 then i.va s 0 &&& i.smask == i.smask
      else i.va s 0 &&& i.smask == 0 := by
  have hsub : i.f.sub ≠ 0 := fun e => h (by rw [e]; rfl)
  simp only [braTaken, hsub, hseq, Bool.false_eq_true, if_false, Iss.maskOp, Iss.va]
  split
  next h1 => rw [if_pos h1]
  next h2 => rw [if_neg (by omega), if_pos h2]
  next h1 h2 => rw [if_neg h1, if_neg h2]

/-! Special registers (R145, R147) -/

theorem sregLatch_vcyc {i : Iss} (s : State) (h : i.f.imm.toNat % 256 = 0x09) :
    sregLatch i s = s.modAgent i.agent (fun ag => { ag with vShadow := bits (ag.vcyc s.now) 32 32 }) := by
  simp only [sregLatch, h]

theorem sregLatch_icnt {i : Iss} (s : State) (h : i.f.imm.toNat % 256 = 0x0D) :
    sregLatch i s = s.modAgent i.agent (fun ag => { ag with iShadow := bits ag.icnt 32 32 }) := by
  simp only [sregLatch, h]

theorem sregLatch_other {i : Iss} (s : State) (hv : i.f.imm.toNat % 256 ≠ 0x09) (hi : i.f.imm.toNat % 256 ≠ 0x0D) : sregLatch i s = s := by
  unfold sregLatch
  split
  · contradiction
  · contradiction
  · rfl

end Sys2Proof.Machine

namespace Sys2Proof.Proofs

open Sys2Proof Sys2Proof.Machine

/-- Settles O13: each body by what it leaves in each case of its rule, `sreg` by the value of its selector and by what that latches. -/
theorem controlAndSpecialRegisters : Obligations.ControlAndSpecialRegisters := by
  refine ⟨?_, ?_⟩
  · intro f g s always go label next c takes crooked align link park length
    have taken (i : Iss) (hf : i.f = f) : braTaken i s = takes i s := by
      subst hf
      simp only [takes, c]
      split
      next h => rw [braTaken_always s h]
      next h hseq => rw [braTaken_thread s (by omega) hseq, if_pos h]
      next hseq h h3 => rw [braTaken_thread s h hseq, if_neg h3]
      next h hseq => rw [braTaken_group s (by omega) hseq, if_pos h]
      next h hseq => rw [braTaken_group s (by omega) hseq, if_neg (by omega), if_pos h]
      next hseq h h1 h2 => rw [braTaken_group s h hseq, if_neg h1, if_neg h2]
    refine ⟨?_, ?_, ?_, ?_, ?_, ?_, ?_, ?_, ?_, ?_, ?_, ?_, ?_, ?_, ?_⟩
    -- R135: `nop`.
    · exact effect_of rfl fun _ _ _ _ _ => rfl
    · exact effect_of rfl fun _ _ _ _ _ => rfl
    -- R136: `bra`.
    · exact ctlEffect_of rfl fun i hf _ _ _ => by
        rw [taken i hf, i.target_eq, hf]
        rfl
    -- R139: `call` and `ret`, and where they trap.
    · refine ctlEffect_of rfl fun i hf _ _ hdirect => ?_
      subst hf
      have direct : i.f.sub ≠ 1 := fun e => hdirect (by rw [e]; rfl)
      rw [if_neg fun h => direct h.1, i.target_eq]
      rfl
    · refine ctlEffect_of rfl fun i hf _ _ ⟨hind, hfit⟩ => ?_
      subst hf
      have indirect : i.f.sub = 1 := BitVec.eq_of_toNat_eq hind
      simp only [indirect]
      exact if_neg fun h => hfit h.2
    · refine traps_of (ctl := true) rfl fun i hf _ _ ⟨hind, hcrooked⟩ => ?_
      subst hf
      have indirect : i.f.sub = 1 := BitVec.eq_of_toNat_eq hind
      simp only [indirect]
      exact if_pos ⟨trivial, hcrooked⟩
    · exact ctlEffect_of rfl fun i _ _ _ h => if_neg h
    · exact traps_of (ctl := true) rfl fun i _ _ _ h => if_pos h
    -- R141: `yield` and `nap`.
    · exact effect_of rfl fun _ _ _ _ _ => rfl
    · exact effect_of rfl fun _ _ _ _ _ => rfl
    · exact effect_of rfl fun i _ _ _ h => if_neg h
    · exact effect_of rfl fun i _ _ _ h => if_pos h
    -- R142: `setfmt` and `getfmt`.
    · exact effect_of rfl fun _ _ _ _ _ => rfl
    · exact laneResults_of (g := fun i _ _ _ => i.fmt.setWidth 64) rfl fun _ _ _ _ => rfl
    -- R143: `trap`.
    · exact traps_of rfl fun i hf _ _ _ => by rw [hf]
  · intro f s ag hag sel vcyc value written lo lo' plain
    have valued (i : Iss) (hf : i.f = f) (ha : i.agent = s.cur) : sregValue i s = value i := by
      subst hf
      funext l
      have own : (s.agentState? i.agent).getD {} = ag := by rw [ha, hag]; rfl
      simp only [sregValue, own, AgentState.vcyc, value, vcyc, sel]
      split <;> simp_all <;> rfl
    refine ⟨?_, ?_, ?_, ?_, ?_⟩
    -- R145, R147: `sreg`, whose `.lo` selectors latch.
    · refine effect_of rfl fun i hf _ ha ⟨hsub, hv, hi⟩ => ?_
      subst hf
      simp only [if_pos hsub, valued i rfl ha, sregLatch_other _ hv hi, written]
    · refine effect_of rfl fun i hf _ ha ⟨hsub, hv⟩ => ?_
      subst hf
      simp only [if_pos hsub, valued i rfl ha, sregLatch_vcyc _ hv, written]
    · refine effect_of rfl fun i hf _ ha ⟨hsub, hv⟩ => ?_
      subst hf
      simp only [if_pos hsub, valued i rfl ha, sregLatch_icnt _ hv, written]
    -- R145: `sreg.w`.
    · refine effect_of rfl fun i hf _ _ ⟨hsub, hbit⟩ => ?_
      subst hf
      simp only [if_neg hsub, hbit, if_true]
    · refine effect_of rfl fun i hf _ _ ⟨hsub, hbit⟩ => ?_
      subst hf
      simp only [if_neg hsub, hbit, Bool.false_eq_true, if_false]

end Sys2Proof.Proofs
end

section
/-! PROOFS. O18: moves, selects, conversions, compares, and the group and mask operations. -/
namespace Sys2Proof.Machine

open Sys2Proof

/-! Bodies that write D in the lanes of the operation, or once for the group (R148) -/

theorem ownResults_of {ins : Instr} {h : Hooks} {op : Nat} {f : Ext} {body : Iss → State → Res State} {v : Iss → State → Nat → W64} {s : State}
    (he : exec ins s = runIss h op false false f body s)
    (hb : ∀ i, i.f = f → body i s = .ok (i.writeOwn s (i.eachLane (v i s)))) : OwnResults ins h op f v s := by
  intro i p hp
  obtain ⟨hf, -, -, -⟩ := mkIss_fields hp.operands
  rw [he, runIss_passes hp (hb i hf)]
  rfl

theorem groupResult_of {ins : Instr} {h : Hooks} {op : Nat} {f : Ext} {body : Iss → State → Res State} {v : Iss → State → W64} {s : State}
    (he : exec ins s = runIss h op false false f body s)
    (hb : ∀ i, i.f = f → body i s = .ok (i.writeGroup s (v i s))) : GroupResult ins h op f v s := by
  intro i p hp
  obtain ⟨hf, -, -, -⟩ := mkIss_fields hp.operands
  rw [he, runIss_passes hp (hb i hf)]
  rfl

/-! Lane operations (R149, R168, R169) -/

/-- `lea` in the words of R168: the index is 32 bits of B, signed where the type is i64. -/
theorem leaOp_eq (i : Iss) (a b : W64) :
    leaOp i a b =
      a + ((if i.f.ty.toNat = 4 then (bits b 0 32).signExtend 64 else (bits b 0 32).setWidth 64) <<< (bits i.f.xs 0 3).toNat) +
        i.f.imm.signExtend 64 := by
  have low : b.setWidth 32 = bits b 0 32 := BitVec.setWidth_eq_extractLsb' (by decide)
  have signed : i.f.ty = 4 ↔ i.f.ty.toNat = 4 := BitVec.toNat_eq
  simp only [leaOp, low, signed]

theorem not_floatTy (n : Nat) : (!floatTy n) = (decide (n < 6) || decide (9 < n)) := by
  rw [Bool.eq_iff_iff]
  simp [floatTy]

/-- `cvt` by the kinds of its two types (R169). -/
theorem cvtOp_eq (i : Iss) (b : W64) :
    let st := (bits i.f.c 0 5).toNat
    let dt := i.f.ty.toNat
    let float (v : Nat) : W64 := extendTy dt (flushIf (fmtOf dt) i.ftz v)
    cvtOp i b =
      if (!floatTy st) = true ∧ (!floatTy dt) = true then (if i.f.xs.getLsbD 0 then satTy dt (intOf st b) else wrapTy dt (intOf st b))
      else if !floatTy st then float (fpOfInt (fmtOf dt) i.rm (intOf st b))
      else if !floatTy dt then toIntTy dt i.rm (unpack (fmtOf st) (natOf st b))
      else float (packVal (fmtOf dt) i.rm (unpack (fmtOf st) (natOf st b))) := by
  unfold cvtOp
  dsimp only
  cases floatTy (bits i.f.c 0 5).toNat <;> cases floatTy i.f.ty.toNat <;> rfl

/-! Runs of lanes (R152) -/

/-- The values of the lanes that a condition picks are those of the picked lanes. -/
theorem Iss.eachLane_filter (i : Iss) (v : Nat → W64) (p : Nat → Bool) :
    (i.eachLane v).filter (fun x => p x.1) = (i.lanes.filter p).map (fun l => (l, v l)) := List.filter_map

end Sys2Proof.Machine

namespace Sys2Proof.Proofs

open Sys2Proof Sys2Proof.Machine

/-- Settles O18: each lane's result by the rule of its instruction, a group's value by the lanes that it is formed over. -/
theorem moveCompareAndGroupResults : Obligations.MoveCompareAndGroupResults := by
  refine ⟨?_, ?_⟩
  · intro f g s t copy picks src int x y float holds
    have truth (i : Iss) (hf : i.f = f) (l : Nat) : condOf i.f.sub.toNat (intOf i.f.ty.toNat (i.va s l)) (intOf i.f.ty.toNat (i.vb s l)) = holds i s l := by
      subst hf
      rfl
    have integer (n : Nat) : int n = !floatTy n := (not_floatTy n).symm
    refine ⟨?_, ?_, ?_, ?_, ?_, ?_, ?_⟩
    -- R158: `mov` and `sel`.
    · exact laneResults_of rfl fun _ _ _ _ => rfl
    · exact laneResults_of rfl fun _ _ _ _ => rfl
    · intro i p hp
      exact runIss_passes (ctl := false) hp rfl
    -- R168, R169: `lea` and `cvt`.
    · refine laneResults_of rfl fun i l hf _ => ?_
      rw [leaOp_eq, hf]
    · refine laneResults_of rfl fun i l hf _ => ?_
      subst hf
      simp only [integer]
      exact (cvtOp_eq i (i.vb s l)).symm
    -- R167: `cmp` in a group and in a thread.
    · refine effect_of rfl fun i hf _ _ hseq => ?_
      simp only [writeTruth, hseq, truth i hf]
      rfl
    · refine effect_of rfl fun i hf _ _ hseq => ?_
      simp only [writeTruth, hseq, truth i hf]
      rfl
  · intro f s t sub a b n source yes reduce mask
    have reduced (i : Iss) (hf : i.f = f) (ls : List Nat) : reduceTy i (ls.map (fun l => (l, i.vb s l))) = reduce i s ls := by
      subst hf
      simp only [reduceTy, List.map_map, Function.comp_def, reduce, sub, t, b]
      split <;> simp_all
    have sourced (i : Iss) (hf : i.f = f) (l : Nat) : shflSource i s l = source i s l := by
      subst hf
      simp only [shflSource, source, sub, n]
      split <;> simp_all
    refine ⟨fun hsub => ?_, fun hsub => ?_, ?_, ?_, ?_, fun hsub => ?_, fun hsub g d => ?_⟩
    -- R149: `shfl`, as a broadcast or lane by lane.
    · refine groupResult_of rfl fun i hf => ?_
      have broadcast : i.f.sub = 4 := BitVec.eq_of_toNat_eq (by rw [hf]; exact hsub)
      simp only [broadcast, if_true, shflSource]
      rfl
    · refine ownResults_of rfl fun i hf => ?_
      have moves : i.f.sub ≠ 4 := fun e => hsub (by rw [hf] at e; simp only [sub, e]; rfl)
      simp only [moves, if_false, sourced i hf]
      rfl
    -- R150: `vote`.
    · refine groupResult_of rfl fun i hf => ?_
      subst hf
      have all (p : Nat → Bool) : (i.lanes.filter p).length = i.lanes.length ↔ i.lanes.filter p = i.lanes :=
        List.filter_sublist.length_eq
      simp only [all, List.isEmpty_iff]
      rfl
    -- R151, R152: `redg` and `scan`.
    · refine groupResult_of rfl fun i hf => ?_
      rw [Iss.eachLane, reduced i hf]
    · refine ownResults_of rfl fun i hf => ?_
      have run (l : Nat) := i.eachLane_filter (i.vb s) (fun k => if i.f.xs.getLsbD 0 then decide (k < l) else decide (k ≤ l))
      simp only [run, reduced i hf]
      rw [hf]
    -- R153: `mop.to` and `mop`.
    · refine groupResult_of rfl fun i hf => ?_
      rw [hf]
      exact if_pos (BitVec.eq_of_toNat_eq hsub)
    · refine effect_of rfl fun i hf _ _ ⟨hg, hd⟩ => ?_
      subst hf
      have masks : i.f.sub ≠ 8 := fun e => hsub (by simp only [sub, e]; rfl)
      simp only [masks, if_false, hg, hd]
      rfl

end Sys2Proof.Proofs
end

section
/-! PROOFS. O44: system registers, `mapf`, handler reads, counters and marks. -/
namespace Sys2Proof.Machine

open Sys2Proof

/-! Bytes of memory across a clear and across the writing of other bytes -/

theorem FMap.find_filter_of_kept {α : Type} (m : FMap α) (p : Nat × α → Bool) {k : Nat} (h : ∀ v, p (k, v) = true) :
    FMap.find (m.filter p) k = FMap.find m k := by
  induction m with
  | nil => rfl
  | cons x t ih =>
    obtain ⟨j, w⟩ := x
    cases hp : p (j, w) with
    | true => simp only [List.filter_cons_of_pos hp, FMap.find, ih]
    | false =>
      have hkj : k ≠ j := fun e => by rw [← e, h w] at hp; cases hp
      rw [List.filter_cons_of_neg (by simp [hp]), ih, FMap.find, if_neg hkj]

/-- A change of the listed values lists the same keys. -/
theorem FMap.isSome_find_map {α β : Type} (m : FMap α) (f : Nat × α → Nat × β) (h : ∀ x, (f x).1 = x.1) (k : Nat) :
    (FMap.find (m.map f) k).isSome = (FMap.find m k).isSome := by
  induction m with
  | nil => rfl
  | cons x t ih =>
    simp only [List.map_cons, FMap.find, h]
    split
    · rfl
    · exact ih

theorem Mem.read_clear_other (m : Mem) {a n k : Nat} (h : k < a ∨ a + n ≤ k) : Mem.read (Mem.clear m a n) k = Mem.read m k := by
  have kept : FMap.find (Mem.clear m a n) k = FMap.find m k := FMap.find_filter_of_kept m _ (fun _ => by simpa using h)
  simp only [Mem.read, FMap.at, kept]

theorem Mem.readNat_congr {m m' : Mem} {a n : Nat} (h : ∀ k, a ≤ k → k < a + n → m.read k = m'.read k) : m.readNat a n = m'.readNat a n := by
  induction n generalizing a with
  | zero => rfl
  | succ n ih =>
    rw [Mem.readNat, Mem.readNat, h a (Nat.le_refl a) (by omega), ih (fun k hlo hhi => h k (by omega) (by omega))]

/-- The bytes of a number are stored as the number is. -/
theorem Mem.writeBytes_leBytes (m : Mem) (a n v : Nat) : m.writeBytes a (leBytes n v) = m.writeNat a n v := by
  induction n generalizing m a v with
  | zero => rfl
  | succ n ih => exact ih (m.write a (BitVec.ofNat 8 v)) (a + 1) (v / 256)

/-! What the walk and the home leave: the contexts, and the canonical form of memory -/

/-- `t` has the contexts that `s` has, and its memory has the canonical form where that of `s` has. -/
structure State.Tidy (s t : State) : Prop where
  wf : s.mem.wf = true → t.mem.wf = true
  ctxs : ∀ k, (t.ctx? k).isSome = (s.ctx? k).isSome

namespace State.Tidy

theorem refl (s : State) : s.Tidy s := ⟨id, fun _ => rfl⟩

theorem trans {s t u : State} (h : s.Tidy t) (h' : t.Tidy u) : s.Tidy u := ⟨h'.wf ∘ h.wf, fun k => (h'.ctxs k).trans (h.ctxs k)⟩

theorem of_eq {s t : State} (hmem : t.mem = s.mem) (hctxs : t.ctxs = s.ctxs) : s.Tidy t :=
  ⟨by rw [hmem]; exact id, fun k => by rw [State.ctx?, State.ctx?, hctxs]⟩

/-- A fold of changes that are tidy one by one is tidy. -/
theorem foldl {α : Type} {f : State → α → State} (h : ∀ (s : State) x, s.Tidy (f s x)) (xs : List α) (s : State) : s.Tidy (xs.foldl f s) := by
  induction xs generalizing s with
  | nil => exact refl s
  | cons x xs ih => exact (h s x).trans (ih (f s x))

end State.Tidy

@[simp] theorem State.unstamp_ctxs (s : State) (line : Nat) : (s.unstamp line).ctxs = s.ctxs := by
  unfold State.unstamp
  split <;> rfl

@[simp] theorem State.l2Evict_ctxs (s : State) (key : Nat) : (s.l2Evict key).ctxs = s.ctxs := by
  unfold State.l2Evict
  dsimp only
  rw [apply_ite State.ctxs, State.unstamp_ctxs, ite_self]
  split
  · split <;> rfl
  · rfl

@[simp] theorem State.l2Touch_ctxs (s : State) (ctx pa : Nat) (write : Bool) : (s.l2Touch ctx pa write).ctxs = s.ctxs := by
  unfold State.l2Touch
  dsimp only
  split
  · split <;> rfl
  · rw [State.addUsage_ctxs]
    dsimp only
    split
    · rfl
    · exact State.l2Evict_ctxs ..

theorem State.l2Touch_tidy (s : State) (ctx pa : Nat) (write : Bool) : s.Tidy (s.l2Touch ctx pa write) :=
  .of_eq (State.l2Touch_mem ..) (State.l2Touch_ctxs ..)

theorem State.modAgentUid_tidy (s : State) (uid : Nat) (f : AgentState → AgentState) : s.Tidy (s.modAgentUid uid f) where
  wf := id
  ctxs k := by
    unfold State.ctx? State.modAgentUid
    refine FMap.isSome_find_map _ _ ?_ k
    exact fun _ => rfl

theorem State.refusePartial_tidy (s : State) (p : Partial) (c : Cause) (reason : Nat) : s.Tidy (s.refusePartial p c reason) :=
  .foldl (fun s _ => s.modAgentUid_tidy _ _) _ s

theorem State.ownerEvent_tidy (s : State) (ctx pa : Nat) : s.Tidy (s.ownerEvent ctx pa) := .of_eq rfl rfl

theorem State.combine_tidy (s : State) (p : Partial) : s.Tidy (s.combine p) := by
  unfold State.combine
  split
  · exact (s.ownerEvent_tidy ..).trans (State.refusePartial_tidy ..)
  · split
    · refine .trans ?_ (State.refusePartial_tidy ..)
      exact .of_eq rfl rfl
    · refine .trans ?_ (State.l2Touch_tidy ..)
      exact ⟨Mem.wf_writeNat _ _ _, fun _ => rfl⟩

theorem State.recall_tidy (s : State) (line : Nat) : s.Tidy (s.recall line) := by
  unfold State.recall
  dsimp only
  split
  · exact .refl s
  · refine .trans ?_ (.foldl State.combine_tidy _ _)
    exact .of_eq rfl rfl

theorem State.walkerRead_tidy (s : State) (ctx pa : Nat) : s.Tidy (s.walkerRead ctx pa).1 := by
  unfold State.walkerRead
  split
  · exact .refl s
  · dsimp only
    split
    · exact s.recall_tidy _
    · exact (s.recall_tidy _).trans (State.l2Touch_tidy ..)

theorem State.mapWalk_tidy (s : State) (ctx va k table : Nat) : s.Tidy (s.mapWalk ctx va k table).1 := by
  induction k generalizing s table with
  | zero => exact .refl s
  | succ k ih =>
    have read := s.walkerRead_tidy ctx (table + 8 * walkIndex va (k + 2))
    unfold State.mapWalk
    split
    next h => rwa [h] at read
    next h =>
      rw [h] at read
      split
      · exact read
      · split
        · exact read
        · exact read.trans (ih ..)

theorem State.homeWriteBytes_tidy (s : State) (pa : Nat) (bs : List Byte) : s.Tidy (s.homeWriteBytes pa bs) := by
  have written : s.Tidy { s.recall (pa / 64) with mem := Mem.writeBytes (s.recall (pa / 64)).mem pa bs } :=
    (s.recall_tidy _).trans ⟨Mem.wf_writeBytes pa bs, fun _ => rfl⟩
  unfold State.homeWriteBytes
  dsimp only
  split
  · exact written.trans (.of_eq rfl rfl)
  · exact written

/-! `mapf` (R248) -/

/-- The bytes of a home write are in memory over what the recall of their line leaves there. -/
theorem State.homeWriteBytes_mem_recall (s : State) (pa : Nat) (bs : List Byte) :
    (s.homeWriteBytes pa bs).mem = Mem.writeBytes (s.recall (pa / 64)).mem pa bs := by
  unfold State.homeWriteBytes
  dsimp only
  split <;> rfl

/-- The ownership table is read from memory. -/
theorem State.frameWord_congr {s t : State} (h : t.mem = s.mem) (f : Nat) : t.frameWord f = s.frameWord f := by
  rw [State.frameWord, State.frameWord, h]

/-- A frame is given to a context: the entry `v` is written at the home, and the frame is zeroed and owned. -/
def State.giveFrame (s : State) (ctx a fr v : Nat) : State :=
  (((s.homeWriteBytes a (leBytes 8 v)).l2Touch ctx a true).zeroFrame fr).setFrameWord fr (0x8000 + ctx)

section
variable (s : State) (ctx a fr v : Nat)

theorem State.giveFrame_mem :
    (s.giveFrame ctx a fr v).mem =
      ((((s.recall (a / 64)).mem.writeNat a 8 v).clear (65536 * fr) 65536).writeNat (0x7FFF000000 + 2 * fr) 2 (0x8000 + ctx)) := by
  simp only [State.giveFrame, State.setFrameWord, State.zeroFrame, State.l2Touch_mem, State.homeWriteBytes_mem_recall, Mem.writeBytes_leBytes]

theorem State.giveFrame_ctxs : ∀ k, ((s.giveFrame ctx a fr v).ctx? k).isSome = (s.ctx? k).isSome :=
  ((s.homeWriteBytes_tidy a (leBytes 8 v)).trans (State.l2Touch_tidy _ ctx a true)).ctxs

/-- The bytes of the frame are zero, where it lies below the ownership table. -/
theorem State.giveFrame_read {x : Nat} (htable : 65536 * fr + 65536 ≤ 0x7FFF000000) (hlo : 65536 * fr ≤ x) (hhi : x < 65536 * fr + 65536) :
    Mem.read (s.giveFrame ctx a fr v).mem x = 0 := by
  rw [State.giveFrame_mem, Mem.read_writeNat_other _ _ _ _ (by omega), Mem.read_clear _ hlo hhi]

/-- The context owns the frame. -/
theorem State.giveFrame_frameWord (hwf : s.mem.wf = true) (hfr : fr < 2 ^ 23) (hctx : ctx < 2 ^ 12) :
    (s.giveFrame ctx a fr v).frameWord fr = 0x8000 + ctx := by
  rw [State.frameWord, if_pos hfr, State.giveFrame_mem]
  exact Mem.readNat_writeNat _ _ _ (Mem.wf_clear _ _ (Mem.wf_writeNat _ _ _ ((s.recall_tidy _).wf hwf))) (by omega)

/-- The entry holds what was written, where it lies outside the frame and below the ownership table. -/
theorem State.giveFrame_entry (hwf : s.mem.wf = true) (hv : v < 256 ^ 8) (htable : a + 8 ≤ 0x7FFF000000)
    (hout : a + 8 ≤ 65536 * fr ∨ 65536 * fr + 65536 ≤ a) : Mem.readNat (s.giveFrame ctx a fr v).mem a 8 = v := by
  rw [State.giveFrame_mem]
  calc Mem.readNat _ a 8
      = Mem.readNat ((s.recall (a / 64)).mem.writeNat a 8 v) a 8 := Mem.readNat_congr fun k hlo hhi => by
        rw [Mem.read_writeNat_other _ _ _ _ (by omega), Mem.read_clear_other _ (by omega)]
    _ = v := Mem.readNat_writeNat a 8 v ((s.recall_tidy _).wf hwf) hv

end

section
variable {s s1 s2 : State} {ctx a : Nat} {va : W64} (perm : BitVec 3) {c : Context} {e : W64} (hctx : s.ctx? ctx = some c)
  (hwalk : s.mapWalk ctx va.toNat 3 ((bits c.troot 12 40).toNat * 4096) = (s1, .ok a)) (hread : s1.walkerRead ctx a = (s2, some e))
include hctx hwalk hread

/-- The walk and the read of its entry keep the context. -/
theorem State.ctx?_of_mapWalk : (s2.ctx? ctx).isSome = true := by
  have walk := s.mapWalk_tidy ctx va.toNat 3 ((bits c.troot 12 40).toNat * 4096)
  have read := s1.walkerRead_tidy ctx a
  rw [hwalk] at walk
  rw [hread] at read
  rw [(walk.trans read).ctxs, hctx]
  rfl

theorem State.mapFrame_valid (he : e.getLsbD 0 = true) : s.mapFrame ctx va perm = (s2, 1) := by
  simp only [State.mapFrame, hctx, hwalk, hread, he, if_true]

variable (he : e.getLsbD 0 = false)
include he

theorem State.mapFrame_no_frame (hpool : c.pool = []) : s.mapFrame ctx va perm = (s2, 2) := by
  simp only [State.mapFrame, hctx, hwalk, hread, he, Bool.false_eq_true, if_false, hpool]

variable {fr : Nat} {rest : List Nat} (hpool : c.pool = fr :: rest)
include hpool

theorem State.mapFrame_refused (h : s2.homePasses ctx a true = false) : s.mapFrame ctx va perm = (s2.ownerEvent ctx a, 3) := by
  simp only [State.mapFrame, hctx, hwalk, hread, he, Bool.false_eq_true, if_false, hpool, State.homeWrite_refused _ h]

theorem State.mapFrame_maps (h : s2.homePasses ctx a true = true) :
    s.mapFrame ctx va perm =
      (((s2.giveFrame ctx a fr (3 + 4 * perm.toNat + 65536 * fr)).modCtx ctx (fun c => { c with pool := rest })).addUsage c.owner 11 1, 0) := by
  simp only [State.mapFrame, hctx, hwalk, hread, he, Bool.false_eq_true, if_false, hpool, State.homeWrite_passes _ h, State.giveFrame]

end

/-! Counters (R250) -/

/-- The bank that a `cnt` names. -/
abbrev Iss.bank (i : Iss) (s : State) : CounterBank := s.bank i.core (i.f.imm.toNat % 4)

/-- What a counter is set to: the event that it counts from now on, or nothing where the select is not accepted (R313). -/
def State.configured (s : State) (core : Nat) (v : W64) : BankCounter :=
  if eventOk v then { select := some (bits v 0 11), since := if s.clockStopped core then none else some s.now } else {}

section
variable {i : Iss} {s : State}

theorem cntBody_take_refused (hx : i.f.xs.toNat = 3)
    (h : (i.bank s).hyper = true ∨ ∃ x, (i.bank s).holder = some x ∧ x ≠ i.ctx) :
    cntBody i s = .ok (i.writeD s (i.eachLane (fun _ => 1))) := by
  simp only [cntBody, hx]
  rcases h with hhyper | ⟨x, hholder, hother⟩
  · rw [if_pos hhyper]
  · simp [hholder, hother]

theorem cntBody_take_held (hx : i.f.xs.toNat = 3) (hhyper : (i.bank s).hyper = false) (h : (i.bank s).holder = some i.ctx) :
    cntBody i s = .ok (i.writeD s (i.eachLane (fun _ => 0))) := by
  simp [cntBody, hx, hhyper, h]

theorem cntBody_take_free (hx : i.f.xs.toNat = 3) (hhyper : (i.bank s).hyper = false) (h : (i.bank s).holder = none) :
    cntBody i s = .ok (i.writeD (s.setBank i.core (i.f.imm.toNat % 4) { holder := some i.ctx }) (i.eachLane (fun _ => 0))) := by
  simp [cntBody, hx, hhyper, h]

theorem cntBody_configure_held (hx : i.f.xs.toNat = 4) (hhyper : (i.bank s).hyper = false) (h : (i.bank s).holder = some i.ctx) :
    cntBody i s = .ok (s.setBank i.core (i.f.imm.toNat % 4)
      { i.bank s with ctrs := FMap.put (i.bank s).ctrs (i.f.imm.toNat / 4 % 8) (s.configured i.core (i.vb s 0)) }) := by
  simp [cntBody, hx, hhyper, h, State.configured]

theorem cntBody_configure_other (hx : i.f.xs.toNat = 4) (h : ¬ ((i.bank s).holder = some i.ctx ∧ (i.bank s).hyper = false)) :
    cntBody i s = .ok s := by
  have other : ((i.bank s).holder == some i.ctx && !(i.bank s).hyper) = false := by
    rw [Bool.eq_false_iff]
    simpa using h
  simp only [cntBody, hx, other]
  rfl

end

end Sys2Proof.Machine

namespace Sys2Proof.Proofs

open Sys2Proof Sys2Proof.Machine

/-- Settles O44: each instruction by its body, and `mapf` by what its walk has reached: the entry that the home takes is in memory, the
frame cleared and owned. -/
theorem systemResults : Obligations.SystemResults := by
  refine ⟨?_, ?_⟩
  · intro f s c g always here reg word hMapf page bank k put mode cnt select mine
    refine ⟨?_, ?_, ?_, fun l ls dst => ?_, ?_, ?_, ?_, fun ag => ?_, ?_, ?_, ?_, ?_, ?_, ?_, ?_, ?_, ?_, ?_, ?_⟩
    -- R246, R247: `sysr` and `sysw`.
    · refine effect_of rfl fun i hf _ _ ⟨hc, hg⟩ => ?_
      have value : sysrValue i s = reg := by
        subst hf
        rw [sysrValue, hc, hg]
        rfl
      rw [value]
    · exact effect_of rfl fun _ _ _ _ _ => rfl
    -- R249: `fltr`.
    · refine effect_of rfl fun i hf _ _ ⟨_, hg⟩ => ?_
      simp only [hg, hf]
      rfl
    -- R248: `mapf`, with a lane and without one.
    · refine effect_of rfl fun i hf _ _ ⟨hl, hd⟩ => ?_
      simp only [hl, hd]
      rfl
    · refine effect_of rfl fun i hf _ _ hl => ?_
      simp only [hl]
    -- R250: `cnt` reads.
    · refine effect_of rfl fun i hf _ _ ⟨hx, _⟩ => ?_
      subst hf
      simp only [cntBody, hx]
      rfl
    · refine effect_of rfl fun i hf _ _ ⟨hx, _⟩ => ?_
      subst hf
      simp only [cntBody, hx]
      rfl
    · refine effect_of rfl fun i hf _ _ ⟨hx, hag⟩ => ?_
      subst hf
      simp only [cntBody, hx, hag]
      rfl
    -- R250: `cnt` takes a bank that it may not have, has already, or may have.
    · refine effect_of rfl fun i hf _ _ ⟨hx, h⟩ => ?_
      subst hf
      exact cntBody_take_refused hx h
    · refine effect_of rfl fun i hf _ _ ⟨hx, hholder, hhyper⟩ => ?_
      subst hf
      exact cntBody_take_held hx hhyper hholder
    · refine effect_of rfl fun i hf _ _ ⟨hx, hholder, hhyper⟩ => ?_
      subst hf
      exact cntBody_take_free hx hhyper hholder
    -- R250: `cnt` configures and frees its own bank, and no other.
    · refine effect_of rfl fun i hf _ _ ⟨hx, hholder, hhyper⟩ => ?_
      subst hf
      exact cntBody_configure_held hx hhyper hholder
    · refine effect_of rfl fun i hf _ _ ⟨hx, h⟩ => ?_
      subst hf
      exact cntBody_configure_other hx h
    · refine effect_of rfl fun i hf _ _ ⟨hx, h⟩ => ?_
      subst hf
      simp only [cntBody, hx]
      exact if_pos h
    · refine effect_of rfl fun i hf _ _ ⟨hx, h⟩ => ?_
      subst hf
      simp only [cntBody, hx]
      exact if_neg h
    -- R251: `dbg`, and a break.
    · refine effect_of rfl fun i hf _ _ h => ?_
      subst hf
      rcases h with hmark | hquiet
      · simp only [hmark]
        rfl
      · simp only [hquiet, Bool.and_false, Bool.false_eq_true, if_false]
    · intro i p hp hx hb
      obtain ⟨hf, -, -, -⟩ := mkIss_fields hp.operands
      refine runIss_waits hp ?_
      simp only [hf, hx, hb]
      rfl
    -- R248: MAPF_COMPLETION.
    · intro op o va perm dst ho hk r
      show execMapfCompletion op s = _
      simp only [execMapfCompletion, ho, getSome, bind, Except.bind, hk]
      rfl
    -- R251: BREAK_ARM.
    · intro ctx on h
      obtain ⟨c, hc⟩ := Option.isSome_iff_exists.1 h
      show execBreakArm ctx on s = _
      simp only [execBreakArm, hc]
      rfl
  · intro s s1 s2 ctx a fr va perm c e rest hctx hwalk hread r
    refine ⟨fun he => ?_, fun he hpool => ?_, fun he hpool hhome => ?_, fun he hpool hhome hwf hfr hlt htable hout hframe => ?_⟩
    -- R248: a valid entry, an empty pool, a write that the home refuses, a frame that is mapped.
    · exact State.mapFrame_valid perm hctx hwalk hread he
    · exact State.mapFrame_no_frame perm hctx hwalk hread he hpool
    · have hr : r = _ := State.mapFrame_refused perm hctx hwalk hread he hpool hhome
      rw [hr]
      exact ⟨rfl, rfl, rfl⟩
    · let given := s2.giveFrame ctx a fr (3 + 4 * perm.toNat + 65536 * fr)
      have hr : r = _ := State.mapFrame_maps perm hctx hwalk hread he hpool hhome
      have hmem : r.1.mem = given.mem := by rw [hr]; rfl
      have hperm : perm.toNat < 8 := perm.isLt
      refine ⟨by rw [hr], fun x hlo hhi => ?_, ?_, ?_, ?_⟩
      · rw [hmem, s2.giveFrame_read ctx a fr _ hframe hlo hhi]
      · rw [State.frameWord_congr hmem, s2.giveFrame_frameWord ctx a fr _ hwf hfr hlt]
      · rw [hmem, s2.giveFrame_entry ctx a fr _ hwf (by omega) htable hout]
      · have present : (given.ctx? ctx).isSome = true :=
          (s2.giveFrame_ctxs ctx a fr _ ctx).trans (State.ctx?_of_mapWalk hctx hwalk hread)
        obtain ⟨c', hc'⟩ := Option.isSome_iff_exists.1 present
        refine ⟨{ c' with pool := rest }, ?_, rfl⟩
        rw [hr, State.addUsage_ctx?, State.ctx?_modCtx, if_pos rfl, hc']
        rfl

end Sys2Proof.Proofs
end

section
/-! PROOFS. O16: integer arithmetic. -/
namespace Sys2Proof.Machine

open Sys2Proof

/-- An operand of an unsigned type is no negative number (R155). -/
theorem intOf_nonneg {ty : Nat} (h : signedTy ty = false) (v : W64) : 0 ≤ intOf ty v := by
  simp only [intOf, h, Bool.false_and, Bool.false_eq_true, if_false]
  exact Int.natCast_nonneg _

/-- R161: but for a zero divisor, both kinds of type divide towards zero. -/
theorem divTy_intOf (ty : Nat) (a b : W64) :
    divTy ty (intOf ty a) (intOf ty b) = if intOf ty b = 0 then -1 else (intOf ty a).tdiv (intOf ty b) := by
  cases h : signedTy ty
  case true => simp only [divTy, h, if_true]
  case false => simp only [divTy, h, Bool.false_eq_true, if_false, Int.tdiv_eq_ediv_of_nonneg (intOf_nonneg h a)]

/-- A short form has the first of its opcode's sub-operations (R119). -/
theorem Iss.sub_of_short {i : Iss} {seq : Bool} {op : Nat} {g : Short} (h : i.f = shortExt seq op g) : i.f.sub = 0 := by
  rw [h]
  rfl

end Sys2Proof.Machine

namespace Sys2Proof.Proofs

open Sys2Proof Sys2Proof.Machine

/-- Settles O16: each lane's result is the lane operation of its opcode; division by the sign of its operands, the others as they stand. -/
theorem integerArithmeticResults : Obligations.IntegerArithmeticResults := by
  intro f g s t fit x y z u
  refine ⟨?_, ?_, ?_, ?_, ?_, ?_, ?_, ?_, ?_, ?_, ?_, ?_, ?_, ?_, ?_, ?_⟩
  -- R159: `add` and `sub`, which do not saturate in the short form.
  · exact laneResults_of rfl fun i l hf _ => by subst hf; rfl
  · exact laneResults_of rfl fun i l hf _ => by simp only [intLane, intBinary, Iss.sub_of_short hf]; rfl
  · exact laneResults_of rfl fun i l hf _ => by subst hf; rfl
  · exact laneResults_of rfl fun i l hf _ => by simp only [intLane, intBinary, Iss.sub_of_short hf]; rfl
  -- R160: `mul`, `mulh` and `mad`.
  · exact laneResults_of rfl fun i l hf _ => by subst hf; rfl
  · exact laneResults_of rfl fun i l _ _ => rfl
  · exact laneResults_of rfl fun i l hf _ => by subst hf; rfl
  · exact laneResults_of rfl fun i l hf _ => by subst hf; rfl
  -- R161: `div` and `rem`.
  · refine laneResults_of rfl fun i l hf _ => ?_
    subst hf
    simp only [intLane, intBinary, divTy_intOf, apply_ite (wrapTy i.f.ty.toNat)]
    rfl
  · refine laneResults_of rfl fun i l hf _ => ?_
    subst hf
    simp only [intLane, intBinary, remTy, apply_ite (wrapTy i.f.ty.toNat)]
    rfl
  -- R162: `min`, `max`, `abs` and `neg`.
  · exact laneResults_of rfl fun i l hf _ => by subst hf; rfl
  · exact laneResults_of rfl fun i l _ _ => rfl
  · exact laneResults_of rfl fun i l hf _ => by subst hf; rfl
  · exact laneResults_of rfl fun i l _ _ => rfl
  · exact laneResults_of rfl fun i l hf _ => by subst hf; rfl
  · refine laneResults_of rfl fun i l hf _ => ?_
    subst hf
    simp only [intLane, intBinary]
    cases signedTy i.f.ty.toNat
    case true => simp only [Bool.not_true, Bool.false_and, Bool.false_eq_true, if_false, if_true]; rfl
    case false =>
      by_cases hs : i.f.sub.toNat = 1
      · simp [hs]
      · simp [hs, fit, y, t]

end Sys2Proof.Proofs
end

section
/-! PROOFS. O17: bitwise operations, shifts, rotates, fields and bit counts. -/
namespace Sys2Proof.Machine

open Sys2Proof

theorem tyBits_pos (ty : Nat) : 0 < tyBits ty := by
  unfold tyBits
  split
  · decide
  · split
    · decide
    · split <;> decide

theorem natOf_lt (ty : Nat) (v : W64) : natOf ty v < 2 ^ tyBits ty := Nat.mod_lt _ (Nat.two_pow_pos _)

/-! A signed number and its pattern (R59) -/

/-- The bits of a signed number, wrapped to a type of its width, are its pattern. -/
theorem wrapTy_toInt (ty : Nat) (x : BitVec (tyBits ty)) : wrapTy ty x.toInt = extendTy ty x.toNat := by
  have pattern := BitVec.toNat_ofInt (n := tyBits ty) x.toInt
  rw [BitVec.ofInt_toInt] at pattern
  push_cast at pattern
  rw [wrapTy, pattern]

theorem wrapTy_natCast (ty v : Nat) : wrapTy ty v = extendTy ty v := by
  have low : ((v : Int) % 2 ^ tyBits ty).toNat = v % 2 ^ tyBits ty := by
    exact_mod_cast Int.toNat_natCast _
  rw [wrapTy, low]
  simp only [extendTy, Nat.mod_mod]

/-- A pattern of `n` bits as a signed number: less by `2 ^ n` where its highest bit is set. -/
theorem toInt_ofNat_of_lt {n v : Nat} (hn : 0 < n) (hv : v < 2 ^ n) :
    (BitVec.ofNat n v).toInt = if 2 ^ (n - 1) ≤ v then (v : Int) - 2 ^ n else v := by
  have double : 2 ^ n = 2 * 2 ^ (n - 1) := by rw [← Nat.pow_succ', Nat.succ_eq_add_one, Nat.sub_add_cancel hn]
  rw [BitVec.toInt_eq_toNat_cond, BitVec.toNat_ofNat, Nat.mod_eq_of_lt hv]
  push_cast
  by_cases h : 2 ^ (n - 1) ≤ v
  · rw [if_pos h, if_neg (by omega)]
  · rw [if_neg h, if_pos (by omega)]

/-! Shifts and rotates (R164) -/

/-- A signed number of `n` bits is all sign after a shift by `n` or more. -/
theorem toInt_div_two_pow_min {n : Nat} (x : BitVec n) (k : Nat) : x.toInt / 2 ^ min k n = x.toInt / 2 ^ k := by
  rcases Nat.le_total k n with h | h
  · rw [Nat.min_eq_left h]
  · rw [Nat.min_eq_right h]
    have half : (2 : Int) ^ (n - 1) ≤ 2 ^ n := by exact_mod_cast Nat.pow_le_pow_right (n := 2) (by decide) (Nat.sub_le n 1)
    have far : (2 : Int) ^ n ≤ 2 ^ k := by exact_mod_cast Nat.pow_le_pow_right (n := 2) (by decide) h
    have low := x.le_toInt
    have high := x.toInt_lt
    by_cases hneg : x.toInt < 0
    · rw [Int.ediv_eq_neg_one_of_neg_of_le hneg (by omega), Int.ediv_eq_neg_one_of_neg_of_le hneg (by omega)]
    · rw [Int.ediv_eq_zero_of_lt (by omega) (by omega), Int.ediv_eq_zero_of_lt (by omega) (by omega)]

/-- The two parts of a rotated pattern have no bit in common. -/
theorem rotated_parts {n k x : Nat} (hk : k ≤ n) (hx : x < 2 ^ n) :
    x * 2 ^ k % 2 ^ n + x / 2 ^ (n - k) = x <<< k % 2 ^ n ||| x >>> (n - k) := by
  have split : 2 ^ n = 2 ^ k * 2 ^ (n - k) := by rw [← Nat.pow_add, Nat.add_sub_cancel' hk]
  have part : x / 2 ^ (n - k) < 2 ^ k := Nat.div_lt_of_lt_mul (by rwa [Nat.mul_comm, ← split])
  rw [Nat.shiftLeft_eq, Nat.shiftRight_eq_div_pow, Nat.mul_comm x, split, Nat.mul_mod_mul_left, Nat.two_pow_add_eq_or_of_lt part]

theorem toNat_rotateLeft_ofNat {n x : Nat} (hx : x < 2 ^ n) (hn : 0 < n) (k : Nat) :
    ((BitVec.ofNat n x).rotateLeft k).toNat = x * 2 ^ (k % n) % 2 ^ n + x / 2 ^ (n - k % n) := by
  rw [rotated_parts (Nat.le_of_lt (Nat.mod_lt k hn)) hx, BitVec.toNat_rotateLeft, BitVec.toNat_ofNat, Nat.mod_eq_of_lt hx]

/-- To rotate right is to rotate left by the rest of the width. -/
theorem rotateRight_eq_rotateLeft {n : Nat} (hn : 0 < n) (x : BitVec n) (k : Nat) : x.rotateRight k = x.rotateLeft (n - k % n) := by
  have amount := Nat.mod_lt k hn
  rw [BitVec.rotateRight_def, BitVec.rotateLeft_def, BitVec.or_comm]
  rcases Nat.eq_zero_or_pos (k % n) with h | h
  · have gone : x >>> n = 0#n := BitVec.ushiftRight_eq_zero (Nat.le_refl n)
    simp [h, gone]
  · rw [Nat.mod_eq_of_lt (by omega : n - k % n < n), Nat.sub_sub_self (Nat.le_of_lt amount)]

theorem shiftOp_shl (sub ty : Nat) (a b : W64) :
    shiftOp 0x22 sub ty a b =
      if tyBits ty ≤ (bits b 0 32).toNat then 0 else extendTy ty (natOf ty a <<< (bits b 0 32).toNat) := by
  rw [toNat_bits_zero, Nat.shiftLeft_eq]
  rfl

theorem shiftOp_shr (sub ty : Nat) (a b : W64) :
    shiftOp 0x23 sub ty a b =
      if tyBits ty ≤ (bits b 0 32).toNat then 0 else extendTy ty (natOf ty a >>> (bits b 0 32).toNat) := by
  rw [toNat_bits_zero, Nat.shiftRight_eq_div_pow]
  rfl

theorem shiftOp_sar (sub ty : Nat) (a b : W64) :
    shiftOp 0x24 sub ty a b =
      extendTy ty ((BitVec.ofNat (tyBits ty) (natOf ty a)).sshiftRight (bits b 0 32).toNat).toNat := by
  rw [← wrapTy_toInt, BitVec.toInt_sshiftRight, Int.shiftRight_eq_div_pow]
  push_cast
  rw [← toInt_div_two_pow_min, toInt_ofNat_of_lt (tyBits_pos ty) (natOf_lt ty a), toNat_bits_zero]
  rfl

theorem shiftOp_rot (sub ty : Nat) (a b : W64) :
    let x := BitVec.ofNat (tyBits ty) (natOf ty a)
    let k := (bits b 0 32).toNat
    shiftOp 0x25 sub ty a b = if sub = 0 then extendTy ty (x.rotateLeft k).toNat else extendTy ty (x.rotateRight k).toNat := by
  intro x k
  have rotated := toNat_rotateLeft_ofNat (natOf_lt ty a) (tyBits_pos ty)
  simp only [x, k, toNat_bits_zero, rotateRight_eq_rotateLeft (tyBits_pos ty), rotated]
  by_cases h : sub = 0
  · simp only [shiftOp, h, if_true]
  · simp only [shiftOp, h, if_false]

/-! Fields (R165) -/

/-- The position of a field, as its control gives it (R165). -/
def fieldPos (ctl : W64) : Nat := (bits ctl 0 8).toNat
/-- The length of a field, clipped to `n` bits (R165). -/
def fieldLen (n : Nat) (ctl : W64) : Nat := min (bits ctl 8 8).toNat (n - fieldPos ctl)

theorem fieldOf_eq (n : Nat) (ctl : W64) :
    fieldOf n ctl = if fieldLen n ctl = 0 then none else some (fieldPos ctl, fieldLen n ctl) := by
  have pos : ctl.toNat % 256 = fieldPos ctl := (toNat_bits_zero ctl 8).symm
  have len : ctl.toNat / 256 % 256 = (bits ctl 8 8).toNat := by simp [Nat.shiftRight_eq_div_pow]
  have empty : ((bits ctl 8 8).toNat = 0 ∨ n ≤ fieldPos ctl) ↔ fieldLen n ctl = 0 := by
    unfold fieldLen
    omega
  simp only [fieldOf, pos, len, Bool.or_eq_true, decide_eq_true_eq, empty]
  rfl

theorem bfeOp_eq (sub ty : Nat) (a b : W64) :
    let l := fieldLen (tyBits ty) b
    let v := natOf ty a >>> fieldPos b % 2 ^ l
    bfeOp sub ty a b =
      if l = 0 then 0
      else if sub = 1 then extendTy ty ((BitVec.ofNat l v).signExtend (tyBits ty)).toNat else extendTy ty v := by
  intro l v
  by_cases hl : l = 0
  · rw [if_pos hl, bfeOp, fieldOf_eq, if_pos hl]
  have field : fieldOf (tyBits ty) b = some (fieldPos b, l) := by rw [fieldOf_eq, if_neg hl]
  have fits : l ≤ tyBits ty := Nat.le_trans (Nat.min_le_right _ _) (Nat.sub_le _ _)
  have value : natOf ty a / 2 ^ fieldPos b % 2 ^ l = v := by rw [← Nat.shiftRight_eq_div_pow]
  have below : v < 2 ^ l := Nat.mod_lt _ (Nat.two_pow_pos l)
  rw [if_neg hl, ← wrapTy_toInt, BitVec.toInt_signExtend_of_le fits, toInt_ofNat_of_lt (by omega) below]
  simp only [bfeOp, field, value, Bool.and_eq_true, decide_eq_true_eq]
  by_cases hsub : sub = 1
  · by_cases hsign : 2 ^ (l - 1) ≤ v
    · rw [if_pos ⟨hsub, hsign⟩, if_pos hsub, if_pos hsign]
    · rw [if_neg (fun h => hsign h.2), if_pos hsub, if_neg hsign, wrapTy_natCast]
  · rw [if_neg (fun h => hsub h.1), if_neg hsub]

/-- The bits of a number whose field of `l` bits at `p` is replaced by the low bits of another. -/
theorem testBit_insert (x c p l j : Nat) :
    (x - x / 2 ^ p % 2 ^ l * 2 ^ p + c % 2 ^ l * 2 ^ p).testBit j =
      if p ≤ j ∧ j < p + l then c.testBit (j - p) else x.testBit j := by
  have whole : 2 ^ p * (x / 2 ^ p) + x % 2 ^ p = x := Nat.div_add_mod x _
  have upper : 2 ^ l * (x / 2 ^ p / 2 ^ l) + x / 2 ^ p % 2 ^ l = x / 2 ^ p := Nat.div_add_mod _ _
  have parts : x - x / 2 ^ p % 2 ^ l * 2 ^ p + c % 2 ^ l * 2 ^ p =
      2 ^ p * (2 ^ l * (x / 2 ^ p / 2 ^ l) + c % 2 ^ l) + x % 2 ^ p := by
    have moved := congrArg (2 ^ p * ·) upper
    simp only [Nat.mul_add] at moved ⊢
    rw [Nat.mul_comm _ (2 ^ p), Nat.mul_comm _ (2 ^ p)]
    omega
  rw [parts, Nat.testBit_two_pow_mul_add _ (Nat.mod_lt _ (Nat.two_pow_pos p)),
    Nat.testBit_two_pow_mul_add _ (Nat.mod_lt _ (Nat.two_pow_pos l))]
  by_cases hp : j < p
  · rw [if_pos hp, if_neg (fun h => Nat.not_le.2 hp h.1), Nat.testBit_mod_two_pow, decide_eq_true hp, Bool.true_and]
  · rw [if_neg hp]
    by_cases hl : j - p < l
    · rw [if_pos hl, if_pos (by omega), Nat.testBit_mod_two_pow, decide_eq_true hl, Bool.true_and]
    · have place : p + (l + (j - p - l)) = j := by omega
      rw [if_neg hl, if_neg (by omega), Nat.div_div_eq_div_mul, ← Nat.pow_add, ← Nat.shiftRight_eq_div_pow, Nat.testBit_shiftRight,
        Nat.add_assoc, place]

/-- `bfi` as one replacement of bits, an empty field included. -/
theorem bfiOp_insert (ty : Nat) (a b c : W64) :
    let p := fieldPos b
    let l := fieldLen (tyBits ty) b
    bfiOp ty a b c = extendTy ty (natOf ty a - natOf ty a / 2 ^ p % 2 ^ l * 2 ^ p + c.toNat % 2 ^ l * 2 ^ p) := by
  intro p l
  by_cases hl : l = 0
  · have field : fieldOf (tyBits ty) b = none := by rw [fieldOf_eq, if_pos hl]
    simp only [bfiOp, field, hl, Nat.pow_zero, Nat.mod_one, Nat.zero_mul, Nat.sub_zero, Nat.add_zero]
  · have field : fieldOf (tyBits ty) b = some (p, l) := by rw [fieldOf_eq, if_neg hl]
    simp only [bfiOp, field]

/-- A result is extended from its low bits. -/
theorem extendTy_ofNat (ty v : Nat) : extendTy ty (BitVec.ofNat (tyBits ty) v).toNat = extendTy ty v := by
  simp only [extendTy, BitVec.toNat_ofNat, Nat.mod_mod]

/-- `bfi` by the mask of its field (R165). -/
theorem bfiOp_eq (ty : Nat) (a b c : W64) :
    let n := tyBits ty
    let m : BitVec n := (BitVec.allOnes (fieldLen n b)).setWidth n <<< fieldPos b
    let field : BitVec n := BitVec.ofNat n c.toNat <<< fieldPos b
    bfiOp ty a b c = extendTy ty ((BitVec.ofNat n (natOf ty a) &&& ~~~m) ||| (field &&& m)).toNat := by
  intro n m field
  rw [bfiOp_insert, ← extendTy_ofNat]
  refine congrArg (fun (x : BitVec n) => extendTy ty x.toNat) (BitVec.eq_of_getLsbD_eq fun j hj => ?_)
  have masked : m.getLsbD j = decide (fieldPos b ≤ j ∧ j < fieldPos b + fieldLen n b) := by
    rw [Bool.eq_iff_iff]
    simp only [m, BitVec.getLsbD_shiftLeft, BitVec.getLsbD_setWidth, BitVec.getLsbD_allOnes, Bool.and_eq_true, Bool.not_eq_true',
      decide_eq_true_eq, decide_eq_false_iff_not]
    omega
  have placed (h : fieldPos b ≤ j) : field.getLsbD j = c.toNat.testBit (j - fieldPos b) := by
    have inside : j - fieldPos b < n := Nat.lt_of_le_of_lt (Nat.sub_le _ _) hj
    have after : ¬ j < fieldPos b := Nat.not_lt.2 h
    simp only [field, BitVec.getLsbD_shiftLeft, BitVec.getLsbD_ofNat, n, hj, inside, after, decide_true, decide_false, Bool.not_false,
      Bool.true_and]
  rw [BitVec.getLsbD_ofNat, testBit_insert, BitVec.getLsbD_or, BitVec.getLsbD_and, BitVec.getLsbD_and, BitVec.getLsbD_not,
    BitVec.getLsbD_ofNat, masked]
  by_cases h : fieldPos b ≤ j ∧ j < fieldPos b + fieldLen n b
  · rw [if_pos h, decide_eq_true h, placed h.1]
    simp [hj]
  · rw [if_neg h, decide_eq_false h]
    simp [hj]

/-! Bit counts (R166) -/

/-- As many leading entries are clear as come before the first set one. -/
theorem length_takeWhile_not (l : List Bool) : (l.takeWhile (fun t => !t)).length = l.findIdx (fun t => t) := by
  have le : l.findIdx (fun t => t) ≤ l.length := List.findIdx_le_length
  rw [List.takeWhile_eq_take_findIdx_not, List.length_take]
  simp only [Bool.not_not]
  exact Nat.min_eq_left le

theorem getElem_bitsOf {n x i : Nat} (h : i < (bitsOf n x).length) : (bitsOf n x)[i] = x.testBit i := by simp [bitsOf]

@[simp] theorem length_bitsOf (n x : Nat) : (bitsOf n x).length = n := by simp [bitsOf]

/-- Set bits, counted in the list of bits, are the numbers of the set bits. -/
theorem length_filter_bitsOf (n x : Nat) :
    ((bitsOf n x).filter (fun t => t)).length = ((List.range n).filter x.testBit).length := by
  rw [bitsOf, List.filter_map, List.length_map]
  rfl

theorem length_takeWhile_bitsOf (n x : Nat) :
    ((bitsOf n x).takeWhile (fun t => !t)).length = ((List.range n).find? x.testBit).getD n := by
  rw [length_takeWhile_not, bitsOf, List.findIdx_map, List.find?_eq_getElem?_findIdx]
  have le : (List.range n).findIdx x.testBit ≤ n := by simpa using List.findIdx_le_length (p := x.testBit) (xs := List.range n)
  change (List.range n).findIdx x.testBit = _
  rcases Nat.lt_or_eq_of_le le with h | h
  · simp [List.getElem?_range h]
  · simp [h]

theorem length_takeWhile_reverse_bitsOf {n x : Nat} (hx : x < 2 ^ n) :
    ((bitsOf n x).reverse.takeWhile (fun t => !t)).length = if x = 0 then n else n - 1 - x.log2 := by
  rw [length_takeWhile_not]
  by_cases h0 : x = 0
  · rw [if_pos h0]
    have clear : (bitsOf n x).reverse.findIdx (fun t => t) = (bitsOf n x).reverse.length := by
      rw [List.findIdx_eq_length]
      intro t ht
      obtain ⟨k, -, hk⟩ := List.mem_map.1 (List.mem_reverse.1 ht)
      rw [← hk, h0, Nat.zero_testBit]
    rw [clear, List.length_reverse, length_bitsOf]
  · rw [if_neg h0]
    have high : x.log2 < n := (Nat.log2_lt h0).2 hx
    rw [List.findIdx_eq (by rw [List.length_reverse, length_bitsOf]; omega)]
    simp only [List.getElem_reverse, length_bitsOf, getElem_bitsOf]
    refine ⟨?_, fun j hj => ?_⟩
    · rw [show n - 1 - (n - 1 - x.log2) = x.log2 by omega, Nat.testBit_log2 h0]
    · exact Nat.testBit_lt_two_pow (Nat.lt_of_lt_of_le Nat.lt_log2_self (Nat.pow_le_pow_right (by decide) (by omega)))

/-- Read from the other end, the bits of a number are those of its reversed pattern. -/
theorem foldl_bitsOf (n x : Nat) :
    (bitsOf n x).foldl (fun v t => 2 * v + if t then 1 else 0) 0 = (BitVec.ofNat n x).reverse.toNat := by
  induction n with
  | zero => simp [bitsOf, BitVec.reverse, Nat.mod_one]
  | succ n ih =>
    have last : bitsOf (n + 1) x = bitsOf n x ++ [x.testBit n] := by simp [bitsOf, List.range_succ]
    have top : (BitVec.ofNat (n + 1) x).msb = x.testBit n := by
      rw [BitVec.msb_eq_getLsbD_last, BitVec.getLsbD_ofNat]
      simp
    rw [last, List.foldl_append, ih, BitVec.reverse, BitVec.toNat_concat, top, BitVec.truncate_eq_setWidth,
      BitVec.setWidth_ofNat_of_le (Nat.le_succ n)]
    cases x.testBit n <;> simp [Nat.mul_comm]

theorem bitOp_eq (sub ty : Nat) (v : W64) :
    let n := tyBits ty
    let b := natOf ty v
    bitOp sub ty v =
      if sub = 0 then extendTy ty ((List.range n).filter b.testBit).length
      else if sub = 1 then extendTy ty (if b = 0 then n else n - 1 - b.log2)
      else if sub = 2 then extendTy ty (((List.range n).find? b.testBit).getD n)
      else extendTy ty (BitVec.ofNat n b).reverse.toNat := by
  intro n b
  simp only [bitOp, length_filter_bitsOf, length_takeWhile_bitsOf, length_takeWhile_reverse_bitsOf (natOf_lt ty v), foldl_bitsOf]
  split
  next => rfl
  next => rfl
  next => rfl
  next h0 h1 h2 => rw [if_neg h0, if_neg h1, if_neg h2]

end Sys2Proof.Machine

namespace Sys2Proof.Proofs

open Sys2Proof Sys2Proof.Machine

/-- Settles O17: shifts, rotates, fields and bit counts, which the model forms by arithmetic, are the operations on the bits of the type. -/
theorem logicAndShiftResults : Obligations.LogicAndShiftResults := by
  intro f g s t n u a k ext shl shr sar p len
  have number (i : Iss) (m) : i.f.sub = m ↔ i.f.sub.toNat = m.toNat := BitVec.toNat_eq
  refine ⟨?_, ?_, ?_, ?_, ?_, ?_, ?_, ?_, ?_, ?_, ?_, ?_, ?_, ?_, ?_, ?_, ?_, ?_⟩
  -- R163: `and`, `or`, `xor`, `andn` and `not`.
  · exact laneResults_of rfl fun _ _ _ _ => rfl
  · exact laneResults_of rfl fun _ _ _ _ => rfl
  · exact laneResults_of rfl fun _ _ _ _ => rfl
  · exact laneResults_of rfl fun _ _ _ _ => rfl
  · exact laneResults_of rfl fun _ _ _ _ => rfl
  · exact laneResults_of rfl fun _ _ _ _ => rfl
  · exact laneResults_of rfl fun _ _ _ _ => rfl
  · exact laneResults_of rfl fun _ _ _ _ => rfl
  -- R164: `shl`, `shr`, `sar` and `rot`.
  · exact laneResults_of rfl fun i l _ _ => (shiftOp_shl i.f.sub.toNat _ _ _).symm
  · exact laneResults_of rfl fun i l _ _ => (shiftOp_shl i.f.sub.toNat _ _ _).symm
  · exact laneResults_of rfl fun i l _ _ => (shiftOp_shr i.f.sub.toNat _ _ _).symm
  · exact laneResults_of rfl fun i l _ _ => (shiftOp_shr i.f.sub.toNat _ _ _).symm
  · exact laneResults_of rfl fun i l _ _ => (shiftOp_sar i.f.sub.toNat _ _ _).symm
  · exact laneResults_of rfl fun i l _ _ => (shiftOp_sar i.f.sub.toNat _ _ _).symm
  · refine laneResults_of rfl fun i l hf _ => ?_
    subst hf
    simp only [number]
    exact (shiftOp_rot _ _ _ _).symm
  -- R165: `bfe` and `bfi`.
  · refine laneResults_of rfl fun i l hf _ => ?_
    subst hf
    simp only [number]
    exact (bfeOp_eq _ _ _ _).symm
  · exact laneResults_of rfl fun i l _ _ => (bfiOp_eq _ _ _ _).symm
  -- R166: `bit`.
  · refine laneResults_of rfl fun i l hf _ => ?_
    subst hf
    have all (x : Nat) : (List.range (n i)).filter (fun j => x.testBit j && decide (0 ≤ j) && decide (j < n i)) =
        (List.range (n i)).filter x.testBit := List.filter_congr fun j hj => by
      simp [List.mem_range.1 hj]
    simp only [number, all]
    exact (bitOp_eq _ _ _).symm

end Sys2Proof.Proofs
end
